-- ==== Sys2Proof/Word.lean ====
section
/-!
DEFINITION. The words of the device: 32-bit registers and bytes (R5).
-/
namespace Sys2Proof

/-- A 32-bit register or message word. -/
abbrev Word := BitVec 32

/-- A byte. -/
abbrev Byte := BitVec 8

end Sys2Proof
end

