-- ==== Sys2Proof/Syntax.lean ====
section
/-!
DEFINITION. The commands of the block: one constructor of `Instr` per row of spec/opcode_table.json, with the operands that the happening carries from outside.
-/
namespace Sys2Proof

/-- A door that has a mailbox (R11, R179): a partition page, or the safety port. -/
inductive Door where
  | page (p : Fin 32)
  | ssp
deriving DecidableEq, Repr

/-- The guard of a Rorid instruction (R298). -/
structure Guard where
  psel : BitVec 3
  pinv : Bool
deriving DecidableEq, Repr

/-- Where a register access falls: BAR0 of function `p`, or BAR2 of PF0; byte offsets (R552, R554). -/
inductive RegAddr where
  | page (p : Fin 32) (off : BitVec 16)
  | glob (off : BitVec 24)
deriving DecidableEq, Repr

/-- A read request: its first byte and its length in bytes (R547). -/
structure RegRead where
  addr : RegAddr
  len : Nat := 4
deriving DecidableEq, Repr

/-- The forms of a write request (R547): one word, eight aligned bytes, or any other byte enables, length or alignment. -/
inductive RegWrite where
  | word (w : BitVec 32)
  | pair (w : BitVec 64)
  | other
deriving DecidableEq, Repr

/-- What a boot meets outside the registers (R476, R521): a fuse-array ECC error, which ferry engines pass the self-test, whether the firmware of the first and of the second slot tried finishes step 5 before the watchdog expires, and the limit in MHz that the flash's SFDP tables declare for 8D-8D-8D reads (R573). -/
structure BootInputs where
  fuseError : Bool
  selfTest : BitVec 16
  inTime : Bool
  inTime2 : Bool
  sfdpLimit : Option (BitVec 8) := none
deriving DecidableEq, Repr

/-- The monitored rails (R525). -/
inductive Rail where
  | core | aon | sram | sds | v18
deriving DecidableEq, Repr

/-- Where a port group's supply lies (R566). -/
inductive VddioRange where
  | v18 | v33 | out
deriving DecidableEq, Repr

/-- A Classical CAN frame as the wake filter of a port sees it (R399). -/
structure WakeFrame where
  ide : Bool
  id : BitVec 29
  dlc : BitVec 4
  data : BitVec 64
deriving DecidableEq, Repr

/-- What the wake filter of port n has seen (R399): a frame, S1 low for a time in µs, or 32 decode errors with no matching frame between them. -/
inductive WakeMatch where
  | frame (n : Fin 8) (f : WakeFrame)
  | level (n : Fin 8) (us : BitVec 16)
  | decodeErrors (n : Fin 8)
deriving DecidableEq, Repr

/-- Traffic classes (R443). -/
inductive TrafficClass where
  | control | timed | bulk
deriving DecidableEq, Repr

/-- What a burst serves (R433, R441): an entry of a voyage, a DATA job of a submission ring, other work of the ring unit for a ring, a transfer of a barge channel, the export of a partition's view, the fill of a page of a partition, a port engine, a frame of a backbone port, the discovery sink, the patrol scrubber, or, as CONTROL, the ferrymaster or an MSI-X message. -/
inductive Served where
  | control
  | voyage (v : Fin 4096)
  | ring (p : Fin 32) (n : Fin 8)
  | ringOther (p : Fin 32) (n : Fin 8)
  | channel (n : Fin 32)
  | view (p : Fin 32)
  | fill (p : Fin 32) (a : BitVec 64)
  | port (p : Fin 96)
  | frame (n : Fin 2)
  | sink
  | scrub
deriving DecidableEq, Repr

/-- A request for a burst at an arbiter (R432, R433): its slot, what it serves, its bytes, and the resource to which the winner at the deck's target port or at the fill port goes on, or the general bank that it reaches. -/
structure BerthRequest where
  slot : Fin 49
  work : Served
  bytes : BitVec 16
  next : Fin 39
deriving DecidableEq, Repr

/-- A cycle at an arbiter (R435, R440): the beats that the owner of the berth has moved since the arbiter's cycle before, and the requests raised, those that come through another arbiter apart. -/
structure BerthCycle where
  beats : BitVec 16
  requests : List BerthRequest
deriving DecidableEq, Repr

/-- A MACsec tag (R409): the octets of the tag after its EtherType. -/
structure SecTag where
  tci : BitVec 6
  an : BitVec 2
  sl : BitVec 8
  pn : BitVec 32
  sci : BitVec 64
deriving DecidableEq, Repr

/-- A frame received on a backbone port (R406, R407, R418): addresses, VLAN tag, SecTAG, EtherType and payload (under a SecTAG: the secured data and its ICV), and whether its FCS was right. -/
structure EthFrame where
  dst : BitVec 48
  src : BitVec 48
  vlan : Option (BitVec 16)
  tag : Option SecTag
  etype : BitVec 16
  payload : List (BitVec 8)
  icv : List (BitVec 8)
  good : Bool
deriving DecidableEq, Repr

/-- The header of a DATA frame (R419); `reserved` tells that some reserved field is not 0. -/
structure CrossingHeader where
  version : BitVec 16
  first : Bool
  last : Bool
  srcPart : Fin 64
  dstPart : Fin 64
  seq : BitVec 16
  dstEid : BitVec 14
  msgLen : BitVec 16
  fragOff : BitVec 16
  ident : BitVec 32
  reserved : Bool
deriving DecidableEq, Repr

/-- A frame at the safety port (R213, R215): its bytes, and whether SSP_BSY was high when it began. -/
structure SspFrame where
  bytes : List (BitVec 8)
  early : Bool
deriving DecidableEq, Repr

/-- A frame as a port's bus controller has received it (R390, R392, R394, R400): the header words that the bus carries, the data (in 10BASE-T1S mode from the destination address to the last payload byte, without padding and FCS), whether it passed the checks of CRC, form, stuffing or FCS, the ns since its first edge was seen, and how often ISO 11898-1 raises REC by 8 over it. -/
structure BusFrame where
  head : List (BitVec 32)
  data : List (BitVec 8)
  good : Bool
  age : BitVec 32
  eights : Nat := 0
deriving DecidableEq, Repr

/-- What happens on a port's bus to the controller's sending (R393, R398, R400): a frame of this node begins on an idle bus, another node's frame begins, the data phase of a CAN XL frame begins or ends, the bus becomes idle, a PLCA beacon is seen or sent, the transmit opportunity passes to the next node, or the frame of this node that is on the wire is sent, loses to another one (arbitration, a collision), meets an error (after which ISO 11898-1 may raise TEC by 8 some further times), finds no acknowledgement, or meets a stuff error in its arbitration. -/
inductive SendResult where
  | began | otherBegan | dataPhase (on : Bool) | idle | beacon | opportunity | sent | lostArbitration
  | error (eights : Nat) | unacknowledged | arbitrationStuff
deriving DecidableEq, Repr

/-- What a shift unit has seen when a word completes (R379, R380): whether the word that shifts out has left, where that does not follow from the clock, and the bits of a received word in the order of the line, each as the samples of the filtered level at the ball of the data input (under Manchester the levels of its two halves). -/
structure ShiftLine where
  sent : Bool
  received : Option (List (List Bool))
deriving DecidableEq, Repr

/-- An identity memory that acknowledged its address in a scan (R423, R426): bus, address, the bytes read, and whether every byte was read within the limit. -/
structure IdMemory where
  bus : Fin 8
  addr : Fin 16
  bytes : List (BitVec 8)
  complete : Bool
deriving DecidableEq, Repr

/-- The commands of the block: one constructor per row of the table of operations and events, in its order. -/
inductive Instr where
  /-- PORST_N_ASSERTED (R518): PORST_N held low for at least 10 µs starts a cold reset of the whole device. -/
  | porstNAsserted
  /-- PORST_N_RELEASE (R521): Release of PORST_N samples PCIE_REFSEL, starts PCIe link training and starts the boot timeline. -/
  | porstNRelease (refsel : Bool)
  /-- WRST_N_ASSERTED (R518): WRST_N held low for at least 1 µs starts a warm reset. -/
  | wrstNAsserted
  /-- WARM_RESET_COMMAND (R531): A write of 0x5752 to KEY of PWR_RST starts a warm reset with cause 1. -/
  | warmResetCommand
  /-- PF0_FLR (R231): A function-level reset of PF0 is handled as a warm reset. -/
  | pf0Flr
  /-- PLL_LOCK (R20): The root PLL reaches lock and the blocks of R13 are released from reset. -/
  | pllLock (b : BootInputs)
  /-- PLL_LOCK_LOSS (R21): The lock monitor finds the root PLL out of lock, asserts FAULT_N, holds the device in warm reset and records a PLL-lock fault. -/
  | pllLockLoss
  /-- BOOT_WATCHDOG_EXPIRY (R477): Expiry of the 30 ms boot watchdog fails the boot attempt, and the ROM tries the other slot or stops with NOFW. -/
  | bootWatchdogExpiry (b : BootInputs)
  /-- BROWN_OUT (R525): A core rail below its brown-out level for 3 consecutive samples holds the device in cold reset. -/
  | brownOut (r : Rail)
  /-- SUPPLY_WARNING (R525): A rail outside its warning band for 10 consecutive samples asserts its source and SUPPLY, and 10 samples inside the band deassert them. -/
  | supplyWarning (r : Rail) (outside : Bool)
  /-- TEMPERATURE_READING (R526): The die sensors are read every 100 µs, and the warning and critical sources are asserted or deasserted. -/
  | temperatureReading (t0 t1 t2 t3 : BitVec 16)
  /-- FERRYMASTER_MISMATCH (R528): A lockstep mismatch or an uncorrectable ferrymaster memory error stops the ferrymaster and starts autonomous hold. -/
  | ferrymasterMismatch
  /-- QUIESCE_ASSERT (R447): QUIESCE_N asserted closes every issue gate of ferry-engine threads, barge channels and the snapshot export path. -/
  | quiesceAssert
  /-- QUIESCE_RELEASE (R448): QUIESCE_N released opens the gates, and Ready voyages take slots. -/
  | quiesceRelease
  /-- LANDSYNC_EDGE (R41): A rising edge on LANDSYNC is associated with an expected landing and accepted, counted as an extra edge, or counted as outside the window. -/
  | landsyncEdge
  /-- SYNC_WINDOW_CLOSE (R43): The window of an expected landing closes without an accepted edge and counts a miss, entering holdover at eight consecutive misses. -/
  | syncWindowClose
  /-- GANGWAY_CUTOFF (R37): The cut-off of a landing is reached: crossings close and the admission round begins. -/
  | gangwayCutoff
  /-- LANDING (R35): At a landing, inputs are latched, outputs released, timed records published, a due snapshot sampled, landing events pulsed and timed voyages dispatched. -/
  | landing
  /-- START_LANDING (R32): At device time S the old schedule ends, timed voyages are demoted, device time is optionally set and LSN 0 of the new schedule is performed. -/
  | startLanding (gptpTime : BitVec 64)
  /-- LANDOUT_END (R45): LANDOUT falls LANDOUT_WIDTH µs after it rose at a class-0 landing. -/
  | landoutEnd
  /-- MBX_GO (R180): Writing GO to MBX_DB locks the request buffer and makes the mailbox PENDING, or is ignored and counted. -/
  | mbxGo (p : Fin 32) (w : BitVec 32)
  /-- COMMAND_TAKE_UP (R189): When free, firmware takes up the first eligible command in door order, spends a token and makes the mailbox BUSY. -/
  | commandTakeUp
  /-- HELLO (R183): HELLO negotiates the highest common GCI version and opens a session on its door. -/
  | gHello (d : Door)
  /-- PORT_COMMISSION (R196): PORT_COMMISSION commissions a port, or changes XCLASS and TXQ for the current owner, and increments the commission number. -/
  | gPortCommission (d : Door)
  /-- PORT_DECOMMISSION (R196): PORT_DECOMMISSION removes a commission and schedules the port's safe state at its next class landing. -/
  | gPortDecommission (d : Door)
  /-- ROLE_IMAGE_LOAD (R197): ROLE_IMAGE_LOAD copies an image into the inactive bank and verifies its header and signature. -/
  | gRoleImageLoad (d : Door)
  /-- ROLE_IMAGE_SWAP (R381): ROLE_IMAGE_SWAP makes a swap due from the first class landing whose cut-off follows the commit. -/
  | gRoleImageSwap (d : Door)
  /-- CROSSING_CONFIG (R32): CROSSING_CONFIG sets up a new schedule to start at device time S. -/
  | gCrossingConfig (d : Door)
  /-- CROSSING_CONFIG_CUTOFF_ONLY (R33): CROSSING_CONFIG with CUTOFF_ONLY changes the cut-off from the second class-0 landing after the command. -/
  | gCrossingConfigCutoffOnly (d : Door)
  /-- SYNC_CONFIG (R40): SYNC_CONFIG selects the sync source and its parameters, to take effect at the next class-0 landing. -/
  | gSyncConfig (d : Door)
  /-- RING_CREATE (R150): RING_CREATE creates a submission or completion ring with indices at 0. -/
  | gRingCreate (d : Door)
  /-- WINDOW_SET (R201): WINDOW_SET creates or changes an address window of a partition. -/
  | gWindowSet (d : Door)
  /-- WINDOW_REMOVE (R201): WINDOW_SET with SIZE 0 removes a window. -/
  | gWindowRemove (d : Door)
  /-- QUEUE_CREATE (R243): QUEUE_CREATE creates an empty deck queue with a depth quota, optionally attached to a port. -/
  | gQueueCreate (d : Door)
  /-- BARGE_ASSIGN (R202): BARGE_ASSIGN assigns a barge channel to the partition with a priority and rate. -/
  | gBargeAssign (d : Door)
  /-- PARTITION_CONFIG (R204): PARTITION_CONFIG sets a partition's priority, voyage-ID and event ranges, limits, key slots and safety-port binding. -/
  | gPartitionConfig (d : Door)
  /-- PARTITION_RESET (R231): PARTITION_RESET starts the reset sequence of partition 1 to 31 and answers when it completes. -/
  | gPartitionReset (d : Door)
  /-- QUOTA_SET (R229): QUOTA_SET sets a partition's ferry share, mailbox rate, cell quota and host and barge shares. -/
  | gQuotaSet (d : Door)
  /-- KEY_IMPORT (R481): KEY_IMPORT unwraps a wrapped key with AES-256-GCM and fills a key slot. -/
  | gKeyImport (d : Door)
  /-- KEK_BOOTSTRAP_IMPORT (R482): A KEY_IMPORT with SLOT and WRAP 1 while KEK_SET is 0 fills slot 1 in clear and blows KEK_SET. -/
  | gKekBootstrapImport (d : Door)
  /-- KEY_DERIVE (R483): KEY_DERIVE derives a key into an empty slot by SP 800-108 counter mode with AES-CMAC. -/
  | gKeyDerive (d : Door)
  /-- LOG_READ (R501): LOG_READ exports logbook records into a buffer and moves the export mark. -/
  | gLogRead (d : Door)
  /-- LOG_SEAL (R500): LOG_SEAL places a seal group after the last chained record and answers once its signature is written. -/
  | gLogSeal (d : Door)
  /-- SNAPSHOT_REQUEST (R57): SNAPSHOT_REQUEST sets the partition's buffer and repeat interval and optionally makes a one-shot request. -/
  | gSnapshotRequest (d : Door)
  /-- IDENTITY_SCAN (R426): IDENTITY_SCAN reads and verifies the identity memories of the chosen buses and writes the results. -/
  | gIdentityScan (d : Door) (mems : List IdMemory)
  /-- ENDPOINT_SET (R414): ENDPOINT_SET gives an endpoint entry kind 1 or 2 and increments its commission number. -/
  | gEndpointSet (d : Door)
  /-- ENDPOINT_REMOVE (R414): ENDPOINT_SET with KIND 0 frees an endpoint entry. -/
  | gEndpointRemove (d : Door)
  /-- POWER_STATE_MOOR (R511): POWER_STATE with OP 1 sets MOORING, refuses doorbells and mailbox commands and schedules entry to moored at the next class-0 landing. -/
  | gPowerStateMoor (d : Door)
  /-- POWER_STATE_DOMAIN_OFF (R509): POWER_STATE with OP 2 switches a switched domain off. -/
  | gPowerStateDomainOff (d : Door)
  /-- POWER_STATE_DOMAIN_ON (R509): POWER_STATE with OP 3 switches a switched domain on. -/
  | gPowerStateDomainOn (d : Door)
  /-- DOMAIN_TRANSITION_DONE (R509): A domain transition completes, the response is written and source 710 is raised. -/
  | domainTransitionDone
  /-- FW_UPDATE_BEGIN (R210): FW_UPDATE_BEGIN opens an update and starts erasing the other slot. -/
  | gFwUpdateBegin (d : Door)
  /-- FW_UPDATE_CHUNK (R210): FW_UPDATE_CHUNK copies a chunk into a staging buffer for programming. -/
  | gFwUpdateChunk (d : Door)
  /-- FW_FLASH_BACKGROUND_DONE (R210): Firmware finishes erasing the slot or programming a staging buffer into the flash. -/
  | fwFlashBackgroundDone
  /-- FW_UPDATE_COMMIT (R211): FW_UPDATE_COMMIT mode 0 verifies the programmed image and marks the slot TRIAL. -/
  | gFwUpdateCommit (d : Door)
  /-- FW_UPDATE_CONFIRM (R211): FW_UPDATE_COMMIT mode 1 makes the trial slot permanent and blows anti-rollback fuses. -/
  | gFwUpdateConfirm (d : Door)
  /-- FW_UPDATE_ABANDON (R211): FW_UPDATE_COMMIT mode 2 closes an open update and leaves the slot erased. -/
  | gFwUpdateAbandon (d : Door)
  /-- BANK_ASSIGN (R535): BANK_ASSIGN starts the handover of a general bank to a new owner. -/
  | gBankAssign (d : Door)
  /-- BANK_HANDOVER_DONE (R536): A bank handover completes after the drain and scrub, the new owner takes effect and PENDING clears. -/
  | bankHandoverDone (n : Fin 16)
  /-- SSP_REQUEST (R214): A REQUEST frame on the safety port acts as a doorbell for the bound partition's request buffer. -/
  | sspRequest (frame : SspFrame)
  /-- SSP_FETCH (R214): A FETCH frame returns the response message, or LEN 0 when the mailbox is not DONE. -/
  | sspFetch (frame : SspFrame)
  /-- SSP_STATUS (R214): A STATUS frame returns the mailbox status with CRC_ERR and unbound flags, and clears CRC_ERR. -/
  | sspStatus (frame : SspFrame)
  /-- SSP_RESET (R214): A RESET frame with the bound partition and 0xA5C3 resets the bound partition. -/
  | sspReset (frame : SspFrame)
  /-- VF_FLR (R231): A function-level reset of VFp starts a reset of partition p. -/
  | vfFlr (p : Fin 32)
  /-- VF_ENABLE_CLEAR (R231): Clearing VF Enable resets partitions 1 to 31, each by its own sequence. -/
  | vfEnableClear
  /-- PCIE_DOOR_CHANGE (R216): A change of VF Enable or Bus Master Enable opens or closes a partition's PCIe door. -/
  | pcieDoorChange (vfEnable : Bool) (p : Fin 32) (busMaster msixEnable functionMask : Bool)
  /-- PARTITION_RESET_DRAINED (R232): Once the partition's writes have drained, its cells are swept, interrupt state cleared, ports scheduled for safe state, objects removed, and the fence lowered. -/
  | partitionResetDrained (p : Fin 32)
  /-- SQ_DOORBELL (R157): A write of a producer index to SQn_DB is accepted and covers new entries, or is refused with OVERRUN or REGRESS. -/
  | sqDoorbell (p : Fin 32) (n : Fin 8) (w : BitVec 32)
  /-- SQ_ENTRY_FETCH_DONE (R158): Submission entries fetched from host memory return to the ring unit, which takes up the jobs they complete. -/
  | sqEntryFetchDone (p : Fin 32) (n : Fin 8) (count : Fin 1025) (poisoned : Bool)
  /-- MANIFEST_HEADER_ARRIVAL (R65): A manifest header arrives and is checked, and the voyage becomes a Candidate, enters Ready, or ends with FORMAT_ERROR. -/
  | manifestHeaderArrival (v : Fin 4096) (poisoned : Bool)
  /-- CQ_CI_WRITE (R171): A write of CQm_CI advances the consumer index or is ignored with CI_BAD. -/
  | cqCiWrite (p : Fin 32) (m : Fin 8) (w : BitVec 32)
  /-- SHADOW_WRITE (R172): The ring unit writes records and the ring's shadow word and raises the ring's interrupt source. -/
  | shadowWrite (p : Fin 32) (submission : Bool) (m : Fin 8)
  /-- NOP (R78): The manifest NOP entry completes with OK. -/
  | mNop (v : Fin 4096)
  /-- READ (R79): READ moves data from a port scratchpad, voyage register or queue packet to memory. -/
  | mRead (v : Fin 4096)
  /-- WRITE (R80): WRITE moves data from memory or an immediate to a scratchpad, voyage register or queue packet. -/
  | mWrite (v : Fin 4096)
  /-- CONTROL (R81): CONTROL delivers a command and argument to the port's role image and waits for its result. -/
  | mControl (v : Fin 4096)
  /-- SENSE (R82): SENSE reads a word of the latched input image into a register and compares it. -/
  | mSense (v : Fin 4096)
  /-- JUMP (R83): JUMP sends the voyage to another entry of the manifest. -/
  | mJump (v : Fin 4096)
  /-- WAIT (R84): WAIT waits for a pulse of an event, or parks a timed voyage until its next class landing. -/
  | mWait (v : Fin 4096)
  /-- TEST (R85): TEST compares a register, queue depth or barge mismatch latch and sets the condition value. -/
  | mTest (v : Fin 4096)
  /-- SETV (R86): SETV sets a voyage register to a value. -/
  | mSetv (v : Fin 4096)
  /-- ADDV (R86): ADDV sets a voyage register to a shifted, added and masked value. -/
  | mAddv (v : Fin 4096)
  /-- INVOKE (R81): INVOKE calls a service of the role image and waits for a class and value. -/
  | mInvoke (v : Fin 4096)
  /-- BARGE (R89): BARGE loads a descriptor into a barge channel's shadow set and arms the voyage's watch latch. -/
  | mBarge (v : Fin 4096)
  /-- FORWARD (R90): FORWARD takes the packet at a queue's read point and delivers it to a port, queue or endpoint. -/
  | mForward (v : Fin 4096)
  /-- QUEUE_MARK (R91): QUEUE with QOP 0 saves the read point as the mark. -/
  | mQueueMark (v : Fin 4096)
  /-- QUEUE_REWIND (R91): QUEUE with QOP 1 returns the read point to the mark. -/
  | mQueueRewind (v : Fin 4096)
  /-- QUEUE_RELEASE (R257): QUEUE with QOP 2 frees every cell before the read point. -/
  | mQueueRelease (v : Fin 4096)
  /-- QUEUE_DEPTH (R91): QUEUE with QOP 3 loads the number of visible packets into a register. -/
  | mQueueDepth (v : Fin 4096)
  /-- QUEUE_BYTES (R91): QUEUE with QOP 4 loads the number of visible bytes into a register. -/
  | mQueueBytes (v : Fin 4096)
  /-- POSTV (R87): POSTV posts a record whose residual holds a voyage register. -/
  | mPostv (v : Fin 4096)
  /-- SIGNAL (R88): SIGNAL pulses an assignable event that the partition owns. -/
  | mSignal (v : Fin 4096)
  /-- AUTH (R92): AUTH asks the crypto engine to verify a packet's MAC and freshness against an endpoint. -/
  | mAuth (v : Fin 4096)
  /-- ENDPOINT (R93): ENDPOINT sends a message to an endpoint and completes at its commit to the endpoint's path. -/
  | mEndpoint (v : Fin 4096)
  /-- END (R94): END ends the voyage with OK. -/
  | mEnd (v : Fin 4096)
  /-- MANIFEST_PAGE_FILL_DONE (R138): A manifest-cache page fill completes and the voyage parked on the miss returns to Ready. -/
  | manifestPageFillDone (p : Fin 32) (poisoned : Bool)
  /-- TMO_EXPIRY (R68): An entry's timeout deadline expires and its waiting entry ends with TIMEOUT or DECK_QUOTA. -/
  | tmoExpiry (v : Fin 4096)
  /-- CRYPTO_ANSWER (R488): The crypto engine answers an AUTH request, setting the condition value or ending it with AUTH_FAIL. -/
  | cryptoAnswer (v : Fin 4096)
  /-- VOYAGE_PREEMPTION (R132): An untimed voyage reaching a break point while a timed voyage waits gives up its slot and re-enters Ready. -/
  | voyagePreemption (v : Fin 4096)
  /-- QUANTUM_EXPIRY (R134): An untimed voyage that has held its slot for QUANTUM gives it up at its next break point if another voyage is Ready. -/
  | quantumExpiry (v : Fin 4096)
  /-- ENGINE_RETIREMENT (R142): A checker mismatch or uncorrectable engine state error retires the engine, re-queues or interrupts its voyages and re-fits the admitted set. -/
  | engineRetirement (e : Fin 16)
  /-- FIRMWARE_LOG_RECORD (R530): Firmware or the hardware appender writes the record of a retirement, port failure, quarantine, cut-off or pin happening. -/
  | firmwareLogRecord
  /-- PRODUCER_STALL_END (R250): A stalled producer takes its cell in the first cycle in which every quota test passes. -/
  | producerStallEnd
  /-- PATROL_SCRUB (R258): The patrol scrubber reads one deck cell every 1,024 cycles. -/
  | patrolScrub
  /-- BARGE_LOAD (R265): A write of GO to BRG_n_LOAD loads the steward's descriptor into a partition-0 channel's shadow set. -/
  | bargeLoad (n : Fin 32)
  /-- BARGE_BURST (R275): A barge channel issues a burst within its rate allowance, translating it and checking it for errors. -/
  | bargeBurst (n : Fin 32)
  /-- BARGE_TRANSFER_END (R271): A barge transfer ends cleanly, on a mismatch or on an error, pulses its events and hands over to the shadow set. -/
  | bargeTransferEnd (n : Fin 32)
  /-- SHARE_GATE_WINDOW (R230): A gate window starts, and the share-gate counts and barge rate-limiter counts are reduced. -/
  | shareGateWindow
  /-- SNAPSHOT_EXPORT_DONE (R58): A partition's snapshot export finishes or faults, and SNAP_STATUS and the partition event are updated. -/
  | snapshotExportDone (p : Fin 32)
  /-- BERTH_DECISION (R436): An arbiter grants a berth to the winning requester and ages the losers. -/
  | berthDecision (a : Fin 39) (cycle : BerthCycle)
  /-- BERTH_CUTOFF (R441): An owner past LIMIT plus 16 beats without a break point is cut off and excluded until CUTOFF is cleared. -/
  | berthCutoff (a : Fin 39) (served : Served)
  /-- ICU_CLAIM (R458): A read of ICU_CLAIM claims the highest eligible source and puts it in service. -/
  | icuClaim (t : Fin 32)
  /-- ICU_EOI (R459): A write to ICU_EOI ends the service of a source and recomputes the running level. -/
  | icuEoi (t : Fin 32) (w : BitVec 32)
  /-- ICU_T33_ACK (R465): A write to ICU_T33_ACK clears a pulse source's pending state at T33. -/
  | icuT33Ack (w : BitVec 32)
  /-- MSIX_VECTOR_UNMASK (R463): Unmasking a vector sends one message if a source on it is still eligible, and clears its pending bit otherwise. -/
  | msixVectorUnmask (t : Fin 32) (v : Fin 64)
  /-- HOLD_OFF_EXPIRY (R461): A group's hold-off timer expires and its pending sources become eligible. -/
  | holdOffExpiry (g : Fin 64)
  /-- GLB_LOCK_SET (R556): Writing 1 to LOCK locks every RWL field until cold or warm reset. -/
  | glbLockSet
  /-- DCK_FLAT_WRITE (R260): A write of FLAT_PAGES withdraws cells for the flat area, or is refused with FLAT_REFUSED. -/
  | dckFlatWrite (w : BitVec 32)
  /-- GBK_OWN_WRITE (R535): A write of GBK_n_OWN starts a bank handover or sets OWN_REFUSED. -/
  | gbkOwnWrite (n : Fin 16) (w : BitVec 32)
  /-- RETENTION_ENTRY (R538): Writing RET 1 puts an on general bank into retention once its granted bursts drain. -/
  | retentionEntry (n : Fin 16)
  /-- RETENTION_EXIT_DONE (R538): A general bank finishes leaving retention and its withheld request proceeds. -/
  | retentionExitDone (n : Fin 16)
  /-- LOW_HALF_CAPTURE_READ (R27): A read of the low half of a 64-bit pair captures the high half for the next read. -/
  | lowHalfCaptureRead (a : RegRead)
  /-- RC_FIELD_READ (R6): A read of an RC field returns its value and clears it. -/
  | rcFieldRead (a : RegRead)
  /-- REGISTER_WRITE (R547): A write to a register with no row of its own sets its fields, is logged if a configuration change, or is refused in GLB_WRERR. -/
  | registerWrite (a : RegAddr) (w : RegWrite)
  /-- SEAL_GROUP_SIGNED (R500): A seal group's signature is written and source 706 is raised. -/
  | sealGroupSigned
  /-- TRNG_HEALTH_FAIL (R486): A TRNG health test fails, setting TRNG_FAIL and stopping the DRBG until reset. -/
  | trngHealthFail
  /-- DBG_CHAL (R494): Shifting a level into DBG_CHAL issues a nonce and DEVSERIAL. -/
  | dbgChal (level : BitVec 8)
  /-- DBG_RESP (R494): Shifting a key and signature into DBG_RESP grants or refuses the debug level and writes a DEBUG record. -/
  | dbgResp (key sig : BitVec 512)
  /-- BACKBONE_FRAME_RECEIVED (R407): A frame received on a backbone port is validated and routed to gPTP, the crossing protocol or dropped. -/
  | backboneFrameReceived (n : Fin 2) (f : EthFrame)
  /-- CROSSING_FRAGMENT_RECEIVED (R421): A DATA fragment starts, continues or commits a message in its endpoint's path, or is dropped. -/
  | crossingFragmentReceived (n : Fin 2) (h : CrossingHeader) (payload : List (BitVec 8))
  /-- ANNOUNCE_RECEIVED (R422): An ANNOUNCE makes its part present and sets the agreed version, or sets ID_CONFLICT. -/
  | announceReceived (n : Fin 2) (part : Fin 64) (versions : List Nat)
  /-- ANNOUNCE_TIMER (R422): At every 100 ms of device time an ANNOUNCE is sent on each up link. -/
  | announceTimer
  /-- PEER_TIMEOUT (R422): A part that sends no ANNOUNCE for 350 ms is no longer present. -/
  | peerTimeout (n : Fin 2) (part : Fin 64)
  /-- FRAGMENT_GAP_TIMEOUT (R421): A gap of more than 10 ms between fragments rewinds the message packet. -/
  | fragmentGapTimeout (n : Fin 2) (part : Fin 64)
  /-- CROSSING_FRAGMENT_SENT (R420): A link's transmit path sends a message fragment, checking its stamp and freeing its cells after the last. -/
  | crossingFragmentSent (n : Fin 2)
  /-- SINK_DECISION (R428): The discovery sink accepts or rejects an identity record and may make a kind-1 entry READY. -/
  | sinkDecision
  /-- GPTP_FRAME_RECEIVED (R408): A gPTP frame is timestamped and handled by the servo or peer-delay function. -/
  | gptpFrameReceived (n : Fin 2) (rate : BitVec 32)
  /-- GPTP_SYNC_LOSS (R408): Three Sync intervals without a Sync make the servo report loss of synchronisation. -/
  | gptpSyncLoss
  /-- BACKBONE_LINK_CHANGE (R406): A backbone link comes up or goes down. -/
  | backboneLinkChange (n : Fin 2) (up : Bool) (speed : BitVec 2)
  /-- WAKE_FILTER_MATCH (R399): A port's wake filter matches a frame, level or 32 decode errors while moored. -/
  | wakeFilterMatch (m : WakeMatch) (us : BitVec 64) (b : BootInputs)
  /-- WAKE_PIN_ASSERTED (R513): WAKE_N held low for 50 µs while moored is a cast-off source. -/
  | wakePinAsserted (us : BitVec 64) (b : BootInputs)
  /-- SAFETY_PORT_WAKE (R513): SSP_CS_N held low for 2 µs while moored is a cast-off source. -/
  | safetyPortWake (us : BitVec 64) (b : BootInputs)
  /-- MOORED_ENTRY (R511): At landing L ports go to safe state, voyages end, objects are removed or retained, domains switch off and the PLL stops. -/
  | mooredEntry
  /-- TIMER_MATCH (R368): A timer channel's count reaches its compare value, toggling or ending its output and making its event pending. -/
  | timerMatch (p : Fin 96) (c : Fin 4)
  /-- TIMER_WRAP (R368): A PERIODIC timer wraps to 0, taking buffered values and optionally making its event pending. -/
  | timerWrap (p : Fin 96) (c : Fin 4)
  /-- EDGE_CAPTURE (R369): An edge detector captures a timestamp of an input edge, or records an overrun. -/
  | edgeCapture (p : Fin 96) (k : Fin 6) (level : Bool)
  /-- TIMER_CAPTURE (R368): A CAPTURE timer copies its count into AUX at a selected input edge. -/
  | timerCapture (p : Fin 96) (c : Fin 4)
  /-- SHIFT_WORD_COMPLETE (R380): A shift unit completes a word, taking the next from the TX FIFO, pushing to the RX FIFO, closing the frame or stalling. -/
  | shiftWordComplete (p : Fin 96) (u : Fin 2) (line : ShiftLine) (stops : List (List Bool))
  /-- BUS_FRAME_RECEIVED (R392): The bus controller puts a complete received record into its receive buffer or drops it whole. -/
  | busFrameReceived (p : Fin 96) (frame : BusFrame)
  /-- BUS_FRAME_SENT (R398): A frame finishes on the wire or is given up after an arbitration loss or error. -/
  | busFrameSent (p : Fin 96) (how : SendResult)
  /-- BUS_OFF_RECOVERY (R393): With BOFF_AUTO, the controller recovers from bus-off after 128 occurrences of 11 recessive bits. -/
  | busOffRecovery (p : Fin 96)
  /-- PLCA_STATUS_CHANGE (R400): PLCA beacons start or stop being seen or sent, setting the PLCA event. -/
  | plcaStatusChange (p : Fin 96) (active : Bool)
  /-- SCRATCHPAD_SCRUB_DONE (R288): The scratchpad of an engine that entered NO_IMAGE finishes being written to zero. -/
  | scratchpadScrubDone (p : Fin 96)
  /-- ADD (R326): Rd = Ra + Rb, setting C and V. -/
  | rAdd (p : Fin 96) (g : Guard) (rd ra rb : BitVec 4)
  /-- SUB (R326): Rd = Ra − Rb, setting C and V. -/
  | rSub (p : Fin 96) (g : Guard) (rd ra rb : BitVec 4)
  /-- AND (R326): Rd = Ra AND Rb. -/
  | rAnd (p : Fin 96) (g : Guard) (rd ra rb : BitVec 4)
  /-- OR (R326): Rd = Ra OR Rb. -/
  | rOr (p : Fin 96) (g : Guard) (rd ra rb : BitVec 4)
  /-- XOR (R326): Rd = Ra XOR Rb. -/
  | rXor (p : Fin 96) (g : Guard) (rd ra rb : BitVec 4)
  /-- ANDN (R326): Rd = Ra AND NOT Rb. -/
  | rAndn (p : Fin 96) (g : Guard) (rd ra rb : BitVec 4)
  /-- SHL (R328): Logical shift left by Rb[5:0]. -/
  | rShl (p : Fin 96) (g : Guard) (rd ra rb : BitVec 4)
  /-- SHR (R328): Logical shift right by Rb[5:0]. -/
  | rShr (p : Fin 96) (g : Guard) (rd ra rb : BitVec 4)
  /-- SAR (R328): Arithmetic shift right by Rb[5:0]. -/
  | rSar (p : Fin 96) (g : Guard) (rd ra rb : BitVec 4)
  /-- ROL (R328): Rotate left by Rb[5:0] mod 32. -/
  | rRol (p : Fin 96) (g : Guard) (rd ra rb : BitVec 4)
  /-- ROR (R328): Rotate right by Rb[5:0] mod 32. -/
  | rRor (p : Fin 96) (g : Guard) (rd ra rb : BitVec 4)
  /-- MOV (R329): Rd = Ra. -/
  | rMov (p : Fin 96) (g : Guard) (rd ra : BitVec 4)
  /-- NEG (R329): Rd = 0 − Ra, setting V for 0x8000_0000. -/
  | rNeg (p : Fin 96) (g : Guard) (rd ra : BitVec 4)
  /-- NOT (R329): Rd = NOT Ra. -/
  | rNot (p : Fin 96) (g : Guard) (rd ra : BitVec 4)
  /-- ABS (R329): Rd = absolute value of Ra, setting V for 0x8000_0000. -/
  | rAbs (p : Fin 96) (g : Guard) (rd ra : BitVec 4)
  /-- SXB (R329): Rd = Ra[7:0] sign-extended. -/
  | rSxb (p : Fin 96) (g : Guard) (rd ra : BitVec 4)
  /-- SXH (R329): Rd = Ra[15:0] sign-extended. -/
  | rSxh (p : Fin 96) (g : Guard) (rd ra : BitVec 4)
  /-- ZXB (R329): Rd = Ra[7:0] zero-extended. -/
  | rZxb (p : Fin 96) (g : Guard) (rd ra : BitVec 4)
  /-- ZXH (R329): Rd = Ra[15:0] zero-extended. -/
  | rZxh (p : Fin 96) (g : Guard) (rd ra : BitVec 4)
  /-- CLZ (R329): Rd = number of leading zero bits of Ra. -/
  | rClz (p : Fin 96) (g : Guard) (rd ra : BitVec 4)
  /-- ADDI (R330): Rd = Ra + signed immediate. -/
  | rAddi (p : Fin 96) (g : Guard) (rd ra : BitVec 4) (imm : BitVec 11)
  /-- SUBI (R330): Rd = Ra − signed immediate. -/
  | rSubi (p : Fin 96) (g : Guard) (rd ra : BitVec 4) (imm : BitVec 11)
  /-- ANDI (R330): Rd = Ra AND unsigned immediate. -/
  | rAndi (p : Fin 96) (g : Guard) (rd ra : BitVec 4) (imm : BitVec 11)
  /-- ORI (R330): Rd = Ra OR unsigned immediate. -/
  | rOri (p : Fin 96) (g : Guard) (rd ra : BitVec 4) (imm : BitVec 11)
  /-- XORI (R330): Rd = Ra XOR unsigned immediate. -/
  | rXori (p : Fin 96) (g : Guard) (rd ra : BitVec 4) (imm : BitVec 11)
  /-- SHLI (R330): Logical shift left by an immediate count. -/
  | rShli (p : Fin 96) (g : Guard) (rd ra : BitVec 4) (n : BitVec 6)
  /-- SHRI (R330): Logical shift right by an immediate count. -/
  | rShri (p : Fin 96) (g : Guard) (rd ra : BitVec 4) (n : BitVec 6)
  /-- SARI (R330): Arithmetic shift right by an immediate count. -/
  | rSari (p : Fin 96) (g : Guard) (rd ra : BitVec 4) (n : BitVec 6)
  /-- MOVI (R331): Rd = sign-extended 18-bit immediate. -/
  | rMovi (p : Fin 96) (g : Guard) (rd : BitVec 4) (imm : BitVec 18)
  /-- MOVHI (R331): Rd[31:16] = 16-bit immediate. -/
  | rMovhi (p : Fin 96) (g : Guard) (rd : BitVec 4) (imm : BitVec 16)
  /-- CMP (R334): A condition on two registers is written or combined into a predicate. -/
  | rCmp (p : Fin 96) (g : Guard) (pd : BitVec 3) (acc : BitVec 2) (cond ra rb : BitVec 4)
  /-- CMPI (R334): A condition on a register and an immediate is written or combined into a predicate. -/
  | rCmpi (p : Fin 96) (g : Guard) (pd : BitVec 3) (acc : BitVec 2) (cond ra : BitVec 4) (imm : BitVec 9)
  /-- ADDX (R336): Add with carry-in from a predicate, carry-out to a predicate. -/
  | rAddx (p : Fin 96) (g : Guard) (rd ra rb : BitVec 4) (pci pd : BitVec 3)
  /-- SUBX (R336): Subtract with borrow-in from a predicate, borrow-out to a predicate. -/
  | rSubx (p : Fin 96) (g : Guard) (rd ra rb : BitVec 4) (pci pd : BitVec 3)
  /-- MUL (R332): Rd = low 32 bits of Ra × Rb, setting V on signed overflow. -/
  | rMul (p : Fin 96) (g : Guard) (rd ra rb : BitVec 4)
  /-- MULHS (R332): Rd = high 32 bits of the signed product. -/
  | rMulhs (p : Fin 96) (g : Guard) (rd ra rb : BitVec 4)
  /-- MULHU (R332): Rd = high 32 bits of the unsigned product. -/
  | rMulhu (p : Fin 96) (g : Guard) (rd ra rb : BitVec 4)
  /-- DIV (R333): Signed quotient in 34 cycles, with defined results on zero and overflow. -/
  | rDiv (p : Fin 96) (g : Guard) (rd ra rb : BitVec 4)
  /-- DIVU (R333): Unsigned quotient in 34 cycles. -/
  | rDivu (p : Fin 96) (g : Guard) (rd ra rb : BitVec 4)
  /-- REM (R333): Signed remainder in 34 cycles. -/
  | rRem (p : Fin 96) (g : Guard) (rd ra rb : BitVec 4)
  /-- REMU (R333): Unsigned remainder in 34 cycles. -/
  | rRemu (p : Fin 96) (g : Guard) (rd ra rb : BitVec 4)
  /-- LD (R337): Load 1, 2 or 4 bytes from the scratchpad. -/
  | rLd (p : Fin 96) (g : Guard) (rd ra : BitVec 4) (size : BitVec 2) (sx : Bool) (off : BitVec 11) (met : Bool)
  /-- ST (R337): Store 1, 2 or 4 bytes to the scratchpad. -/
  | rSt (p : Fin 96) (g : Guard) (rs ra : BitVec 4) (size : BitVec 2) (off : BitVec 11)
  /-- PUSH (R305): Push a register onto the data stack within its limits. -/
  | rPush (p : Fin 96) (g : Guard) (rs : BitVec 4)
  /-- POP (R305): Pop a word from the data stack into a register within its limits. -/
  | rPop (p : Fin 96) (g : Guard) (rd : BitVec 4) (met : Bool)
  /-- ILD (R340): Read a word of the active instruction bank. -/
  | rIld (p : Fin 96) (g : Guard) (rd ra : BitVec 4) (off : BitVec 12)
  /-- IST (R313): Write a word of the active instruction bank while IST_EN is 1. -/
  | rIst (p : Fin 96) (g : Guard) (rs ra : BitVec 4) (off : BitVec 12)
  /-- IN (R341): Read an I/O register. -/
  | rIn (p : Fin 96) (g : Guard) (rd ra : BitVec 4) (ind : Bool) (io : BitVec 8)
  /-- OUT (R341): Write an I/O register, with the register's own effect. -/
  | rOut (p : Fin 96) (g : Guard) (rd ra : BitVec 4) (ind : Bool) (io : BitVec 8)
  /-- BR (R342): Branch to a direct or register-relative target. -/
  | rBr (p : Fin 96) (g : Guard) (ra : BitVec 4) (ind : Bool) (target : BitVec 12)
  /-- CALL (R306): Push the return address and branch. -/
  | rCall (p : Fin 96) (g : Guard) (ra : BitVec 4) (ind : Bool) (target : BitVec 12)
  /-- RORID_NOP (R343): Rorid NOP has no effect. -/
  | rNop (p : Fin 96) (g : Guard)
  /-- RET (R306): Pop the return stack into PC. -/
  | rRet (p : Fin 96) (g : Guard)
  /-- RETT (R310): Return from a trap handler and free the reserved entry. -/
  | rRett (p : Fin 96) (g : Guard)
  /-- YIELD (R346): Marks its cycle as a swap point. -/
  | rYield (p : Fin 96) (g : Guard)
  /-- WAITEV (R344): Wait for an enabled, unmasked local event and dispatch through the event table. -/
  | rWaitev (p : Fin 96) (g : Guard) (ra : BitVec 4) (all : Bool)
  /-- WAITEV_EVENT_TAKEN (R344): A waiting WAITEV takes the lowest qualifying event, clears it and resumes at its handler. -/
  | waitevEventTaken (p : Fin 96) (waited : BitVec 32)
  /-- SWT (R308): Raise the SOFTWARE trap with a code. -/
  | rSwt (p : Fin 96) (g : Guard) (code : BitVec 12)
  /-- MAC (R347): ACn = ACn + signed product. -/
  | rMac (p : Fin 96) (g : Guard) (acn : Bool) (ra rb : BitVec 4)
  /-- MSU (R347): ACn = ACn − signed product. -/
  | rMsu (p : Fin 96) (g : Guard) (acn : Bool) (ra rb : BitVec 4)
  /-- MPY (R347): ACn = signed product. -/
  | rMpy (p : Fin 96) (g : Guard) (acn : Bool) (ra rb : BitVec 4)
  /-- MACU (R347): ACn = ACn + unsigned product. -/
  | rMacu (p : Fin 96) (g : Guard) (acn : Bool) (ra rb : BitVec 4)
  /-- CLRA (R348): ACn = 0. -/
  | rClra (p : Fin 96) (g : Guard) (acn : Bool)
  /-- ADDA (R348): ACn = ACn + signed register. -/
  | rAdda (p : Fin 96) (g : Guard) (acn : Bool) (ra : BitVec 4)
  /-- SUBA (R348): ACn = ACn − signed register. -/
  | rSuba (p : Fin 96) (g : Guard) (acn : Bool) (ra : BitVec 4)
  /-- MOVA (R348): ACn = ACm. -/
  | rMova (p : Fin 96) (g : Guard) (acn acm : Bool)
  /-- ADDAA (R348): ACn = ACn + ACm. -/
  | rAddaa (p : Fin 96) (g : Guard) (acn acm : Bool)
  /-- NEGA (R348): ACn = −ACn. -/
  | rNega (p : Fin 96) (g : Guard) (acn : Bool)
  /-- SHRA (R348): Arithmetic shift right of an accumulator. -/
  | rShra (p : Fin 96) (g : Guard) (acn : Bool) (k : BitVec 6)
  /-- SHLA (R348): Shift left of an accumulator with overflow handling. -/
  | rShla (p : Fin 96) (g : Guard) (acn : Bool) (k : BitVec 6)
  /-- EXTA (R350): Extract a saturated 32-bit value from a shifted accumulator. -/
  | rExta (p : Fin 96) (g : Guard) (acn : Bool) (ra : BitVec 4) (k : BitVec 6)
  /-- QPUT (R351): Append bytes to the port's packet under production in a queue. -/
  | rQput (p : Fin 96) (g : Guard) (rd rq rs : BitVec 4) (size : BitVec 2)
  /-- QCOMMIT (R351): Commit the port's packet under production. -/
  | rQcommit (p : Fin 96) (g : Guard) (rd rq : BitVec 4)
  /-- QDROP (R351): Rewind the port's packet under production. -/
  | rQdrop (p : Fin 96) (g : Guard) (rd rq : BitVec 4)
  /-- QCLAIM (R354): Claim the packet at the read point and open the port's read of it. -/
  | rQclaim (p : Fin 96) (g : Guard) (rd rq : BitVec 4) (nw : Bool)
  /-- QGET (R351): Read the next bytes of the open read. -/
  | rQget (p : Fin 96) (g : Guard) (rd rq : BitVec 4) (size : BitVec 2)
  /-- QEND (R354): Close the open read and return its status. -/
  | rQend (p : Fin 96) (g : Guard) (rd rq : BitVec 4)
  /-- QMARK (R257): Save the queue's read point as its mark. -/
  | rQmark (p : Fin 96) (g : Guard) (rd rq : BitVec 4)
  /-- QREW (R257): Return the queue's read point to its mark. -/
  | rQrew (p : Fin 96) (g : Guard) (rd rq : BitVec 4)
  /-- QREL (R257): Free the cells of packets before the read point. -/
  | rQrel (p : Fin 96) (g : Guard) (rd rq : BitVec 4)
  /-- QDEPTH (R351): Count the visible packets of a queue. -/
  | rQdepth (p : Fin 96) (g : Guard) (rd rq : BitVec 4)
  /-- QCLAIM_WAIT_END (R255): A waiting QCLAIM finds a visible packet and claims it. -/
  | qclaimWaitEnd (p : Fin 96)
  /-- QPUT_STALL_END (R252): A stalled QPUT is given its cell and appends its bytes. -/
  | qputStallEnd (p : Fin 96)
  /-- QCOMMIT_WAIT_END (R586): A waiting QCOMMIT commits once every byte has been written to its cells. -/
  | qcommitWaitEnd (p : Fin 96)
  /-- QGET_CELL_ARRIVAL (R355): A requested cell arrives in the read buffer and a waiting QGET completes. -/
  | qgetCellArrival (p : Fin 96)
  /-- DEVICE_TIME_ADVANCE (R26): At every CLK_TB rising edge device time advances by 10, or by 0 or 20 when the rate-correction accumulator falls due. -/
  | deviceTimeAdvance
  /-- BROWN_OUT_RECOVERY (R525): A rail that was below its brown-out level recovers, ending the cold-reset hold while PORST_N is high. -/
  | brownOutRecovery (r : Rail)
  /-- PCIE_LINK_CHANGE (R514): The PCIe link reaches L0 or goes down, ending the device's drive of WAKE_N or ending step 4 of a partition reset with queued writes discarded. -/
  | pcieLinkChange (up : Bool)
  /-- WAKE_N_DRIVE_TIMEOUT (R514): 100 ms after a cast-off was detected, the device stops driving WAKE_N low if the link has not reached L0. -/
  | wakeNDriveTimeout
  /-- VDDIO_SUPPLY_CHANGE (R566): A port group's VDDIO_PGg comes within or leaves an operating range, selecting 1.8 V or 3.3 V operation or leaving its pins high impedance. -/
  | vddioSupplyChange (g : Fin 24) (v : VddioRange)
  /-- RESERVED_OPCODE_ENTRY (R70): A voyage reaches an entry whose OP is reserved, and the voyage ends with FORMAT_ERROR, extended status 0x03. -/
  | mReserved (v : Fin 4096)
  /-- RORID_ILLEGAL_INSTRUCTION (R299): A port engine decodes a word with a reserved major or minor opcode or reserved field, and raises the ILLEGAL trap whatever its guard. -/
  | rIllegal (p : Fin 96)
deriving DecidableEq, Repr

end Sys2Proof
end

