-- ==== Sys2Proof/Decode.lean ====
section
/-!
DEFINITION. The command that a word of the command table spells (none: no row gives bits), and the Rorid instruction word: its fields, its encodings and its legality (10_rorid_architecture.md R297 to R299, 11_rorid_instructions.md R324, R325).
-/
namespace Sys2Proof

/-- No row of the table gives bits, so no word spells a command (assumption 2). -/
def decodeTableWord (_nbits _w : Nat) : Option Instr := none

/-! ## Fields of a 32-bit word -/

/-- The field of `n` bits whose lowest bit is bit `lo`. -/
def fieldOf (w : Word) (lo n : Nat) : Nat := w.toNat / 2 ^ lo % 2 ^ n

/-- The field of `n` bits at bit `lo` sign-extended to 32 bits. -/
def signedField (w : Word) (lo n : Nat) : Word := ((w >>> lo).setWidth n).signExtend 32

/-! ## Encoding (R298, R325) -/

/-- Guard and major opcode. -/
def encTop (g : Guard) (major : Nat) : Word :=
  BitVec.ofNat 32 (g.psel.toNat * 2 ^ 29 + (if g.pinv then 2 ^ 28 else 0) + major * 2 ^ 22)

/-- Format R. -/
def encR (g : Guard) (major minor : Nat) (rd ra rb : BitVec 4) : Word :=
  encTop g major + BitVec.ofNat 32 (rd.toNat * 2 ^ 18 + ra.toNat * 2 ^ 14 + rb.toNat * 2 ^ 10 + minor)

/-- Format U. -/
def encU (g : Guard) (minor : Nat) (rd ra : BitVec 4) : Word :=
  encTop g 0x02 + BitVec.ofNat 32 (rd.toNat * 2 ^ 18 + ra.toNat * 2 ^ 14 + minor)

/-- Format I. -/
def encI (g : Guard) (minor : Nat) (rd ra : BitVec 4) (imm : BitVec 11) : Word :=
  encTop g 0x03 + BitVec.ofNat 32 (rd.toNat * 2 ^ 18 + ra.toNat * 2 ^ 14 + imm.toNat * 2 ^ 3 + minor)

/-- Format M of MOVI. -/
def encMovi (g : Guard) (rd : BitVec 4) (imm : BitVec 18) : Word :=
  encTop g 0x04 + BitVec.ofNat 32 (rd.toNat * 2 ^ 18 + imm.toNat)

/-- Format M of MOVHI. -/
def encMovhi (g : Guard) (rd : BitVec 4) (imm : BitVec 16) : Word :=
  encTop g 0x05 + BitVec.ofNat 32 (rd.toNat * 2 ^ 18 + imm.toNat)

/-- Format C. -/
def encC (g : Guard) (pd : BitVec 3) (acc : BitVec 2) (cond ra rb : BitVec 4) : Word :=
  encTop g 0x06 + BitVec.ofNat 32
    (pd.toNat * 2 ^ 19 + acc.toNat * 2 ^ 17 + cond.toNat * 2 ^ 13 + ra.toNat * 2 ^ 9 + rb.toNat * 2 ^ 5)

/-- Format CI. -/
def encCI (g : Guard) (pd : BitVec 3) (acc : BitVec 2) (cond ra : BitVec 4) (imm : BitVec 9) : Word :=
  encTop g 0x07 + BitVec.ofNat 32
    (pd.toNat * 2 ^ 19 + acc.toNat * 2 ^ 17 + cond.toNat * 2 ^ 13 + ra.toNat * 2 ^ 9 + imm.toNat)

/-- Format X. -/
def encX (g : Guard) (minor : Nat) (rd ra rb : BitVec 4) (pci pd : BitVec 3) : Word :=
  encTop g 0x08 + BitVec.ofNat 32
    (rd.toNat * 2 ^ 18 + ra.toNat * 2 ^ 14 + rb.toNat * 2 ^ 10 + pci.toNat * 2 ^ 7 + pd.toNat * 2 ^ 4 + minor)

/-- Format L. -/
def encL (g : Guard) (major : Nat) (rd ra : BitVec 4) (size : BitVec 2) (sx : Bool) (off : BitVec 11) : Word :=
  encTop g major + BitVec.ofNat 32
    (rd.toNat * 2 ^ 18 + ra.toNat * 2 ^ 14 + size.toNat * 2 ^ 12 + (if sx then 2 ^ 11 else 0) + off.toNat)

/-- Format W. -/
def encW (g : Guard) (major : Nat) (rd ra : BitVec 4) (off : BitVec 12) : Word :=
  encTop g major + BitVec.ofNat 32 (rd.toNat * 2 ^ 18 + ra.toNat * 2 ^ 14 + off.toNat)

/-- Format S. -/
def encS (g : Guard) (minor : Nat) (rd : BitVec 4) : Word :=
  encTop g 0x0C + BitVec.ofNat 32 (rd.toNat * 2 ^ 18 + minor)

/-- Format IO. -/
def encIO (g : Guard) (minor : Nat) (rd ra : BitVec 4) (ind : Bool) (io : BitVec 8) : Word :=
  encTop g 0x0F + BitVec.ofNat 32
    (rd.toNat * 2 ^ 18 + ra.toNat * 2 ^ 14 + (if ind then 2 ^ 13 else 0) + io.toNat * 2 ^ 4 + minor)

/-- Format B. -/
def encB (g : Guard) (major : Nat) (ra : BitVec 4) (ind : Bool) (target : BitVec 12) : Word :=
  encTop g major + BitVec.ofNat 32
    (ra.toNat * 2 ^ 14 + (if ind then 2 ^ 13 else 0) + target.toNat)

/-- Format K. -/
def encK (g : Guard) (minor : Nat) (ra : BitVec 4) (all : Bool) (code : BitVec 12) : Word :=
  encTop g 0x12 + BitVec.ofNat 32
    (ra.toNat * 2 ^ 18 + (if all then 2 ^ 17 else 0) + code.toNat * 2 ^ 4 + minor)

/-- Format A. -/
def encA (g : Guard) (major minor : Nat) (acn acm : Bool) (ra rb : BitVec 4) (k : BitVec 6) : Word :=
  encTop g major + BitVec.ofNat 32
    ((if acn then 2 ^ 21 else 0) + (if acm then 2 ^ 20 else 0) + ra.toNat * 2 ^ 14 + rb.toNat * 2 ^ 10
      + k.toNat * 2 ^ 4 + minor)

/-- Format Q. -/
def encQ (g : Guard) (minor : Nat) (rd rq rs : BitVec 4) (size : BitVec 2) (nw : Bool) : Word :=
  encTop g 0x15 + BitVec.ofNat 32
    (rd.toNat * 2 ^ 18 + rq.toNat * 2 ^ 14 + rs.toNat * 2 ^ 10 + size.toNat * 2 ^ 8
      + (if nw then 2 ^ 7 else 0) + minor)

/-! ## Legality (R297, R299, R323) -/

/-- Codes 12 to 15 as an operand outside MOV and the accumulator families in mode C (R297). -/
def codeOk (modeC : Bool) (c : Nat) : Bool := !modeC || c < 12

/-- The base address of LD, ST, ILD and IST in mode C names A0 to A3 (R297). -/
def baseOk (modeC : Bool) (c : Nat) : Bool := !modeC || (8 ≤ c && c < 12)

/-- Whether a word decodes to an instruction of the image's mode: no reserved opcode, no nonzero reserved field, no combination a table marks reserved, and no use that R297 forbids (R299). -/
def roridLegal (modeC : Bool) (w : Word) : Bool :=
  let f := fieldOf w
  let rd := f 18 4
  let ra := f 14 4
  let rb := f 10 4
  let minor := f 0 4
  let ok := codeOk modeC
  match f 22 6 with
  | 0x01 => f 4 6 == 0 && minor ≤ 0xA && ok rd && ok ra && ok rb
  | 0x02 => f 4 10 == 0 && minor ≤ 8 && (minor == 0 || (ok rd && ok ra))
  | 0x03 => ok rd && ok ra && (f 0 3 < 5 || f 9 5 == 0)
  | 0x04 => ok rd
  | 0x05 => ok rd && f 16 2 == 0
  | 0x06 => f 17 2 != 3 && f 13 4 < 0xC && ok (f 9 4) && ok (f 5 4) && f 0 5 == 0
  | 0x07 => f 17 2 != 3 && f 13 4 < 0xC && ok (f 9 4)
  | 0x08 => minor ≤ 1 && ok rd && ok ra && ok rb
  | 0x09 => f 4 6 == 0 && minor < 8 && minor != 3 && ok rd && ok ra && ok rb
  | 0x0A => ok rd && baseOk modeC ra && f 12 2 != 3 && (f 12 2 != 2 || f 11 1 == 0)
  | 0x0B => ok rd && baseOk modeC ra && f 12 2 != 3 && f 11 1 == 0
  | 0x0C => ok rd && minor ≤ 1 && f 4 14 == 0
  | 0x0D => ok rd && baseOk modeC ra && f 12 2 == 0
  | 0x0E => ok rd && baseOk modeC ra && f 12 2 == 0
  | 0x0F => ok rd && ok ra && minor ≤ 1 && f 12 1 == 0 && (f 13 1 == 1 || ra == 0)
  | 0x10 => ok ra && f 18 4 == 0 && f 12 1 == 0 && (f 13 1 == 1 || ra == 0)
  | 0x11 => ok ra && f 18 4 == 0 && f 12 1 == 0 && (f 13 1 == 1 || ra == 0)
  | 0x12 =>
    if minor ≤ 3 then f 4 18 == 0
    else if minor == 4 then ok rd && f 4 13 == 0 && (f 17 1 == 0 || rd == 0)
    else minor == 5 && f 16 6 == 0
  | 0x13 => modeC && minor ≤ 3 && f 18 3 == 0 && f 4 6 == 0
  | 0x14 =>
    modeC && f 18 2 == 0 &&
      match minor with
      | 0 => f 20 1 == 0 && ra == 0 && rb == 0 && f 4 6 == 0
      | 1 => f 20 1 == 0 && rb == 0 && f 4 6 == 0
      | 2 => f 20 1 == 0 && rb == 0 && f 4 6 == 0
      | 3 => ra == 0 && rb == 0 && f 4 6 == 0
      | 4 => ra == 0 && rb == 0 && f 4 6 == 0
      | 5 => f 20 1 == 0 && ra == 0 && rb == 0 && f 4 6 == 0
      | 6 => f 20 1 == 0 && ra == 0 && rb == 0
      | 7 => f 20 1 == 0 && ra == 0 && rb == 0
      | 8 => f 20 1 == 0 && rb == 0 && f 4 6 < 40
      | _ => false
  | 0x15 =>
    minor ≤ 9 && f 4 3 == 0 && f 8 2 != 3 && (f 8 2 == 0 || minor == 0 || minor == 4)
      && (f 7 1 == 0 || minor == 3) && (rb == 0 || minor == 0) && ok rd && ok ra && ok rb
  | _ => false

/-- The word is a compare, ADDX or SUBX that names P0 as its destination (R300, R336); R299 does not list it, so it traps only where its guard is true (R298). -/
def namesP0 (w : Word) : Bool :=
  match fieldOf w 22 6 with
  | 0x06 => fieldOf w 19 3 == 0
  | 0x07 => fieldOf w 19 3 == 0
  | 0x08 => fieldOf w 4 3 == 0
  | _ => false

/-- The guard of a word (R298). -/
def wordGuard (w : Word) : Guard := ⟨(w >>> 29).setWidth 3, w.getLsbD 28⟩

/-! ## Lengths of bus frames (R390) -/

/-- A length of data that a frame of format `FMT` can have: Classical CAN, CAN FD, CAN XL and Ethernet. -/
def lenAllowed (fmt n : Nat) : Bool :=
  match fmt with
  | 0 => n ≤ 8
  | 1 => n ≤ 8 || [12, 16, 20, 24, 32, 48, 64].contains n
  | 2 => 1 ≤ n && n ≤ 2048
  | 3 => 14 ≤ n && n ≤ 1518
  | _ => false

end Sys2Proof
end

