-- ==== Sys2Proof/Config.lean ====
section
/-!
DEFINITION. What the device's manufacture fixes, and the free values: constants without a body, so that no proof can use a value of them.
-/
namespace Sys2Proof

/-- The free values (assumption 1): where the specification leaves a result undefined or does not state it, the machine takes the next of these. -/
opaque Config.freeWord : Nat → BitVec 32

/-- `FW_ROOT` (R473): SHA-256 of the firmware-signing public key, byte 0 in bits 7 to 0. -/
opaque Config.fwRoot : BitVec 256

/-- `DBG_ROOT` (R473): SHA-256 of the debug-unlock public key. -/
opaque Config.dbgRoot : BitVec 256

/-- `DEVSERIAL` (R473). -/
opaque Config.devSerial : BitVec 64

/-- The Denquin role-image public key of key slot 2 (R479), 64 bytes. -/
opaque Config.denquinKey : BitVec 512

/-- Columns that the factory fuses of bank n replace (R540). -/
opaque Config.repaired : Nat → BitVec 6

/-- The levels of a port's TXD while a frame of these bytes is on the wire in a mode: ISO 11898-1 and IEEE 802.3cg give them, the specification does not (log 111). -/
opaque Config.wireLevels : Nat → List (BitVec 8) → List Bool

/-- The reason byte of a BOOT record (R497), of what firmware has to tell: that the other slot failed, that the early-port table or an image was not used, and how many entries were skipped (R522, R523); its codes are not stated. -/
opaque Config.bootReason : Bool → Bool → Nat → BitVec 8

/-- The sources that firmware has T32 see, in a state that has drawn this many free values, and those of them that it has not served (R456); neither is stated. -/
opaque Config.t32Sees : Nat → Nat → Bool

/-- The CTR_DRBG's output (R486): block n of 32 bytes. -/
opaque Config.drbg : Nat → BitVec 256

end Sys2Proof
end

