-- ==== Sys2Proof/Machine/State.lean ====
section
/-!
DEFINITION. The state of the block as plain data: everything the specification gives the device, and the queue of waiting commands; its value at reset.
-/
namespace Sys2Proof.Machine

/-! ## Containers -/

/-- A table: key and value pairs, keys rising; a key not listed stands for the value its user names (the reset value of that object). -/
abbrev Tab (α : Type) := List (Nat × α)

/-- Byte memory: address and byte pairs, addresses strictly rising, no listed byte 0; an unlisted byte reads as 0. -/
abbrev Mem := List Host.Cell

/-! ## Interrupt controller (16_events_and_interrupts.md) -/

/-- `ICU_SRCs` (R455, R470). -/
structure SrcAttr where
  prio : BitVec 4 := 0
  vec : BitVec 6 := 0
  group : BitVec 6 := 0
  tgt : BitVec 2 := 0
deriving DecidableEq, Repr

/-- One entry of a function's MSI-X table (R469): the four words; a vector is masked at reset (PCIe specification). -/
structure MsixEntry where
  addrLo : Word := 0
  addrHi : Word := 0
  data : Word := 0
  ctl : Word := 1
deriving DecidableEq, Repr

/-- One of the targets T0 to T31 (R457, R469) with its function's MSI-X state (R463). -/
structure Target where
  priority : Bool := false
  dis : Bool := false
  thresh : BitVec 4 := 0
  eoiBad : Bool := false
  psel : BitVec 10 := 0
  msix : Tab MsixEntry := []
  pba : List Nat := []
  msixEnable : Bool := false
  functionMask : Bool := false
deriving DecidableEq, Repr

/-- A hold-off group (R461): `HOLDOFF`, and the timer's remaining CLK_TB cycles while it runs; `claimed` is the target whose claim has loaded it since the last CLK_TB edge. -/
structure HoldGroup where
  holdoff : BitVec 16 := 0
  running : Bool := false
  left : Nat := 0
  claimed : Option Nat := none
deriving DecidableEq, Repr

/-- The interrupt controller (R454 to R471). `pend` and `serv` are the pulse sources pending, and all sources in service, at their own target (T0 for a device source); `pend33` the pulse sources pending at T33, and `pend32` those that T32's own copy holds. -/
structure Icu where
  attr : Tab SrcAttr := []
  pend : List Nat := []
  serv : List Nat := []
  pend33 : List Nat := []
  pend32 : List Nat := []
  target : Tab Target := []
  group : Tab HoldGroup := []
  hattn : Tab (BitVec 32) := []
  gdis : Bool := false
  t33dis : Bool := false
deriving DecidableEq, Repr

/-- A message the device has written on the host link (R463). -/
structure MsiMessage where
  fn : Nat
  vec : Nat
  addr : BitVec 64
  data : Word
deriving DecidableEq, Repr

/-! ## Security and logbook (17_security_and_logbook.md) -/

/-- A key slot (R479, R480, R504): kind 0 is empty; `material` is never readable. -/
structure KeySlot where
  kind : BitVec 4 := 0
  filler : BitVec 5 := 0
  persist : Bool := false
  material : List Byte := []
deriving DecidableEq, Repr

/-- A MACsec association register `SEC_BBn_TXSAa` or `SEC_BBn_RXc_SAa` with its packet number (R491). -/
structure MacSa where
  an : BitVec 2 := 0
  slot : BitVec 6 := 0
  en : Bool := false
  pn : Word := 0
deriving DecidableEq, Repr

/-- The MACsec registers of one backbone port (R491). -/
structure MacPort where
  replayWin : BitVec 16 := 0
  txsel : Bool := false
  txSciLo : Word := 0
  txSciHi : Word := 0
  tx : Tab MacSa := []
  rxSciLo : Tab Word := []
  rxSciHi : Tab Word := []
  rx : Tab MacSa := []
deriving DecidableEq, Repr

/-- An instruction of the test access port (R493, R495): those of IEEE 1149.1, the unlock registers, and the halt and access that level 2 opens. -/
inductive TapInstr where
  | bypass | idcode | sample | extest | intest | dbgChal | dbgResp | access
deriving DecidableEq, Repr

/-- Security state: key store, fuses that can be blown, TRNG and debug (R473 to R495, R504); `tapIr` is the instruction that the test access port's register holds, IDCODE after its reset; `crypto` are the voyages whose requests the crypto engine serves, in order (R485). -/
structure Security where
  keys : Tab KeySlot := []
  kekSet : Bool := false
  svnFuse : Nat := 0
  trngFail : Bool := false
  noSealKey : Bool := false
  dbgLevel : BitVec 2 := 0
  dbgReq : BitVec 8 := 0
  dbgFails : BitVec 4 := 0
  nonce : Option (BitVec 256 × Int) := none
  nonceSent : BitVec 256 := 0
  tapIr : TapInstr := .idcode
  crypto : List Nat := []
  mac : Tab MacPort := []
deriving DecidableEq, Repr

/-- A seal group whose signature is not yet written (R500): the sequence number of its SEAL_HEAD, and the doors whose LOG_SEAL waits for it. -/
structure SealPending where
  head : Nat
  doors : List Nat := []
deriving DecidableEq, Repr

/-- A record to be appended (R496, R497): origin partition and door, kind, object, OLD and NEW, and the bytes of its `details` DETAIL records. -/
structure LogDraft where
  part : Nat := 0
  door : Nat := 2
  kind : Nat
  object : Nat := 0
  body : List Byte := []
  detail : List Byte := []
  details : Nat := 0
deriving DecidableEq, Repr

/-- The logbook (R496 to R502): the held records oldest first, the next sequence number, the export mark, the chain value H; `due` are the records that firmware still has to write (R530), oldest first. -/
structure Logbook where
  ring : List (BitVec 256) := []
  next : Nat := 0
  mark : Nat := 0
  h : BitVec 256 := 0
  sinceSeal : Nat := 0
  seals : List SealPending := []
  due : List LogDraft := []
  lost : Nat := 0
deriving DecidableEq, Repr

/-! ## Power, reset and start-up (18_power_reset_startup.md) -/

/-- The device's states (R510), `locking` being a reset after its trigger has ended and before the root PLL has locked. -/
inductive Phase where
  | off | locking | run | moored
deriving DecidableEq, Repr

/-- Entry to moored in progress (R511): the commit time, and whether landing L has been performed. -/
structure Mooring where
  commit : Nat
  landed : Bool
deriving DecidableEq, Repr

/-- A domain switch by POWER_STATE in progress (R509): domain, direction, and the door that waits. -/
structure DomainSwitch where
  domain : Nat
  on : Bool
  door : Nat
deriving DecidableEq, Repr

/-- Power and reset state with the `PWR_` registers (R505 to R531); `vddioLow` are the port groups whose I/O supply, lost while moored, holds the device in cold reset (R506). -/
structure Power where
  phase : Phase := .off
  porstLow : Bool := true
  railsLow : List Rail := []
  railsWarn : List Rail := []
  vddioLow : List Nat := []
  coldBoot : Bool := true
  cause : BitVec 4 := 0
  lastReset : BitVec 4 := 0
  mooring : Option Mooring := none
  hold : Bool := false
  holdCtr : BitVec 16 := 0
  holdRefused : Bool := false
  thermal : Bool := false
  thermSafe : Bool := false
  wakeSrc : BitVec 8 := 0
  domains : BitVec 64 := BitVec.allOnes 64
  switching : Option DomainSwitch := none
  holdLimit : BitVec 16 := 10
  sticky : BitVec 5 := 0
  nofw : Bool := false
  temp : Tab (BitVec 16) := []
  warnOn : BitVec 4 := 0
  critOn : BitVec 4 := 0
  twarn : BitVec 8 := 140
  tcrit : BitVec 8 := 155
  thermAct : Bool := true
  refsel : Bool := false
  linkUp : Bool := false
  wakeDriven : Bool := false
  wakeDue : Option (Nat × BitVec 64 × BootInputs) := none
  quiesce : Bool := false
  vddio : Tab VddioRange := []
deriving DecidableEq, Repr

/-! ## General banks (19_onchip_memories.md) -/

/-- A handover under way (R536): new kind and owner, `KEEP`, and the door a BANK_ASSIGN waits on. -/
structure Handover where
  kind : BitVec 2
  owner : BitVec 5
  keep : Bool
  door : Option Nat
deriving DecidableEq, Repr

/-- A general bank's ownership, power and error state (R532 to R545); words are 64-bit word indexes. -/
structure Bank where
  kind : BitVec 2 := 0
  owner : BitVec 5 := 0
  handover : Option Handover := none
  ret : Bool := false
  leaving : Bool := false
  waiting : Bool := false
  ownRefused : Bool := false
  corrected : BitVec 16 := 0
  uncorr : BitVec 16 := 0
  bad : List Nat := []
  soft : List Nat := []
deriving DecidableEq, Repr

/-! ## Global registers (20_register_map.md) -/

/-- `GLB_LOCK`, `GLB_WRERR`, `GLB_WRADDR`, `GBK_ECC_ADDR`, `LSY_LANDOUT`, the captured high halves (R27) and the last read data (R556, R545, R557). -/
structure GlobalRegs where
  lock : Bool := false
  wrerr : BitVec 3 := 0
  wraddr : BitVec 24 := 0
  wraddrValid : Bool := false
  eccBank : BitVec 4 := 0
  eccWord : BitVec 15 := 0
  eccValid : Bool := false
  landoutWidth : BitVec 7 := 10
  capture : Tab Word := []
deriving DecidableEq, Repr

/-! ## Partitions (07_partitions.md) -/

/-- An address window (R201, R220, R221). -/
structure Window where
  r : Bool
  w : Bool
  x : Bool
  space : BitVec 2
  bank : BitVec 4
  base : Nat
  size : Nat
  target : Nat
deriving DecidableEq, Repr

/-- A partition reset under way (R232): its trigger in R231's order, the partition and door of its origin, the records dropped and voyages ended so far, and the doors that wait for its completion. -/
structure ResetSeq where
  trigger : Nat
  part : Nat
  door : Nat
  dropped : Nat := 0
  ended : Nat := 0
  doors : List Nat := []
deriving DecidableEq, Repr

/-- A partition's snapshot settings and export (R57 to R59, R553): `skipped` tells that a due snapshot has been skipped since the last export, `exSkipped` that one had been when the export under way was sampled. -/
structure Snapshot where
  once : Bool := false
  repeatN : Nat := 0
  buffer : Nat := 0
  length : Nat := 0
  skipped : Bool := false
  exporting : Option (BitVec 64 × BitVec 64) := none
  exSkipped : Bool := false
  status : BitVec 4 := 0
  lsn : Word := 0
deriving DecidableEq, Repr

/-- A partition: PARTITION_CONFIG and QUOTA_SET values (R218), the shares that apply in the current gate window (R229), windows, counters (R237), events (R235) and gates (R230). -/
structure Partition where
  prio : BitVec 3 := 7
  vidBase : Nat := 0
  vidCount : Nat := 0
  evtBase : Nat := 0
  evtCount : Nat := 0
  channels : Nat := 0
  queues : Nat := 0
  keyslots : BitVec 64 := 0
  ferryShare : Nat := 1
  mbxRate : Nat := 6
  cells : Nat := 0
  hostShare : Nat := 0
  bargeShare : Nat := 0
  hostNow : Nat := 0
  bargeNow : Nat := 0
  wins : Tab Window := []
  cnt : Tab Word := []
  event : BitVec 7 := 0
  reset : Option ResetSeq := none
  busMaster : Bool := false
  gates : Tab Nat := []
  snap : Snapshot := {}
  xsel : BitVec 7 := 0
  credit : Nat := 0
deriving DecidableEq, Repr

/-! ## Deck memory and queues (08_deck_memory.md) -/

/-- Who produces into, or waits on, a queue (R244). -/
inductive Agent where
  | voyage (v : Nat)
  | ring (p m : Nat)
  | port (p : Nat)
  | rx (link part : Nat)
deriving DecidableEq, Repr

/-- A packet: the cells that hold it in order, and its length in bytes (R245). -/
structure Packet where
  cells : List Nat
  len : Nat
deriving DecidableEq, Repr

/-- A packet under production (R245): its producer, what it holds so far, the bank of its last cell, and whether the hardware has rewound it under R259. -/
structure Building where
  agent : Agent
  pkt : Packet := ⟨[], 0⟩
  rewound : Bool := false
deriving DecidableEq, Repr

/-- A queue (R242): packets from the release point on, in commit order, the first being packet number `first`; read point, mark and landing bounds are packet numbers. `reading` lists the claims in progress and `freed` the packets released while still being read (R257); `waiting` the readers in the order in which they began to wait, and `woken` those of them that a commit has woken and that have not claimed since (R255). -/
structure Queue where
  owner : Nat
  port : Option Nat := none
  depth : Nat
  packets : List Packet := []
  first : Nat := 0
  readAt : Nat := 0
  mark : Nat := 0
  bounds : Tab Nat := []
  reading : List (Agent × Nat) := []
  freed : List (Nat × Packet) := []
  building : List Building := []
  waiting : List Agent := []
  woken : List Agent := []
  cnt : Tab Word := []
deriving DecidableEq, Repr

/-- A stalled producer (R250), in the order in which they stalled, and the test that refused it; `granted` tells that it has since taken the cell, and goes on. -/
structure Stall where
  agent : Agent
  queue : Nat
  reason : Nat
  granted : Bool := false
deriving DecidableEq, Repr

/-- Deck memory (R238 to R263). `taken` are the cells held by queues; `quar` the quarantined cells; `bad` the cells whose array holds an uncorrectable error, and `soft` the 64-bit words, eight to a cell, that hold a correctable one (R240). -/
structure Deck where
  taken : Tab (List Nat) := []
  quar : List Nat := []
  bad : List Nat := []
  soft : List Nat := []
  mem : Mem := []
  queues : Tab Queue := []
  stalls : List Stall := []
  rotation : List (Agent × Nat) := []
  timedTaken : Nat := 0
  flatPages : Nat := 0
  flatRefused : Bool := false
  corrected : BitVec 16 := 0
  quarantined : BitVec 16 := 0
  eccCell : BitVec 18 := 0
  eccValid : Bool := false
  qsel : BitVec 13 := 0
  scrubAt : Nat := 0
deriving DecidableEq, Repr

/-! ## Barge DMA (09_barge_dma.md) -/

/-- A descriptor as loaded (R267) with its class (R266) and the voyage that loaded it. -/
structure Descriptor where
  mode : BitVec 2
  slist : Bool
  dlist : Bool
  barrier : Bool
  scount : Nat
  dcount : Nat
  length : Nat
  src : Nat
  dst : Nat
  timed : Bool
deriving DecidableEq, Repr

/-- A piece of an operand (R268): where it starts in the transfer, its address and its length. -/
structure Piece where
  start : Nat
  addr : Nat
  len : Nat
deriving DecidableEq, Repr

/-- How far a transfer has come in an operand: the bytes whose bursts have been issued, the list entries used, and the pieces they gave, the current one last. -/
structure Cursor where
  pos : Nat := 0
  entry : Nat := 0
  used : List Piece := []
deriving DecidableEq, Repr

/-- The active set: the descriptor, the places in the source and in the destination (the first and second operand of a compare), the source bytes read ahead of the destination, the failure that the reading of the source has met, and original source bytes that the transfer itself has overwritten, by address (R272). -/
structure Transfer where
  desc : Descriptor
  src : Cursor := {}
  dst : Cursor := {}
  ahead : List Byte := []
  failed : Option (BitVec 4) := none
  kept : List (Nat × Byte) := []
deriving DecidableEq, Repr

/-- How a transfer has ended (R271). -/
inductive BargeEnd where
  | clean
  | mismatch (offset : Word)
  | error (code : BitVec 4)
deriving DecidableEq, Repr

/-- A barge channel (R264 to R285); `ended` tells how the active transfer has ended, until its end is carried out. -/
structure Channel where
  owner : Option Nat := none
  prio : BitVec 3 := 0
  rate : BitVec 8 := 0
  active : Option Transfer := none
  ended : Option BargeEnd := none
  shadow : Option Descriptor := none
  latch : Option Word := none
  descBad : Bool := false
  loadRefused : Bool := false
  err : BitVec 4 := 0
  addrLo : Word := 0
  addrHi : Word := 0
  count : Nat := 0
  withheld : Bool := false
  waiting : List Nat := []
  cnt : Tab Word := []
deriving DecidableEq, Repr

/-! ## Port engines (10_rorid_architecture.md) -/

/-- R287. -/
inductive EngState where
  | noImage | running | failed
deriving DecidableEq, Repr

/-- R318. -/
inductive BankState where
  | empty | loading | verified
deriving DecidableEq, Repr

/-- One of the two instruction banks with the header kept beside it (R314, R318) and the digest of its load (R195, R382); a word not listed is 0; `bad` and `soft` are the words whose array holds an uncorrectable or a correctable error (R312). -/
structure IBank where
  words : Tab Word := []
  hdr : Tab Word := []
  st : BankState := .empty
  digest : BitVec 256 := 0
  bad : List Nat := []
  soft : List Nat := []
deriving DecidableEq, Repr

/-- What a port engine waits for (R303, R344, R351). -/
inductive EngWait where
  | no
  | event (mask : Word)
  | put (q : Nat) (rd : BitVec 4) (left : List Byte)
  | commit (q : Nat) (rd : BitVec 4)
  | claim (q : Nat) (rd : BitVec 4)
  | get (q : Nat) (rd : BitVec 4) (n : Nat)
deriving DecidableEq, Repr

/-- What the ECC found when a word of an instruction bank was fetched (R312). -/
inductive FetchMark where
  | clean | soft | bad
deriving DecidableEq, Repr

/-- A port engine (R286 to R317). `fetched` is the word that will execute at `pc`, as it was fetched, `mark` what its ECC found then (R302, R312); `regs` are the codes of R295 but for the accumulators of mode C. -/
structure Engine where
  state : EngState := .noImage
  pc : BitVec 12 := 0
  fetched : Word := 0
  mark : FetchMark := .clean
  regs : Tab Word := []
  ac0 : BitVec 40 := 0
  ac1 : BitVec 40 := 0
  pred : BitVec 8 := 1
  estat : BitVec 5 := 0
  cause : BitVec 8 := 0
  tval : Word := 0
  rstack : List (BitVec 12) := []
  trapped : Option (BitVec 12) := none
  cycle : Word := 0
  wait : EngWait := .no
  scrub : Bool := false
deriving DecidableEq, Repr

/-- The port's read of a packet of one queue (R354, R355): packet number, length, bytes read, cells that have arrived in the read buffer, which of them were found to be lost, whether a QGET has met one of those, and whether the read is open. -/
structure OpenRead where
  pkt : Nat
  cells : List Nat
  len : Nat
  pos : Nat := 0
  arrived : Nat := 0
  bad : List Nat := []
  lost : Bool := false
  isOpen : Bool := true
deriving DecidableEq, Repr

/-! ## Port hardware (12_port_hardware.md) -/

/-- A pin: `PINk_CFG`, the level at the ball, the filtered input level before `IINV`, and the safe-hold code of R371. -/
structure Pin where
  cfg : Word := 0
  ball : Bool := false
  hold : Option (BitVec 2) := none
deriving DecidableEq, Repr

/-- A timer channel (R367, R368); `hits` and `wraps` count the matches and wraps that have come and whose event is not yet pending, and `caught` is the count at a selected edge of the capture pin that is not yet in `AUX`. -/
structure Timer where
  ctl : Word := 0
  cnt : Word := 0
  cmp : Word := 0
  aux : Word := 0
  pre : BitVec 8 := 0
  nextCmp : Option Word := none
  nextAux : Option Word := none
  toggle : Bool := false
  hits : Nat := 0
  wraps : Nat := 0
  caught : Option Word := none
deriving DecidableEq, Repr

/-- An edge detector (R369). -/
structure Edge where
  ts : BitVec 64 := 0
  full : Bool := false
  ovr : Bool := false
  held : Word := 0
deriving DecidableEq, Repr

/-- A shift unit (R379, R380): `tx` words with their last-of-frame mark; `sr` the word being shifted; `done` a complete received word that found the RX FIFO full; `lastBit` the last bit of the word shifted out last. -/
structure Shift where
  cfg : Word := 0
  timing : BitVec 16 := 0
  tx : List (Word × Bool) := []
  rx : List Word := []
  sr : Option (Word × Bool) := none
  done : Option Word := none
  lastBit : Bool := false
  isOpen : Bool := false
  stall : Bool := false
  txovf : Bool := false
  rxovr : Bool := false
  ferr : Bool := false
  aborted : Bool := false
deriving DecidableEq, Repr

/-- A CONTROL or INVOKE request (R375); `vid` none for the requests firmware makes at an early start of the port `early` (R523), whose `VID` field is 0; `orphan` tells that its entry no longer waits for the answer. -/
structure Request where
  invoke : Bool
  vid : Option Nat
  cmd : Word
  arg : Word
  orphan : Bool := false
  early : Option Nat := none
deriving DecidableEq, Repr

/-- A pending swap (R381): the LSN it is due from, `LIMIT`, H, and a mask of the shift units it has aborted. -/
structure Swap where
  due : Nat
  limit : Nat
  held : Nat := 0
  aborted : Nat := 0
deriving DecidableEq, Repr

/-- What a safe-state landing waits for (R196, R232, R371): the next landing of the class that a removed commission held, or, after a reset, the next class-0 landing. -/
inductive SafeDue where
  | classLanding (c : Nat)
  | baseLanding
deriving DecidableEq, Repr

/-! ## Bus controller (13_bus_roles.md) -/

/-- A frame of the transmit buffer: its bytes (header words 0 to 3, then data) and how it waits (R397). -/
structure TxFrame where
  bytes : List Byte
  /-- `none`: ready; `some n`: held for the first landing of the port's class whose LSN is at least `n`. -/
  held : Option Nat := none
  onWire : Bool := false
deriving DecidableEq, Repr

/-- A port's bus controller (R392, R393): `busy` tells that another node's frame is on the bus, `xlData` that a CAN XL frame is in its data phase (R392); `turn` is the number of the PLCA transmit opportunity under way, `burst` the frames that this node has begun in its own (R400). -/
structure BusCtl where
  cfg : Word := 0
  nbt : Word := 0
  dbt : Word := 0
  tdc : Word := 0
  plca : Word := 0
  plcaActive : Bool := false
  errState : BitVec 2 := 3
  recv : BitVec 8 := 0
  tec : BitVec 9 := 0
  evt : BitVec 6 := 0
  even : BitVec 6 := 0
  rx : List (List Byte) := []
  rxPos : Nat := 0
  build : List Word := []
  tx : List TxFrame := []
  busy : Bool := false
  xlData : Bool := false
  turn : Nat := 0
  burst : Nat := 0
deriving DecidableEq, Repr

/-- A port: commission (R225), engine, banks, scratchpad (R541), hardware (R358), status (R385), counters (R386, R404), wake filter (R399). `holds` is H of the pending or most recent swap (R381, R385); `loading` the door whose ROLE_IMAGE_LOAD writes the inactive bank (R318, R319); `bankCorrected` counts the correctable errors met in the instruction banks (R312). `byClass` holds, for each class, the latched image as it stood at that class's last landing (R82). -/
structure Port where
  owner : Option Nat := none
  lastOwner : Option Nat := none
  xclass : BitVec 2 := 0
  txq : BitVec 13 := 0x1FFF
  number : BitVec 16 := 0
  eng : Engine := {}
  bankA : IBank := {}
  bankB : IBank := {}
  bankCorrected : BitVec 16 := 0
  active : Bool := false
  spad : Mem := []
  spadBad : List Nat := []
  spadSoft : List Nat := []
  spadCorrected : BitVec 16 := 0
  pins : Tab Pin := []
  pinOut : BitVec 6 := 0
  evPend : BitVec 32 := 0
  imgInvalid : Bool := true
  img : Tab Word := []
  latched : Tab Word := []
  latchedInvalid : Bool := true
  byClass : Tab (Tab Word × Bool) := []
  landLsn : Word := 0
  dtimeHi : Option Word := none
  timers : Tab Timer := []
  edgeCfg : Word := 0
  edges : Tab Edge := []
  shifts : Tab Shift := []
  waiting : List Request := []
  joining : List Request := []
  delivered : Option (Request × BitVec 16) := none
  ansVal : Word := 0
  reqView : Option Request := none
  qev : Tab Word := []
  netl : Tab Word := []
  omap : Tab Word := []
  stg : Tab Word := []
  fresh : List Nat := []
  swap : Option Swap := none
  holds : BitVec 16 := 0
  flags : BitVec 4 := 0
  safeDue : List SafeDue := []
  fencedQs : List Nat := []
  fencers : List Nat := []
  cnt : Tab Word := []
  bc : BusCtl := {}
  reads : Tab OpenRead := []
  wake : Tab Word := []
  wakeErrors : Nat := 0
  loading : Option Nat := none
deriving DecidableEq, Repr

/-- What a gPTP message is (R408): a Sync with its two-step flag and its interval in ns, or a message of the other kinds that the device handles. -/
inductive GptpKind where
  | sync (twoStep : Bool) (interval : Nat)
  | followUp
  | pdelayReq
  | pdelayResp
  | other
deriving DecidableEq, Repr

/-- A gPTP frame as its port has received it: domain, kind, sequence number, the sender's port identity, and its receive timestamp in ns. -/
structure GptpFrame where
  domain : Nat
  kind : GptpKind
  seq : BitVec 16
  sender : BitVec 80
  stamp : Nat
deriving DecidableEq, Repr

/-- A backbone port (R406 to R410); `gptp` are the frames handed to the gPTP function and not yet handled by it, oldest first, `pdelaySeq` the sequence number of its next Pdelay_Req. -/
structure Backbone where
  en : Bool := false
  rate : BitVec 2 := 0
  an : Bool := true
  macsec : Bool := false
  lat : Word := 0
  link : Bool := false
  speed : BitVec 2 := 0
  gptp : List GptpFrame := []
  pdelaySeq : BitVec 16 := 0
  cnt : Tab Word := []
deriving DecidableEq, Repr

/-! ## Endpoints (14_endpoints_and_identity.md) -/

/-- R413. -/
inductive EpState where
  | free | pending | ready
deriving DecidableEq, Repr

/-- An endpoint directory entry (R412, R413, R430, R489). -/
structure Endpoint where
  state : EpState := .free
  kind : BitVec 2 := 0
  owner : BitVec 5 := 0
  port : BitVec 7 := 0
  busAddr : BitVec 24 := 0
  link : Bool := false
  part : BitVec 6 := 0
  remote : BitVec 14 := 0
  authEn : Bool := false
  keySlot : BitVec 6 := 0
  number : BitVec 16 := 0
  neg : BitVec 16 := 0
  portCom : BitVec 16 := 0
  proven : Bool := false
  txFresh : BitVec 64 := 0
  rxFresh : BitVec 64 := 0
deriving DecidableEq, Repr

/-- Where a message to an endpoint is committed (R415): the discovery sink, a deck queue (a port's, which takes a record, or another), or the transmit path of a link. -/
inductive SendPath where
  | sink
  | queue (n : Nat) (record : Bool)
  | link (n : Nat)
deriving DecidableEq, Repr

/-- What the lookup of a message under way found: its path, and the entry as it stood then, whose number stamps the message (R415, R416). -/
structure Sending where
  path : SendPath
  entry : Endpoint := {}
deriving DecidableEq, Repr

/-- A message in a link's transmit path or in the discovery sink (R415, R417): the stamp, the sender, who is the owner of the entry that addressed it, the part and endpoint it goes to, the message's bytes, and the fragment progress; the cells of a path's messages are its queue's packets, in the same order (R420). -/
structure Message where
  eid : Nat
  stamp : BitVec 16
  sender : Nat
  part : BitVec 6 := 0
  remote : BitVec 14 := 0
  ident : Word := 0
  bytes : List Byte
  sent : Nat := 0
  version : BitVec 16 := 0
deriving DecidableEq, Repr

/-- A frame handed to the crossing-protocol path (R407, R419): a DATA fragment, or an ANNOUNCE with its sender and the versions it lists. -/
inductive CrossingFrame where
  | data (h : CrossingHeader) (payload : List Byte)
  | announce (part : Fin 64) (versions : List Nat)
deriving DecidableEq, Repr

/-- A message being assembled from one source part (R421): the entry that it is for, with that entry's owner and the word of its record as its first fragment found them; the path's queue and whether it is a port's; `last` is the time at which its last fragment came; `left` are the received bytes that the packet under production has not yet taken; `complete` tells that the last fragment has arrived. -/
structure Assembly where
  seq : BitVec 16
  eid : Nat
  stamp : BitVec 16
  owner : Nat
  word : Word
  queue : Nat
  onPort : Bool
  left : List Byte := []
  last : Int
  complete : Bool := false
deriving DecidableEq, Repr

/-- A part known on a link (R422): the agreed version, 0 for none, and the device time of its last ANNOUNCE. -/
structure Peer where
  version : BitVec 16
  seen : Int
deriving DecidableEq, Repr

/-- A link's crossing-protocol state: transmit path, sequence count, peers, assemblies by source part; in the receive buffer the frames not yet handled, `inbox`, and the fragments that wait behind a stalled message with the time at which each came, `frames`. -/
structure Link where
  path : List Message := []
  seq : BitVec 16 := 0
  peers : Tab Peer := []
  rx : Tab Assembly := []
  inbox : List CrossingFrame := []
  frames : List (CrossingHeader × List Byte × Int) := []
  announced : Option Nat := none
deriving DecidableEq, Repr

/-- The result of an identity memory in the identity table, as the result buffer tells it (R426); reason 0 is a verified record. -/
structure Identity where
  reason : BitVec 8
  cls : BitVec 16
  maker : BitVec 16
  hwRev : BitVec 16
  neg : BitVec 16
  calLen : BitVec 10
  serial : BitVec 64
deriving DecidableEq, Repr

/-- The endpoint unit (R412 to R431). -/
structure Endpoints where
  dir : Tab Endpoint := []
  links : Tab Link := []
  sink : List Message := []
  ident : Tab Identity := []
  selfId : BitVec 6 := 0
  announce : Bool := false
  idConflict : Bool := false
  sel : BitVec 14 := 0
  idbSpeed : Bool := false
  makers : Tab Word := []
  cnt : Tab Word := []
deriving DecidableEq, Repr

/-! ## Berth arbitration (15_berth_arbitration.md) -/

/-- A requester slot of an arbiter (R433, R449); `engine` is the engine of a port group that was served last. -/
structure Requester where
  base : BitVec 4 := 0
  limit : BitVec 8 := 4
  losses : BitVec 13 := 0
  starved : Bool := false
  cutoff : Bool := false
  engine : BitVec 2 := 3
deriving DecidableEq, Repr

/-- A burst that has gone on from another arbiter (R432): its request, and the class of the burst that won there. -/
structure CarriedBurst where
  request : BerthRequest
  cls : TrafficClass
deriving DecidableEq, Repr

/-- A berth arbiter (R432 to R449): `work` is what the owner's burst serves, `left` the beats that the burst has left and `beats` those of the berth; `next` the arbiter to which the owner's burst has gone on, and `carried` the requests of slots 18 and 19 that have come from another arbiter. -/
structure Arbiter where
  starveLimit : BitVec 13 := 0x400
  slots : Tab Requester := []
  owner : BitVec 6 := 0
  busy : Bool := false
  work : Served := .control
  left : Nat := 0
  beats : Nat := 0
  next : Option Nat := none
  carried : Tab CarriedBurst := []
deriving DecidableEq, Repr

/-! ## Rings (05_rings.md) -/

/-- A DATA job the ring unit has begun (R158, R162, R166): the index of its first entry, its queue, whether the hardware has rewound its packet (R259) or the job has been refused, so that its further entries are consumed without effect; the bytes of its current entry that a stall has left over. -/
structure Job where
  first : BitVec 16
  queue : Nat
  rewound : Bool := false
  refused : Bool := false
  left : List Byte := []
deriving DecidableEq, Repr

/-- A submission ring (R150 to R177). `cover` lists the accepted doorbells not yet consumed: the index up to which each covers and the LSN it is classed against (R38, R158); `old` are the entries not yet fetched as they stood when a doorbell covered them, and `seen` those fetched and not yet consumed as the memory held them then (R155). -/
structure SubRing where
  size : Nat
  base : Nat
  shadow : Nat
  p : BitVec 16 := 0
  c : BitVec 16 := 0
  overrun : Bool := false
  regress : Bool := false
  refused : Bool := false
  fault : Bool := false
  reason : BitVec 8 := 0
  index : BitVec 16 := 0
  cover : List (BitVec 16 × Nat) := []
  job : Option Job := none
  fetched : BitVec 16 := 0
  entries : List (List Word) := []
  old : List (List Word) := []
  seen : List (List Word) := []
  shadowDue : Bool := false
  cnt : Tab Word := []
deriving DecidableEq, Repr

/-- A completion ring (R150 to R177). `unwritten` are the published records not yet written, with their indices; `late` the records without a held place that wait for room (R170); `parked` the voyages that wait for room (R169). -/
structure CompRing where
  size : Nat
  base : Nat
  shadow : Nat
  irqEn : Bool
  p : BitVec 16 := 0
  c : BitVec 16 := 0
  held : Nat := 0
  ciBad : Bool := false
  fault : Bool := false
  unwritten : List (BitVec 16 × BitVec 128) := []
  late : List (BitVec 128) := []
  parked : List Nat := []
  shadowDue : Bool := false
  cnt : Tab Word := []
deriving DecidableEq, Repr

/-! ## Timebase and landing unit (02_crossings_and_landings.md) -/

/-- A SYNC_CONFIG waiting for the next class-0 landing (R40). -/
structure SyncSet where
  source : BitVec 2
  gptpPort : Bool
  div : Nat
  w : BitVec 16
  rate : Option (BitVec 32)
deriving DecidableEq, Repr

/-- A schedule waiting for its start landing (R32); `cut` tells that its cut-off has been performed. -/
structure Start where
  s : Nat
  v : Option Nat
  gptp : Bool
  t0 : Nat
  m1 : Nat
  m2 : Nat
  m3 : Nat
  c : Nat
  cut : Bool := false
deriving DecidableEq, Repr

/-- Device time, the crossing schedule and its discipline (R26 to R45, R585). Times are ns, periods µs; `nominal` is the nominal time of LSN `lsn`; `step` the step fixed at the next landing's cut-off; `atLanding` tells that the CLK_TB cycle is that of landing `lsn`; `syncAt` and `syncIv` are the device time of the last Sync accepted and its interval in ns (R408). -/
structure Timebase where
  time : Nat := 0
  running : Bool := false
  rateAcc : Int := 0
  rate : BitVec 32 := 0
  t0 : Nat := 1000
  m1 : Nat := 1
  m2 : Nat := 1
  m3 : Nat := 1
  c : Nat := 20
  lsn : Nat := 0
  nominal : Nat := 0
  landed : Bool := false
  step : Option Int := none
  p : Int := 0
  misses : Nat := 0
  holdover : Bool := false
  gptpSync : Bool := false
  syncAt : Int := 0
  syncIv : Nat := 1000000000
  source : BitVec 2 := 0
  gptpPort : Bool := false
  div : Nat := 1
  w : BitVec 16 := 0
  sync : Option SyncSet := none
  start : Option Start := none
  nextCut : List (Nat × Nat) := []
  accepted : Option Nat := none
  heldEdge : Option Nat := none
  closed : Option Nat := none
  atLanding : Bool := false
  landout : Option Nat := none
  cnt : Tab Word := []
  snapRam : Option (BitVec 64 × BitVec 64 × List (Nat × BitVec 64)) := none
deriving DecidableEq, Repr

/-! ## Voyages, ferry engines and manifest cache (03_manifests.md, 04_voyages_and_ferry_engines.md) -/

/-- R119. -/
inductive VState where
  | candidate | admitted | ready | active | parked | suspended | ending
deriving DecidableEq, Repr

/-- Why a voyage is parked, with the awaited object (R136). -/
inductive Park where
  | no
  | event (e : Nat)
  | landing
  | maxEntries
  | queue (q : Nat)
  | quota (q : Nat)
  | shadow (n : Nat)
  | join (p : Nat)
  | request (p : Nat)
  | crypto
  | miss (page : Nat)
  | room (ring : Nat)
deriving DecidableEq, Repr

/-- Where the current entry stands among the steps of R73 when the voyage is not executing it: not begun, resumed at step 5, waiting inside step 6 or wakened there, or waiting at step 8 with its record. -/
inductive Stage where
  | fresh
  | resumed
  | waiting
  | woken
  | posting
deriving DecidableEq, Repr

/-- What a role image or the crypto engine answered, or how the wait was ended by the device: a status, an extended status, a condition and a value. -/
structure Answer where
  status : BitVec 8
  ext : BitVec 8 := 0
  cond : Option (BitVec 2) := none
  value : Option Word := none
deriving DecidableEq, Repr

/-- The watch latch (R89): the channel it is armed for, and the events it holds a pulse of. -/
structure Watch where
  channel : Nat
  completion : Bool := false
  mismatch : Bool := false
deriving DecidableEq, Repr

/-- What the crypto engine finds for an AUTH (R488): a condition value, or the extended status of AUTH_FAIL. -/
inductive AuthFinding where
  | cond (c : BitVec 2)
  | fail (ext : Nat)
deriving DecidableEq, Repr

/-- A voyage context (R118). `cur` is the current entry as fetched, `first` the first entry of the chain under way, `chainK` the bytes of the chain's entries before the current one; `auth` is what the crypto engine found for the AUTH under way, which its answer delivers; `path` what the lookup of a message under way found (R415); `gather` the bytes of a message to the discovery sink; `posting` the record that waits for room, with the pulse and the next entry that follow its posting (`pulseDue`, `nextAt`); `halting` tells that a HALT is in force and takes effect at the next entry boundary; `startIdx` is the index of the START; `resumes` are the RESUMEs of a timed voyage that still have to act, each with its landing and its submission ring (R38); `bytesCharged` tells that the transfer of the current entry has been charged (R129, R145); `countedTo` is the index up to which the entries of the chain under way have been counted as reached (R73, R145). -/
structure Voyage where
  part : Nat
  header : Nat
  ring : Nat
  cring : Option Nat := none
  hdr : List Word := []
  timed : Bool := false
  xclass : Nat := 0
  demoted : Bool := false
  late : Bool := false
  repeated : Bool := false
  state : VState := .ready
  stage : Stage := .fresh
  park : Park := .no
  entry : Nat := 0
  moved : Nat := 0
  chainCharged : Bool := false
  bytesCharged : Bool := false
  regs : Tab Word := []
  cond : BitVec 2 := 0
  ckEntry : Nat := 0
  ckRegs : Tab Word := []
  ckCond : BitVec 2 := 0
  effect : Bool := false
  captured : Tab (BitVec 16) := []
  resumeLatch : Bool := false
  watch : Option Watch := none
  deadline : Option Nat := none
  answer : Option Answer := none
  saw : Bool := false
  cycles : Nat := 0
  cells : Nat := 0
  bytes : Nat := 0
  reached : Nat := 0
  countedTo : Nat := 0
  slot : Option Nat := none
  since : Nat := 0
  startLsn : Nat := 0
  overlay : List (Nat × Word) := []
  haltAt : Option Nat := none
  resumeAt : Option Nat := none
  resumes : List (Nat × Nat) := []
  heldRecs : List (BitVec 128) := []
  posting : Option (BitVec 128) := none
  cur : List Word := []
  pulseDue : Bool := false
  nextAt : Option Nat := none
  chainK : Nat := 0
  burst : Nat := 0
  auth : Option AuthFinding := none
  path : Option Sending := none
  gather : List Byte := []
  first : List Word := []
  suspending : Bool := false
  halting : Bool := false
  startIdx : BitVec 16 := 0
deriving DecidableEq, Repr

/-- A page of the manifest cache (R138 to R140): partition, page address, contents, the windows generation it came through, and the voyages it is pinned for. -/
structure CachePage where
  part : Nat
  addr : Nat
  data : Mem
  window : Nat
  pins : List Nat := []
deriving DecidableEq, Repr

/-- A fill waited for (R138): partition, page address, and the voyage that missed, if one did. -/
structure Fill where
  part : Nat
  addr : Nat
  voyage : Option Nat
deriving DecidableEq, Repr

/-- An admission round under way (R120, R121, R148): its landing, the slots in service in its first cycle, and the cells and the byte rate that apply to it. -/
structure Round where
  lsn : Nat
  slots : Nat
  cells : BitVec 19
  brate : BitVec 14
deriving DecidableEq, Repr

/-- A candidate that a round has refused (R122): its NOT_ADMITTED record, and the landing at whose step 3 that is published. -/
structure Refused where
  vid : Nat
  record : BitVec 128
  lsn : Nat
deriving DecidableEq, Repr

/-- The scheduler (R113 to R149). `following` are the untimed records that wait for the held records of their voyages, each with its voyage, in the order in which they were posted (R106, R107). `rounds` are the admission rounds under way, that of the earliest landing first; `retired` are the engines retired since the last reset (R141). `starting` are the STARTs taken up whose headers have not arrived, oldest first, each with its voyage ID and the context it will take (R115, R120); `pages` are the cache's pages, least recently executed first; `tick` numbers entries into Ready and slot grants in order. -/
structure Sched where
  voy : Tab Voyage := []
  starting : List (Nat × Voyage) := []
  inService : BitVec 16 := 0xFFFF
  slots : Tab Nat := []
  tick : Nat := 0
  lastPart : Nat := 31
  pages : List CachePage := []
  fills : List Fill := []
  admBrate : BitVec 14 := 0x1000
  admCells : BitVec 19 := 0x8000
  quantum : BitVec 16 := 0x1000
  lastBrate : BitVec 14 := 0x1000
  lastCells : BitVec 19 := 0x8000
  rounds : List Round := []
  retired : BitVec 16 := 0
  refitDue : Bool := false
  notAdmitted : List Refused := []
  following : List (Nat × BitVec 128) := []
deriving DecidableEq, Repr

/-! ## The Gliny Control Interface (06_control_interface.md) -/

/-- R179. -/
inductive MbxState where
  | idle | pending | busy | done
deriving DecidableEq, Repr

/-- A mailbox with its door's session and token bucket (R179 to R189); tokens in 1/1,000,000 of a token. `since` is the device time from which `tokens` accrues. -/
structure Mailbox where
  req : Tab Word := []
  locked : List Word := []
  taken : Option (List Word × Option (BitVec 16)) := none
  rsp : Tab Word := []
  state : MbxState := .idle
  version : Option (BitVec 16) := none
  dbIgnored : Bool := false
  wrIgnored : Bool := false
  tokens : Nat := 8000000
  since : Nat := 0
deriving DecidableEq, Repr

/-- A firmware update in progress (R209, R210). -/
structure FwUpdate where
  length : Nat
  svn : BitVec 7
  accepted : Nat := 0
  erasing : Bool := true
  staged : List (Nat × List Byte) := []
deriving DecidableEq, Repr

/-- The ferrymaster's firmware and flash: what is running, the slot being run (B when true) and how many this boot has tried, the slot state (the permanent slot, the slot marked TRIAL and whether that has been tried), the update, the door of the command taken up with the partitions under reset at that time (R192), the doors of long commands that run beside the others (R190) (R186, R209 to R212, R475 to R477). -/
structure Firmware where
  running : Bool := false
  ready : Bool := false
  watchdog : Bool := false
  slot : Bool := false
  tried : Nat := 0
  permanent : Bool := false
  trial : Option Bool := none
  trialTried : Bool := false
  flash : Mem := []
  update : Option FwUpdate := none
  current : Option Nat := none
  long : List Nat := []
  fences : BitVec 32 := 0
  lastPart : Nat := 31
  bound : Option Nat := none
  crcErr : Bool := false
  discarded : Word := 0
  bsy : Bool := true
  bsySince : Option Int := none
  sspRsp : List Byte := []
  xspiWide : Bool := false
  xspiDiv : Nat := 32
deriving DecidableEq, Repr

/-! ## The whole device -/

/-- A word or message that the device has sent to the outside: the words that complete the last register read, of which an Unsupported Request has none (R547), the messages, and the frames sent on the backbone. -/
structure Outputs where
  readData : List Word := []
  msi : List MsiMessage := []
  frames : List (Nat × List Byte) := []
deriving DecidableEq, Repr

/-- The state of the device. -/
structure State where
  /-- The commands that wait, first in first out. -/
  pending : List Instr := []
  /-- The model's own: how many free values the machine has drawn. -/
  freeCtr : Nat := 0
  pwr : Power := {}
  vfEnable : Bool := false
  tb : Timebase := {}
  sch : Sched := {}
  sq : Tab SubRing := []
  cq : Tab CompRing := []
  mbx : Tab Mailbox := []
  fw : Firmware := {}
  part : Tab Partition := []
  resetDone : BitVec 32 := 0
  deck : Deck := {}
  brg : Tab Channel := []
  port : Tab Port := []
  bb : Tab Backbone := []
  ep : Endpoints := {}
  brt : Tab Arbiter := []
  icu : Icu := {}
  sec : Security := {}
  log : Logbook := {}
  bank : Tab Bank := []
  bankMem : Mem := []
  hostMem : Mem := []
  /-- Host bytes whose read the host completes as poisoned. -/
  hostBad : List Nat := []
  /-- Host address ranges, first byte and size, of the BARs of the device's own functions, as configuration space has placed them (R278). -/
  hostBars : List (Nat × Nat) := []
  glb : GlobalRegs := {}
  out : Outputs := {}
deriving DecidableEq, Repr

/-- The device in cold reset, PORST_N low (R518): every field at the value the specification states for reset, or at the value the assumption log names. -/
def State.reset : State := {}

/-- Why a command stops the machine with a fault. No command of this device does: every error the specification describes is an effect on the state. -/
inductive Fault where
  /-- Raised by nothing; kept so that the interface has a type (safe). -/
  | none
deriving DecidableEq, Repr

/-- Why a command is refused. -/
inductive Refusal where
  /-- Raised by the dispatch arms of commands that have no meaning yet (safe). -/
  | notModelled (mnemonic : String)
deriving DecidableEq, Repr

end Sys2Proof.Machine
end

