-- ==== Sys2Proof/Machine/Ops.lean ====
section
/-!
DEFINITION. The named operations over tables, memories and the parts of the state that every command family uses.
-/
namespace Sys2Proof.Machine

/-! ## Tables -/

/-- The value a table lists for a key. -/
def tFind {α : Type} : Tab α → Nat → Option α
  | [], _ => none
  | (k, v) :: t, n => if k = n then some v else tFind t n

/-- The value of a key, `d` where none is listed. -/
def tGet {α : Type} (t : Tab α) (n : Nat) (d : α) : α := (tFind t n).getD d

/-- The table with one key's value set. -/
def tPut {α : Type} : Tab α → Nat → α → Tab α
  | [], n, v => [(n, v)]
  | (k, w) :: t, n, v =>
    if n < k then (n, v) :: (k, w) :: t
    else if n = k then (n, v) :: t
    else (k, w) :: tPut t n v

/-- The table without a key. -/
def tDel {α : Type} : Tab α → Nat → Tab α
  | [], _ => []
  | (k, w) :: t, n => if k = n then tDel t n else (k, w) :: tDel t n

/-- The table with one key's value changed. -/
def tUpd {α : Type} (t : Tab α) (n : Nat) (d : α) (f : α → α) : Tab α := tPut t n (f (tGet t n d))

/-- A table of 32-bit counters with counter `k` incremented; counters wrap (R56). -/
def bump (t : Tab Word) (k : Nat) : Tab Word := tUpd t k 0 (· + 1)

/-- A table of 32-bit counters with counter `k` raised by `n`. -/
def bumpBy (t : Tab Word) (k n : Nat) : Tab Word := tUpd t k 0 (· + BitVec.ofNat 32 n)

/-- A sorted list of numbers with `n` in it. -/
def insertNat : List Nat → Nat → List Nat
  | [], n => [n]
  | k :: l, n => if n < k then n :: k :: l else if n = k then k :: l else k :: insertNat l n

/-! ## Memories -/

/-- The byte at an address; an unlisted byte reads as 0. -/
def memRead : Mem → Nat → Byte
  | [], _ => 0
  | (k, b) :: m, a => if k = a then b else memRead m a

/-- The memory with one byte written; writing 0 unlists the address. -/
def memWrite : Mem → Nat → Byte → Mem
  | [], a, b => if b = 0 then [] else [(a, b)]
  | (k, c) :: m, a, b =>
    if a < k then (if b = 0 then (k, c) :: m else (a, b) :: (k, c) :: m)
    else if a = k then (if b = 0 then m else (a, b) :: m)
    else (k, c) :: memWrite m a b

/-- Every listed address lies at or above `n`, the addresses rise strictly, and no listed byte is 0. -/
def memWfFrom : Nat → Mem → Bool
  | _, [] => true
  | n, (k, b) :: m => n ≤ k && b != 0 && memWfFrom (k + 1) m

/-- The canonical form of a memory. -/
def memWf (m : Mem) : Bool := memWfFrom 0 m

/-- `n` bytes from an address upward. -/
def memBytes (m : Mem) (a : Nat) : Nat → List Byte
  | 0 => []
  | n + 1 => memRead m a :: memBytes m (a + 1) n

/-- The memory with consecutive bytes written. -/
def memPut (m : Mem) (a : Nat) : List Byte → Mem
  | [] => m
  | b :: l => memPut (memWrite m a b) (a + 1) l

/-- The memory with every byte of a range returned to 0. -/
def memClear (m : Mem) (lo n : Nat) : Mem := m.filter fun c => c.1 < lo || lo + n ≤ c.1

/-- The number that little-endian bytes spell (R5). -/
def leNat : List Byte → Nat
  | [] => 0
  | b :: l => b.toNat + 256 * leNat l

/-- The `n` little-endian bytes of a number (R5). -/
def leBytes : Nat → Nat → List Byte
  | 0, _ => []
  | n + 1, x => BitVec.ofNat 8 x :: leBytes n (x / 256)

/-- The 32-bit word that the bytes at an address spell. -/
def memWord (m : Mem) (a : Nat) : Word := BitVec.ofNat 32 (leNat (memBytes m a 4))

/-- Word `k` of a byte list. -/
def wordAt (l : List Byte) (k : Nat) : Word := BitVec.ofNat 32 (leNat ((l.drop (4 * k)).take 4))

/-- The memory with a 32-bit word written. -/
def memPutWord (m : Mem) (a : Nat) (w : Word) : Mem := memPut m a (leBytes 4 w.toNat)

/-! ## Parts of the state -/

/-- PARTITION_CONFIG and QUOTA_SET values after reset (R188, R218). -/
def resetPartition (p : Nat) : Partition := if p = 0 then { mbxRate := 64 } else {}

/-- `ICU_SRCs` after reset (R470). -/
def resetSrc (n : Nat) : SrcAttr := if 576 ≤ n ∧ n ≤ 711 then { prio := 8, tgt := 1 } else {}

/-- Partition `p`. -/
def partOf (s : State) (p : Nat) : Partition := tGet s.part p (resetPartition p)
/-- The state with partition `p` changed. -/
def modPart (s : State) (p : Nat) (f : Partition → Partition) : State :=
  { s with part := tUpd s.part p (resetPartition p) f }

/-- Port `p`. -/
def portOf (s : State) (p : Nat) : Port := tGet s.port p {}
/-- The state with port `p` changed. -/
def modPort (s : State) (p : Nat) (f : Port → Port) : State := { s with port := tUpd s.port p {} f }

/-- The state with port `p`'s engine changed. -/
def modEng (s : State) (p : Nat) (f : Engine → Engine) : State :=
  modPort s p fun q => { q with eng := f q.eng }

/-- The state with port `p`'s counter `k` incremented (R386). -/
def bumpPort (s : State) (p k : Nat) : State := modPort s p fun q => { q with cnt := bump q.cnt k }

/-- Barge channel `n`. -/
def chanOf (s : State) (n : Nat) : Channel := tGet s.brg n {}
/-- The state with barge channel `n` changed. -/
def modChan (s : State) (n : Nat) (f : Channel → Channel) : State := { s with brg := tUpd s.brg n {} f }

/-- General bank `n`. -/
def bankOf (s : State) (n : Nat) : Bank := tGet s.bank n {}
/-- The state with general bank `n` changed. -/
def modBank (s : State) (n : Nat) (f : Bank → Bank) : State := { s with bank := tUpd s.bank n {} f }

/-- The mailbox of a door: 0 to 31 the partition pages, 32 the safety port. -/
def mbxOf (s : State) (d : Nat) : Mailbox := tGet s.mbx d {}
/-- The state with the mailbox of a door changed. -/
def modMbx (s : State) (d : Nat) (f : Mailbox → Mailbox) : State := { s with mbx := tUpd s.mbx d {} f }

/-- The number of a door. -/
def doorNo : Door → Nat
  | .page p => p.val
  | .ssp => 32

/-- Endpoint entry `e`. -/
def epOf (s : State) (e : Nat) : Endpoint := tGet s.ep.dir e {}
/-- The state with endpoint entry `e` changed. -/
def modEp (s : State) (e : Nat) (f : Endpoint → Endpoint) : State :=
  { s with ep := { s.ep with dir := tUpd s.ep.dir e {} f } }

/-- The number under which the transmit path of backbone port `n` is kept beside the queues (R415). -/
def pathNo (n : Nat) : Nat := 8192 + n

/-- An empty transmit path: 8,192 cells deep, and no partition's (R415). -/
def emptyPath : Queue := { owner := 32, depth := 8192 }

/-- The queue `q`, where it exists; the transmit paths of the links always do. -/
def queueOf (s : State) (q : Nat) : Option Queue :=
  if 8192 ≤ q then some (tGet s.deck.queues q emptyPath) else tFind s.deck.queues q
/-- The state with an existing queue changed. -/
def modQueue (s : State) (q : Nat) (f : Queue → Queue) : State :=
  match queueOf s q with
  | none => s
  | some x => { s with deck := { s.deck with queues := tPut s.deck.queues q (f x) } }

/-- The voyage of context `v`, where the context is occupied. -/
def voyOf (s : State) (v : Nat) : Option Voyage := tFind s.sch.voy v
/-- The state with an existing voyage changed. -/
def modVoy (s : State) (v : Nat) (f : Voyage → Voyage) : State :=
  match tFind s.sch.voy v with
  | none => s
  | some x => { s with sch := { s.sch with voy := tPut s.sch.voy v (f x) } }

/-- Submission ring `n` of partition `p`, where it exists. -/
def sqOf (s : State) (p n : Nat) : Option SubRing := tFind s.sq (8 * p + n)
/-- The state with an existing submission ring changed. -/
def modSq (s : State) (p n : Nat) (f : SubRing → SubRing) : State :=
  match tFind s.sq (8 * p + n) with
  | none => s
  | some x => { s with sq := tPut s.sq (8 * p + n) (f x) }

/-- Completion ring `m` of partition `p`, where it exists. -/
def cqOf (s : State) (p m : Nat) : Option CompRing := tFind s.cq (8 * p + m)
/-- The state with an existing completion ring changed. -/
def modCq (s : State) (p m : Nat) (f : CompRing → CompRing) : State :=
  match tFind s.cq (8 * p + m) with
  | none => s
  | some x => { s with cq := tPut s.cq (8 * p + m) (f x) }

/-- Backbone port `n`. -/
def bbOf (s : State) (n : Nat) : Backbone := tGet s.bb n {}
/-- The state with backbone port `n` changed. -/
def modBb (s : State) (n : Nat) (f : Backbone → Backbone) : State := { s with bb := tUpd s.bb n {} f }

/-- The crossing-protocol state of link `n`. -/
def linkOf (s : State) (n : Nat) : Link := tGet s.ep.links n {}
/-- The state with link `n` changed. -/
def modLink (s : State) (n : Nat) (f : Link → Link) : State :=
  { s with ep := { s.ep with links := tUpd s.ep.links n {} f } }

/-- The endpoint unit's counter `k` incremented (R431). -/
def bumpEp (s : State) (k : Nat) : State := { s with ep := { s.ep with cnt := bump s.ep.cnt k } }

/-- The partition's counter `k` incremented (R237). -/
def bumpPart (s : State) (p k : Nat) : State := modPart s p fun x => { x with cnt := bump x.cnt k }

/-- A free value: the next one of a sequence about which nothing is known. -/
def freeOf (s : State) : Word := Config.freeWord s.freeCtr
/-- The state once a free value has been drawn. -/
def drawn (s : State) : State := { s with freeCtr := s.freeCtr + 1 }

/-- `n` free bytes. -/
def freeBytes (s : State) (n : Nat) : List Byte :=
  (List.range n).map fun i => (Config.freeWord (s.freeCtr + i)).setWidth 8
/-- The state once `n` free values have been drawn. -/
def drawnBy (s : State) (n : Nat) : State := { s with freeCtr := s.freeCtr + n }

/-- The device is in RUN and its clocked blocks act (R510). -/
def isRun (s : State) : Bool := s.pwr.phase == .run

/-- A meaning that acts only in RUN; outside it the happening cannot occur and nothing changes. -/
def whenRun (s : State) (t : State) : State := if isRun s then t else s

/-- A pulse fault sets its bit of `PWR_FAULT` (R524, R531): 0 `RETIRE`, 1 `PORTFAIL`, 2 `CUTOFF`, 3 `PLL`, 4 `FMSTR`. -/
def setFault (s : State) (k : Nat) : State := { s with pwr := { s.pwr with sticky := s.pwr.sticky ||| (1#5 <<< k) } }

/-- Whether power domain `d` is on (R508). -/
def domainOn (s : State) (d : Nat) : Bool := s.pwr.domains.getLsbD d

end Sys2Proof.Machine
end

