-- ==== Sys2Proof/Machine/IcuOps.lean ====
section
/-!
DEFINITION. The interrupt controller's shared operations: which sources are pending, in service and eligible at which target, raising a source, and the messages that newly eligible sources send (16_events_and_interrupts.md R454 to R466).
-/
namespace Sys2Proof.Machine

/-- Attributes of source `n` (R455, R470). -/
def srcOf (s : State) (n : Nat) : SrcAttr := tGet s.icu.attr n (resetSrc n)

/-- The state with the interrupt controller changed. -/
def modIcu (s : State) (f : Icu → Icu) : State := { s with icu := f s.icu }

/-- Target `t` of T0 to T31. -/
def targetOf (s : State) (t : Nat) : Target := tGet s.icu.target t {}
/-- The state with target `t` changed. -/
def modTarget (s : State) (t : Nat) (f : Target → Target) : State :=
  modIcu s fun i => { i with target := tUpd i.target t {} f }

/-- Sources with a level trigger (R454). -/
def isLevel (n : Nat) : Bool :=
  (96 ≤ n && n < 192) || n == 660 || (662 ≤ n && n ≤ 674) || n == 704 || n == 705

/-- The device sources that are not reserved (R454). -/
def isDeviceSource (n : Nat) : Bool :=
  (576 ≤ n && n < 615) || (640 ≤ n && n < 675) || (704 ≤ n && n < 712)

/-- The rail of sources 662 to 666 (R454). -/
def railOf (n : Nat) : Rail :=
  match n with
  | 662 => .core
  | 663 => .aon
  | 664 => .sram
  | 665 => .sds
  | _ => .v18

/-- Unexported logbook records (R501). -/
def unexported (s : State) : Nat := s.log.next - s.log.mark

/-- The logbook is full (R502). -/
def logFull (s : State) : Bool := 3840 ≤ unexported s

/-- The bus controller of a port runs in one of its modes (R393). -/
def busOn (q : Port) : Bool := 1 ≤ fieldOf q.bc.cfg 0 3 && fieldOf q.bc.cfg 0 3 ≤ 4

/-- The condition of a level source (R454). -/
def levelCond (s : State) (n : Nat) : Bool :=
  if 96 ≤ n ∧ n < 192 then
    let q := portOf s (n - 96)
    q.owner.isSome && busOn q && (q.bc.errState == 1 || q.bc.errState == 2)
  else if n = 660 then s.pwr.hold
  else if 662 ≤ n ∧ n ≤ 666 then s.pwr.railsWarn.contains (railOf n)
  else if 667 ≤ n ∧ n ≤ 670 then s.pwr.warnOn.getLsbD (n - 667)
  else if 671 ≤ n ∧ n ≤ 674 then s.pwr.critOn.getLsbD (n - 671)
  else if n = 704 then 3072 ≤ unexported s
  else n = 705 && logFull s

/-- The level sources that can have a condition now. -/
def levelSources (s : State) : List Nat :=
  (s.port.map fun p => 96 + p.1) ++ (660 :: (List.range 13).map (662 + ·)) ++ [704, 705]

/-- The partition target to which a source goes (R454): its owner's; T0 for a device source routed there. -/
def ownTarget (s : State) (n : Nat) : Option Nat :=
  if n < 96 then (portOf s n).owner
  else if n < 192 then (portOf s (n - 96)).owner
  else if n < 256 then none
  else if n < 512 then some ((n - 256) / 8)
  else if n < 544 then some (n - 512)
  else if n < 576 then some (n - 544)
  else if isDeviceSource n && (srcOf s n).tgt.getLsbD 0 then some 0
  else none

/-- The partition target at which a source is in service: that of its claim, which stays when the source is routed elsewhere (R459, R470) or its port loses its commission (R225). -/
def servTarget (s : State) (n : Nat) : Option Nat :=
  if isDeviceSource n then some 0
  else if n < 192 then (portOf s (n % 96)).owner.orElse fun _ => (portOf s (n % 96)).lastOwner
  else ownTarget s n

/-- A device source routed to T33 (R455). -/
def toT33 (s : State) (n : Nat) : Bool := isDeviceSource n && (srcOf s n).tgt.getLsbD 1

/-- In service at its own target (R457). -/
def inService (s : State) (n : Nat) : Bool := s.icu.serv.contains n

/-- Pending at its own target (R456). -/
def pendingOwn (s : State) (n : Nat) : Bool :=
  if isLevel n then levelCond s n && !inService s n else s.icu.pend.contains n

/-- The sources in service at target `t`. -/
def servAt (s : State) (t : Nat) : List Nat := s.icu.serv.filter fun n => servTarget s n == some t

/-- The running level RL of target `t` (R457). -/
def runLevel (s : State) (t : Nat) : Nat := (servAt s t).foldl (fun m n => max m (srcOf s n).prio.toNat) 0

/-- The hold-off of a source's group is running (R461). -/
def heldOff (s : State) (n : Nat) : Bool := (tGet s.icu.group (srcOf s n).group.toNat {}).running

/-- Eligibility at a partition target (R458), `held` telling which sources a hold-off holds. -/
def eligibleBut (s : State) (held : Nat → Bool) (n t : Nat) : Bool :=
  let g := targetOf s t
  let prio := (srcOf s n).prio.toNat
  ownTarget s n == some t && pendingOwn s n && !inService s n && prio != 0 && !s.icu.gdis && !g.dis && !held n &&
    (if g.priority then g.thresh.toNat < prio && runLevel s t < prio else (servAt s t).isEmpty)

/-- Eligibility at a partition target (R458). -/
def eligible (s : State) (n t : Nat) : Bool := eligibleBut s (heldOff s) n t

/-- Every source that may be pending at a partition target. -/
def pendCandidates (s : State) : List Nat := s.icu.pend ++ (levelSources s).filter (levelCond s)

/-- The eligible sources with their targets. -/
def eligList (s : State) : List (Nat × Nat) :=
  (pendCandidates s).filterMap fun n =>
    match ownTarget s n with
    | some t => if eligible s n t then some (n, t) else none
    | none => none

/-- Eligibility at T33 (R465). -/
def eligible33 (s : State) (n : Nat) : Bool :=
  toT33 s n && (if isLevel n then levelCond s n else s.icu.pend33.contains n) &&
    (srcOf s n).prio != 0 && !s.icu.gdis && !s.icu.t33dis && !heldOff s n

/-- Some source is eligible at T33. -/
def anyElig33 (s : State) : Bool := (s.icu.pend33 ++ levelSources s).any (eligible33 s)

/-- Some source is eligible at T32, the ferrymaster's: it sees the sources that firmware selects, on its own copy of their state, and `GDIS` does not stop it (R456, R462). -/
def anyElig32 (s : State) : Bool :=
  (s.icu.pend32 ++ (levelSources s).filter (levelCond s)).any fun n =>
    Config.t32Sees s.freeCtr n && (srcOf s n).prio != 0 && !heldOff s n

/-- Some source is eligible at target `t`. -/
def anyElig (s : State) (t : Nat) : Bool := (pendCandidates s).any (eligible s · t)

/-- Pin HATTNk is driven low (R464). -/
def hattnLow (s : State) (k : Nat) : Bool :=
  let w := tGet s.icu.hattn k 0
  let t := fieldOf w 0 6
  w.getLsbD 31 && (if t < 32 then anyElig s t else if t = 32 then anyElig32 s else t == 33 && anyElig33 s)

/-- An entry of a function's MSI-X table. -/
def msixOf (s : State) (t v : Nat) : MsixEntry := tGet (targetOf s t).msix v {}

/-- The message of vector `v` of function `t`. -/
def msiOf (s : State) (t v : Nat) : MsiMessage :=
  let e := msixOf s t v
  ⟨t, v, e.addrHi ++ e.addrLo, e.data⟩

/-- Vector `v` of function `t` has become due (R463): a message, a pending bit, or nothing; a partition under reset sends none (R232). -/
def sendVector (s : State) (t v : Nat) : State :=
  let g := targetOf s t
  if !g.msixEnable || !(partOf s t).busMaster || (partOf s t).reset.isSome then s
  else if g.functionMask || (msixOf s t v).ctl.getLsbD 0 then
    modTarget s t fun x => { x with pba := insertNat x.pba v }
  else { s with out := { s.out with msi := s.out.msi ++ [msiOf s t v] } }

/-- The vectors, as `64 * target + vector`, of the sources eligible in `t` and not in `s`, each once, in order. -/
def newVectors (s t : State) : List Nat :=
  ((eligList t).filter fun e => !(eligList s).contains e).foldl
    (fun l e => insertNat l (64 * e.2 + (srcOf t e.1).vec.toNat)) []

/-- The state `t` reached from `s` in one cycle, with the messages of the sources that have become eligible (R463). -/
def settle (s t : State) : State :=
  (newVectors s t).foldl (fun u k => sendVector u (k / 64) (k % 64)) t

/-- A pulse source is raised (R454, R456): it is pending at each target it goes to. -/
def raise (s : State) (n : Nat) : State :=
  let s := if (ownTarget s n).isSome then modIcu s fun i => { i with pend := insertNat i.pend n } else s
  let s := modIcu s fun i => { i with pend32 := insertNat i.pend32 n }
  if toT33 s n then modIcu s fun i => { i with pend33 := insertNat i.pend33 n } else s

/-- A source loses its pending and in-service state, and its `PRIO` and `VEC` return to their reset values (R225, R232, R467). -/
def clearSource (s : State) (n : Nat) : State :=
  let a := { srcOf s n with prio := (resetSrc n).prio, vec := (resetSrc n).vec }
  modIcu s fun i => { i with pend := i.pend.filter (· != n), serv := i.serv.filter (· != n), attr := tPut i.attr n a }

/-- A claim at another target since the last CLK_TB edge has loaded the group's timer: whether it was in this claim's CLK_FAB cycle is free (R466). -/
def sameCycle (s : State) (t n : Nat) : Bool :=
  (tGet s.icu.group (srcOf s n).group.toNat {}).claimed.any (· != t) && (freeOf s).getLsbD 0

/-- Some timer has been loaded by a claim at another target since the last CLK_TB edge. -/
def claimsMeet (s : State) (t : Nat) : Bool := s.icu.group.any fun x => x.2.claimed.any (· != t)

/-- The source that a claim at `t` takes (R458): the highest `PRIO`, lowest number first; in fallback mode the lowest number. -/
def claimChoice (s : State) (t : Nat) : Option Nat :=
  let prioMode := (targetOf s t).priority
  ((pendCandidates s).filter (eligibleBut s (fun n => heldOff s n && !sameCycle s t n) · t)).foldl
    (fun best n =>
      match best with
      | none => some n
      | some b =>
        let pn := (srcOf s n).prio.toNat
        let pb := (srcOf s b).prio.toNat
        if prioMode ∧ pn ≠ pb then (if pb < pn then some n else some b)
        else if n < b then some n else some b)
    none

/-- The hold-off timer of group `g` is loaded by a claim at target `t` (R461): once in a cycle (R466). -/
def loadHold (s : State) (g t : Nat) : State :=
  modIcu s fun i => { i with group := tUpd i.group g {} fun x =>
    if x.holdoff = 0 || x.running then x else { x with running := true, left := 100 * x.holdoff.toNat, claimed := some t } }

/-- The word that a claim returns (R469). -/
def claimWord (s : State) (n : Nat) : Word :=
  BitVec.ofNat 32 (n + (srcOf s n).prio.toNat * 2 ^ 16 + 2 ^ 31)

end Sys2Proof.Machine
end

