-- ==== Sys2Proof/Machine/DeckOps.lean ====
section
/-!
DEFINITION. Deck memory: cells and their banks, quotas, packets under production, what is visible, claims, marks and releases (08_deck_memory.md).
-/
namespace Sys2Proof.Machine

/-- The state with the deck changed. -/
def modDeck (s : State) (f : Deck → Deck) : State := { s with deck := f s.deck }

/-! ## Cells (R238, R239) -/

/-- The first row, from `n` on, that a rising list of rows does not name. -/
def firstGap : Nat → List Nat → Nat
  | n, [] => n
  | n, k :: l => if n < k then n else firstGap (n + 1) l

/-- The rows of a deck bank that lie below the flat area. -/
def bankRows (s : State) : Nat := 8192 - 2 * s.deck.flatPages

/-- The rows of bank `b` that are taken or quarantined, rising. -/
def bankBusy (s : State) (b : Nat) : List Nat :=
  s.deck.quar.foldl (fun l c => if c % 32 = b then insertNat l (c / 32) else l) (tGet s.deck.taken b [])

/-- The bank's power domain is on (R508). -/
def bankOn (s : State) (b : Nat) : Bool := domainOn s (40 + b / 4)

/-- The lowest free cell of a bank (assumption 20). -/
def freeCellOf (s : State) (b : Nat) : Option Nat :=
  let r := firstGap 0 (bankBusy s b)
  if bankOn s b && r < bankRows s then some (32 * r + b) else none

/-- Cells on the free lists (R263). -/
def freeCells (s : State) : Nat :=
  (List.range 32).foldl
    (fun n b => if bankOn s b then n + (bankRows s - ((bankBusy s b).filter (· < bankRows s)).length) else n) 0

/-- The bank of an agent's previous cell. -/
def lastBank (s : State) (a : Agent) : Option Nat :=
  (s.deck.rotation.find? fun x => x.1 == a).map Prod.snd

/-- The cell an agent takes next: from the first bank after that of its previous cell whose free list is not empty (R239). -/
def nextCell (s : State) (a : Agent) : Option Nat :=
  let start := match lastBank s a with
    | none => 0
    | some b => b + 1
  (List.range 32).findSome? fun i => freeCellOf s ((start + i) % 32)

/-- A cell leaves its free list. -/
def takeCell (s : State) (a : Agent) (c : Nat) : State :=
  modDeck s fun d =>
    { d with
      taken := tUpd d.taken (c % 32) [] fun l => insertNat l (c / 32)
      rotation := (a, c % 32) :: d.rotation.filter fun x => x.1 != a }

/-- Cells return to their free lists; a quarantined one stays out of use (R258). -/
def freeCellsOf (s : State) (l : List Nat) : State :=
  modDeck s fun d =>
    { d with taken := l.foldl (fun t c => tUpd t (c % 32) [] fun r => r.filter (· != c / 32)) d.taken }

/-- The bytes of a packet. -/
def packetBytes (m : Mem) (p : Packet) : List Byte :=
  (p.cells.flatMap fun c => memBytes m (64 * c) 64).take p.len

/-- Bytes `pos` to `pos + n - 1` of a packet. -/
def packetSlice (m : Mem) (p : Packet) (pos n : Nat) : List Byte :=
  (List.range (min n (p.len - pos))).map fun i =>
    let k := pos + i
    memRead m (64 * p.cells.getD (k / 64) 0 + k % 64)

/-! ## Quotas (R249 to R251) -/

/-- Cells a queue holds (R249). -/
def heldOf (q : Queue) : Nat :=
  let n := (q.packets.foldl (fun n p => n + p.cells.length) 0) + (q.building.foldl (fun n b => n + b.pkt.cells.length) 0)
  q.freed.foldl (fun n p => n + p.2.cells.length) n

/-- `USED` of a partition (R235, R249). -/
def usedOf (s : State) (p : Nat) : Nat :=
  (s.deck.queues.foldl (fun n x => if x.2.owner = p then n + heldOf x.2 else n) 0)
    + (if p = 0 then 64 * s.deck.flatPages else 0)

/-- The producer is a timed voyage. -/
def timedAgent (s : State) : Agent → Bool
  | .voyage v => ((voyOf s v).map (·.timed)).getD false
  | _ => false

/-- The partition whose `CELLS` a producer's cells count against: a voyage's own, else the queue's owner (R250, R415). -/
def payer (s : State) (a : Agent) (q : Queue) : Nat :=
  match a with
  | .voyage v => ((voyOf s v).map (·.part)).getD q.owner
  | _ => q.owner

/-- The first quota test that a producer fails: 1 depth, 2 partition, 3 free cells (R250, R251). -/
def quotaFail (s : State) (a : Agent) (q : Queue) : Option Nat :=
  if q.depth ≤ heldOf q then some 1
  else if (partOf s (payer s a q)).cells ≤ usedOf s (payer s a q) then some 2
  else
    let free := freeCells s
    if free = 0 ∨ (!timedAgent s a ∧ free ≤ min 262144 s.sch.admCells.toNat - s.deck.timedTaken) then some 3
    else if (nextCell s a).isNone then some 3
    else none

/-! ## Production (R245 to R248) -/

/-- An agent's packet under production in a queue. -/
def buildingOf (q : Queue) (a : Agent) : Option Building := q.building.find? fun b => b.agent == a

/-- The queue with an agent's packet under production set. -/
def setBuilding (q : Queue) (b : Building) : Queue :=
  { q with building := (q.building.filter fun x => x.agent != b.agent) ++ [b] }

/-- The queue without an agent's packet under production. -/
def dropBuilding (q : Queue) (a : Agent) : Queue := { q with building := q.building.filter fun x => x.agent != a }

/-- The agent's place among the stalled is given up. -/
def unstall (s : State) (a : Agent) : State := modDeck s fun d => { d with stalls := d.stalls.filter fun x => x.agent != a }

/-- A stall is entered and counted (R250); a producer refused its first cell has a packet under production without bytes, which its rewind counts (R248, R252). -/
def stallAgent (s : State) (a : Agent) (qn reason : Nat) : State :=
  match queueOf s qn with
  | none => s
  | some q =>
    let s := modQueue s qn fun q =>
      let q := if (buildingOf q a).isSome then q else setBuilding q { agent := a }
      { q with cnt := bump q.cnt 4 }
    let s := modDeck s fun d => { d with stalls := (d.stalls.filter fun x => x.agent != a) ++ [{ agent := a, queue := qn, reason := reason }] }
    if reason = 1 then s else bumpPart s (payer s a q) 6

/-- The state with a bit of a partition's `PART_EVENT` set, the partition event raised at the change from 0 to 1 (R236). -/
def partEvent (s : State) (p bit : Nat) : State :=
  if (partOf s p).event.getLsbD bit then s
  else raise (modPart s p fun x => { x with event := x.event ||| (1 <<< bit) }) (544 + p)

/-- A producer is refused a cell and stalls; a stall on the partition reason sets `QUOTA` (R250). -/
def stallProducer (s : State) (a : Agent) (qn reason : Nat) : State :=
  match queueOf s qn with
  | none => s
  | some q =>
    let s := stallAgent s a qn reason
    if reason = 1 then s else partEvent s (payer s a q) 5

/-- An agent takes a cell for its packet under production in a queue (R239, R251). -/
def grantCell (s : State) (a : Agent) (qn c : Nat) : State :=
  let s := takeCell s a c
  let s := if timedAgent s a then modDeck s fun d => { d with timedTaken := d.timedTaken + 1 } else s
  modQueue s qn fun q =>
    let b := (buildingOf q a).getD { agent := a }
    setBuilding q { b with pkt := { b.pkt with cells := b.pkt.cells ++ [c] } }

/-- The cell that a producer takes now, if every test passes. -/
def cellFor (s : State) (a : Agent) (qn : Nat) : Option Nat :=
  match queueOf s qn with
  | some q => if (quotaFail s a q).isNone then nextCell s a else none
  | none => none

/-- A stalled producer takes its cell once every test passes (R250). -/
def serveStall (s : State) (x : Stall) : State :=
  match (if x.granted then none else cellFor s x.agent x.queue) with
  | some c =>
    modDeck (grantCell s x.agent x.queue c) fun d =>
      { d with stalls := d.stalls.map fun y => if y.agent == x.agent then { y with granted := true } else y }
  | none => s

/-- The stalled producers that pass every test take their cells, in the order in which they stalled (R250). -/
def serveStalls (s : State) : State := s.deck.stalls.foldl serveStall s

/-- The outcome of appending bytes: how many were appended, and the test that refused the next cell. -/
structure Append where
  state : State
  done : Nat
  refused : Option Nat

/-- One cell for an agent's packet under production, if every test passes once the producers that stalled before it have been served (R250). -/
def growPacket (s : State) (a : Agent) (qn : Nat) : Append :=
  let s := serveStalls s
  match cellFor s a qn with
  | some c => ⟨grantCell s a qn c, 1, none⟩
  | none => ⟨s, 0, some (((queueOf s qn).bind (quotaFail s a)).getD 3)⟩

/-- Bytes are appended to an agent's packet under production, cell by cell, until the data ends or a cell is refused (R245, R250). -/
def appendBytes (s : State) (a : Agent) (qn : Nat) : List Byte → Append
  | [] => ⟨s, 0, none⟩
  | b :: l =>
    let pkt := ((queueOf s qn).bind fun q => (buildingOf q a).map Building.pkt).getD ⟨[], 0⟩
    let put (s : State) (p : Packet) : State :=
      let c := p.cells.getD (p.len / 64) 0
      let s := modDeck s fun d => { d with mem := memWrite d.mem (64 * c + p.len % 64) b }
      modQueue s qn fun q => setBuilding q { ((buildingOf q a).getD { agent := a }) with pkt := { p with len := p.len + 1 } }
    if pkt.len < 64 * pkt.cells.length then
      let r := appendBytes (put s pkt) a qn l
      ⟨r.state, r.done + 1, r.refused⟩
    else
      let g := growPacket s a qn
      match g.refused with
      | some r => ⟨g.state, 0, some r⟩
      | none =>
        let pkt := ((queueOf g.state qn).bind fun q => (buildingOf q a).map Building.pkt).getD ⟨[], 0⟩
        let r := appendBytes (put g.state pkt) a qn l
        ⟨r.state, r.done + 1, r.refused⟩

/-- An agent's packet under production is rewound (R248). -/
def rewindPacket (s : State) (a : Agent) (qn : Nat) : State :=
  match (queueOf s qn).bind fun q => buildingOf q a with
  | none => unstall s a
  | some b =>
    if b.rewound then modQueue (unstall s a) qn fun q => dropBuilding q a
    else
      let s := freeCellsOf (unstall s a) b.pkt.cells
      modQueue s qn fun q => { dropBuilding q a with cnt := bump q.cnt 3 }

/-- Every packet under production by an agent is rewound. -/
def rewindAll (s : State) (a : Agent) : State :=
  (s.deck.queues.filter fun x => (buildingOf x.2 a).isSome).foldl (fun s x => rewindPacket s a x.1) (unstall s a)

/-! ## Visible packets and consuming (R254 to R257) -/

/-- The number of the packet after the tail. -/
def tailOf (q : Queue) : Nat := q.first + q.packets.length

/-- Packets visible up to bound `b` (a packet number, exclusive). -/
def visibleTo (q : Queue) (b : Nat) : Nat := min b (tailOf q) - q.readAt

/-- Visible packets (R254). -/
def visible (q : Queue) : Nat := tailOf q - q.readAt

/-- The landing bound of class `c` (R256): the packet number after the last packet within it. -/
def boundOf (q : Queue) (c : Nat) : Nat := tGet q.bounds c 0

/-- Packet number `n` of a queue. -/
def packetAt (q : Queue) (n : Nat) : Option Packet := if n < q.first then none else q.packets[n - q.first]?

/-- The bytes visible up to bound `b`. -/
def visibleBytesTo (q : Queue) (b : Nat) : Nat :=
  ((q.packets.drop (q.readAt - q.first)).take (visibleTo q b)).foldl (fun n p => n + p.len) 0

/-- A packet is linked after the tail and counted (R246, R262). -/
def linkPacket (q : Queue) (p : Packet) : Queue :=
  { q with packets := q.packets ++ [p], cnt := bumpBy (bump q.cnt 0) 1 p.len }

/-- A claim by an agent (R254): the read point moves past the packet. -/
def claimPacket (q : Queue) (a : Agent) : Queue :=
  { q with readAt := q.readAt + 1, reading := q.reading ++ [(a, q.readAt)],
           waiting := q.waiting.filter (· != a), woken := q.woken.filter (· != a), cnt := bump q.cnt 2 }

/-- No agent reads packet `n` any longer. -/
def unread (q : Queue) (n : Nat) : Bool := !(q.reading.any fun x => x.2 == n)

/-- A claimed read of packet `n` by an agent ends; the cells of a packet released meanwhile are freed (R257). -/
def endRead (s : State) (qn : Nat) (a : Agent) (n : Nat) : State :=
  match queueOf s qn with
  | none => s
  | some q =>
    let q' := { q with reading := q.reading.filter (· != (a, n)) }
    if unread q' n then
      let gone := q'.freed.filter fun x => x.1 == n
      let s := modQueue s qn fun _ => { q' with freed := q'.freed.filter fun x => x.1 != n }
      gone.foldl (fun s x => freeCellsOf s x.2.cells) s
    else modQueue s qn fun _ => q'

/-- MARK (R257). -/
def queueMark (s : State) (qn : Nat) : State := modQueue s qn fun q => { q with mark := q.readAt }

/-- REWIND (R257). -/
def queueRewind (s : State) (qn : Nat) : State := modQueue s qn fun q => { q with readAt := q.mark }

/-- RELEASE (R257). -/
def queueRelease (s : State) (qn : Nat) : State :=
  match queueOf s qn with
  | none => s
  | some q =>
    let k := q.readAt - q.first
    let out := (q.packets.take k).zipIdx.map fun x => (q.first + x.2, x.1)
    let done := out.filter fun x => unread q x.1
    let busy := out.filter fun x => !unread q x.1
    let s := modQueue s qn fun q =>
      { q with packets := q.packets.drop k, first := q.first + k, freed := q.freed ++ busy,
               mark := if q.mark < q.first + k then q.readAt else q.mark }
    done.foldl (fun s x => freeCellsOf s x.2.cells) s

/-- An agent waits on a queue, in the order in which it began to wait; one that has been woken in vain keeps its place (R255). -/
def waitOn (s : State) (qn : Nat) (a : Agent) : State :=
  modQueue s qn fun q =>
    if q.waiting.contains a then { q with woken := q.woken.filter (· != a) } else { q with waiting := q.waiting ++ [a] }

/-- An agent waits on no queue any longer. -/
def stopWaiting (s : State) (a : Agent) : State :=
  modDeck s fun d => { d with queues := d.queues.map fun x =>
    (x.1, { x.2 with waiting := x.2.waiting.filter (· != a), woken := x.2.woken.filter (· != a) }) }

/-! ## Errors in cells (R258, R259) -/

/-- The cell is quarantined and reported (R258); its logbook record is due. -/
def quarantineCell (s : State) (c : Nat) (qn : Option Nat) : State :=
  let s := modDeck s fun d =>
    { d with quar := insertNat d.quar c, quarantined := d.quarantined + 1,
             eccCell := BitVec.ofNat 18 c, eccValid := true }
  let s := match qn with
    | some q => modQueue s q fun q => { q with cnt := bump q.cnt 5 }
    | none => s
  let s := raise s 657
  { s with log := { s.log with due := s.log.due ++ [{ kind := 0x08, object := c }] } }

/-- Correctable errors in the words that a read meets are corrected and counted, one for each word (R240). -/
def correctWords (s : State) (met : Nat → Bool) : State :=
  modDeck s fun d =>
    { d with soft := d.soft.filter fun k => !met k
             corrected := BitVec.ofNat 16 (min 0xFFFF (d.corrected.toNat + (d.soft.filter met).length)) }

/-- Correctable errors in the words of a cell are corrected and counted. -/
def correctCell (s : State) (c : Nat) : State := correctWords s fun k => k / 8 == c

end Sys2Proof.Machine
end

