-- ==== Sys2Proof/Machine/TimeOps.lean ====
section
/-!
DEFINITION. The crossing schedule: the next landing and its cut-off, the step that moves a landing, and the landing against which a happening is classed (02_crossings_and_landings.md R30 to R42, R585).
-/
namespace Sys2Proof.Machine

/-- The state with the timebase changed. -/
def modTb (s : State) (f : Timebase → Timebase) : State := { s with tb := f s.tb }

/-- The first number from `n` on that `m` divides (R30). -/
def classUp (m n : Nat) : Nat := if m = 0 then n else (n + m - 1) / m * m

/-- The multiplier of class `c` (R30). -/
def classMul (m1 m2 m3 c : Nat) : Nat :=
  match c with
  | 0 => 1
  | 1 => m1
  | 2 => m2
  | _ => m3

/-- The multiplier of class `c` in the running schedule. -/
def mulOf (s : State) (c : Nat) : Nat := classMul s.tb.m1 s.tb.m2 s.tb.m3 c

/-- Class `c` lands at LSN `n` of the running schedule (R30). -/
def lands (s : State) (c n : Nat) : Bool := n % mulOf s c == 0

/-- The step by which P moves a landing: P within ±T0 / 64, rounded toward zero to a multiple of 10 ns (R42). -/
def stepFor (s : State) (p : Int) : Int :=
  let lim : Int := (s.tb.t0 * 1000 / 64 : Nat)
  let c := if lim < p then lim else if p < -lim then -lim else p
  (c.tdiv 10) * 10

/-- The step of the next landing: fixed at its cut-off, else the one that P gives now (R42). -/
def nextStep (s : State) : Int := s.tb.step.getD (stepFor s s.tb.p)

/-- The LSN of the next landing of the running schedule: 0 where LSN 0 has not been performed. -/
def nextLsn (s : State) : Nat := if s.tb.landed then s.tb.lsn + 1 else s.tb.lsn

/-- The nominal time of the next landing (R585). -/
def nextNominal (s : State) : Nat :=
  if s.tb.landed then (((s.tb.nominal + s.tb.t0 * 1000 : Nat) : Int) + nextStep s).toNat else s.tb.nominal

/-- The cut-off value C of LSN `n`, in µs (R33): the last pending change that applies by then. -/
def cutFor (s : State) (n : Nat) : Nat := (s.tb.nextCut.filter fun x => x.1 ≤ n).foldl (fun _ x => x.2) s.tb.c

/-- The nominal time of the next landing's cut-off (R585). -/
def nextCutTime (s : State) : Nat := nextNominal s - cutFor s (nextLsn s) * 1000

/-- The nominal time of the cut-off of a pending start landing (R32). -/
def startCutTime (st : Start) : Nat := st.s - st.c * 1000

/-- The LSN of the earliest landing of the running schedule whose cut-off has not been reached (R38). -/
def openLsn (s : State) : Nat :=
  match s.tb.closed with
  | some n => n + 1
  | none => s.tb.lsn + 1

/-- P as the next landing leaves it: reduced by the landing's own step, or replaced by the error of the edge that is held for it (R42). -/
def nextP (s : State) : Int :=
  match s.tb.heldEdge with
  | some e => (e : Int) - nextNominal s
  | none => s.tb.p - (if s.tb.landed then nextStep s else 0)

/-- The nominal time of the landing `k` after the next, and P after it, as far as the edges accepted up to now move them (R42, R585; log 119). -/
def landingAhead (s : State) : Nat → Nat × Int
  | 0 => (nextNominal s, nextP s)
  | k + 1 =>
    let x := landingAhead s k
    let c := stepFor s x.2
    (((x.1 + s.tb.t0 * 1000 : Nat) + c).toNat, x.2 - c)

/-- The nominal time of landing `n` of the running schedule. -/
def landingTime (s : State) (n : Nat) : Nat := (landingAhead s (n - nextLsn s)).1

/-- The nominal time of the earliest landing whose cut-off has not been reached. -/
def openNominal (s : State) : Nat := landingTime s (openLsn s)

/-- Added to the LSNs of a schedule that has not yet started (R32). -/
def nextSchedule : Nat := 2 ^ 64

/-- The earliest landing, of the running or of the pending schedule, whose cut-off has not been reached (R32, R38). -/
def openAny (s : State) : Nat :=
  match s.tb.start with
  | some st => if openNominal s < st.s then openLsn s else if st.cut then nextSchedule + 1 else nextSchedule
  | none => openLsn s

/-- A landing of the running schedule that a pending start landing forestalls (R32). -/
def forestalled (s : State) (n : Nat) : Bool :=
  decide (nextLsn s ≤ n) && s.tb.start.any fun st => decide (st.s ≤ landingTime s n)

/-- The first landing of class `c` at or after landing `n`: the start landing, of all four classes, where it comes first. -/
def classLanding (s : State) (c n : Nat) : Nat :=
  if nextSchedule ≤ n then
    match s.tb.start with
    | some st => nextSchedule + classUp (classMul st.m1 st.m2 st.m3 c) (n - nextSchedule)
    | none => n
  else
    let m := classUp (mulOf s c) n
    if forestalled s m then nextSchedule else m

/-- The landing of class `c` against which a happening that takes effect now is classed (R32, R38). -/
def dueLsn (s : State) (c : Nat) : Nat := classLanding s c (openAny s)

end Sys2Proof.Machine
end

