-- ==== Sys2Proof/Machine/VoyOps.lean ====
section
/-!
DEFINITION. Voyages: ownership, Ready order and slots, parking and waking, event pulses, posting records, and going on to the next entry (03_manifests.md R73 to R112, 04_voyages_and_ferry_engines.md, 05_rings.md R167 to R170, 16_events_and_interrupts.md R451 to R453).
-/
namespace Sys2Proof.Machine

/-- The state with the scheduler changed. -/
def modSch (s : State) (f : Sched → Sched) : State := { s with sch := f s.sch }

/-! ## Ownership (R116, R226, R451) -/

/-- The partition owns event `e` now (R451). -/
def ownsEvent (s : State) (p e : Nat) : Bool :=
  if e < 384 then (portOf s (e / 4)).owner == some p
  else if e < 448 then (chanOf s ((e - 384) % 32)).owner == some p
  else if e < 452 then true
  else if e < 512 then false
  else (partOf s p).evtBase ≤ e && e < (partOf s p).evtBase + (partOf s p).evtCount

/-- The partition owns an assignable event (R88). -/
def ownsAssignable (s : State) (p e : Nat) : Bool := 512 ≤ e && e < 1024 && ownsEvent s p e

/-- A stale delivery to a partition is discarded and counted (R226). -/
def countStale (s : State) (p : Nat) : State := partEvent (bumpPart s p 0) p 3

/-! ## Slots and Ready (R113, R131 to R134) -/

/-- A field of a voyage's header: word `k`. -/
def hdrWord (v : Voyage) (k : Nat) : Word := v.hdr.getD k 0

/-- `VEVENT` (R63). -/
def vevent (v : Voyage) : Nat := fieldOf (hdrWord v 1) 16 10
/-- `MAX_ENTRIES` (R63). -/
def maxEntries (v : Voyage) : Nat := fieldOf (hdrWord v 5) 0 16
/-- `PIN_PAGES` (R63). -/
def pinPages (v : Voyage) : Nat := fieldOf (hdrWord v 5) 16 9
/-- `ENTRY_COUNT` (R63). -/
def entryCount (v : Voyage) : Nat := fieldOf (hdrWord v 6) 0 16

/-- Slots in service (R113, R142, R508): four per engine in service and powered. -/
def slotList (s : State) : List Nat :=
  (List.range 64).filter fun k => s.sch.inService.getLsbD (k / 4) && domainOn s (48 + k / 16)

/-- The issue gates of ferry-engine threads are open (R447, R527). -/
def gatesOpen (s : State) : Bool := isRun s && !s.pwr.quiesce && !s.pwr.thermal

/-- No engine is in service: no voyage runs, and voyages stay in their states (R146). -/
def noEngine (s : State) : Bool := s.sch.inService == 0

/-- A voyage enters Ready, behind those that entered before (R133). -/
def enterReady (s : State) (v : Nat) : State :=
  let k := s.sch.tick
  modSch (modVoy s v fun x => { x with state := .ready, park := .no, since := k }) fun c => { c with tick := k + 1 }

/-- A voyage gives up its slot. -/
def releaseSlot (s : State) (v : Nat) : State :=
  modVoy (modSch s fun c => { c with slots := c.slots.filter fun x => x.2 != v }) v fun x => { x with slot := none }

/-- The order of R131: crossing class, partition priority, voyage ID. -/
def timedKey (s : State) (v : Nat) (x : Voyage) : Nat := x.xclass * 2 ^ 20 + (partOf s x.part).prio.toNat * 2 ^ 12 + v

/-- The entry of a list with the least key. -/
def leastBy {α : Type} (key : α → Nat) : List α → Option α
  | [] => none
  | a :: l =>
    match leastBy key l with
    | none => some a
    | some b => if key b < key a then some b else some a

/-- The first Ready timed voyage (R131). -/
def firstTimed (s : State) : Option Nat :=
  (leastBy (fun x => timedKey s x.1 x.2) (s.sch.voy.filter fun x => x.2.state == .ready && x.2.timed)).map Prod.fst

/-- The untimed voyage of a partition that has been Ready longest (R133). -/
def oldestUntimed (s : State) (p : Nat) : Option Nat :=
  (leastBy (fun x => x.2.since * 4096 + x.1)
    (s.sch.voy.filter fun x => x.2.state == .ready && !x.2.timed && x.2.part == p)).map Prod.fst

/-- The partitions in ascending number from the one after the last served (R133). -/
def rotation32 (last : Nat) : List Nat := (List.range 32).map fun i => (last + 1 + i) % 32

/-- A partition is served by its credits: it has a share and a credit left. -/
def hasCredit (s : State) (p : Nat) : Bool := decide (0 < (partOf s p).ferryShare) && decide (0 < (partOf s p).credit)

/-- A new round gives each partition credits equal to its share. -/
def newCredits (s : State) : State :=
  (List.range 32).foldl (fun s p => modPart s p fun x => { x with credit := x.ferryShare }) s

/-- Partition `p` has been served. -/
def servedBy (s : State) (p : Nat) : State := modSch s fun c => { c with lastPart := p }

/-- The untimed voyage that takes a free slot by weighted round robin, with the state in which the credit is spent (R133). -/
def wrrPick (s : State) : Option (State × Nat) :=
  let ready := (rotation32 s.sch.lastPart).filter fun p => (oldestUntimed s p).isSome
  let t := if ready.isEmpty || ready.any (hasCredit s) then s else newCredits s
  match ready.find? (hasCredit t), ready with
  | some p, _ => (oldestUntimed s p).map fun v => (servedBy (modPart t p fun x => { x with credit := x.credit - 1 }) p, v)
  | none, p :: _ => (oldestUntimed s p).map fun v => (servedBy t p, v)
  | none, [] => none

/-- A slot in service that no voyage holds: the one with the lowest number, which R135 leaves to the scheduler (log 121). -/
def freeSlot (s : State) : Option Nat := (slotList s).find? fun k => (tFind s.sch.slots k).isNone

/-! ## The manifest cache (R138 to R140) -/

/-- The partition address of entry `k` (R60). -/
def entryAddr (v : Voyage) (k : Nat) : Nat := v.header + 64 + 32 * k

/-- The page of an address. -/
def pageOf (a : Nat) : Nat := a / 4096 * 4096

/-- A cached page. -/
def cachedPage (s : State) (p a : Nat) : Option CachePage := s.sch.pages.find? fun x => x.part == p && x.addr == a

/-- A header is fetched with its page, and is whole in it (R61); a header that breaks R60 by its alignment can cross into the next page. -/
def inOnePage (x : Voyage) : Bool := decide (x.header % 4096 ≤ 4032)

/-- The header's page, if it is in the cache. -/
def headerPage (s : State) (x : Voyage) : Option CachePage :=
  if inOnePage x then cachedPage s x.part (pageOf x.header) else none

/-- A fill is requested, in the order of the misses (R138). -/
def requestFill (s : State) (p a : Nat) (v : Option Nat) : State :=
  modSch s fun c => if c.fills.contains ⟨p, a, v⟩ then c else { c with fills := c.fills ++ [⟨p, a, v⟩] }

/-- The page was executed from: it becomes the most recently executed (R140). -/
def touchPage (s : State) (p a : Nat) : State :=
  modSch s fun c =>
    { c with pages := (c.pages.filter fun x => !(x.part == p && x.addr == a)) ++
        (c.pages.filter fun x => x.part == p && x.addr == a) }

/-- The eight words of entry `k`, if its page is in the cache. -/
def entryWords (s : State) (v : Voyage) (k : Nat) : Option (List Word) :=
  let a := entryAddr v k
  (cachedPage s v.part (pageOf a)).map fun pg => (List.range 8).map fun i => memWord pg.data (a % 4096 + 4 * i)

/-- The pages a timed voyage pins (R64). -/
def pinnedPages (v : Voyage) : List Nat := (List.range (pinPages v)).map fun i => pageOf v.header + 4096 * i

/-- The window number of a page whose window has been changed or removed while it was pinned (R140). -/
def goneWindow : Nat := 64

/-- Pages pinned for a voyage are released (R139); one whose window has meanwhile gone becomes invalid (R140). -/
def unpin (s : State) (v : Nat) : State :=
  modSch s fun c =>
    { c with pages := (c.pages.map fun x => { x with pins := x.pins.filter (· != v) }).filter fun x =>
        !(x.pins.isEmpty && x.window == goneWindow) }

/-- A voyage parks, giving up its slot (R136). -/
def parkVoy (s : State) (v : Nat) (why : Park) (stage : Stage) : State :=
  releaseSlot (modVoy s v fun x => { x with state := .parked, park := why, stage := stage }) v

/-- The voyage that stands before a fresh entry parks at a cache miss (R138). -/
def arrive (s : State) (v : Nat) : State :=
  match voyOf s v with
  | none => s
  | some x =>
    if x.stage == .fresh && (entryWords s x x.entry).isNone then
      let a := pageOf (entryAddr x x.entry)
      requestFill (parkVoy s v (.miss a) .fresh) x.part a (some v)
    else s

/-- A voyage takes a slot. -/
def takeSlot (s : State) (v k : Nat) : State :=
  let n := s.sch.tick
  let s := modSch s fun c => { c with slots := tPut c.slots k v, tick := n + 1 }
  arrive (modVoy s v fun x => { x with state := .active, slot := some k, since := n }) v

/-- One free slot is given out, if a voyage is Ready for it (R131, R133). -/
def grantOne (s : State) : Option State :=
  if !gatesOpen s then none
  else
    match freeSlot s with
    | none => none
    | some k =>
      match firstTimed s with
      | some v => some (takeSlot s v k)
      | none => (wrrPick s).map fun x => takeSlot x.1 x.2 k

/-- Free slots are given out until none is left or no voyage is Ready. -/
def grantLoop : Nat → State → State
  | 0, s => s
  | n + 1, s =>
    match grantOne s with
    | none => s
    | some t => grantLoop n t

/-- Free slots go to Ready voyages; a voyage that meets a cache miss gives its slot to the next. -/
def schedule (s : State) : State := grantLoop (64 + s.sch.voy.length) s

/-- A parked voyage's wait ends: it returns to Ready at the stage given (R136), where an engine is in service (R146). -/
def wakeVoy (s : State) (v : Nat) (stage : Stage) : State :=
  if noEngine s then s else enterReady (modVoy s v fun x => { x with stage := stage }) v

/-! ## Event pulses (R84, R89, R103, R365, R451 to R453) -/

/-- A voyage sees a pulse: one without a commission number, or one with the number it captured for that port (R453). -/
def passes (v : Voyage) : Option (Nat × BitVec 16) → Bool
  | none => true
  | some (p, n) => tFind v.captured p == some n

/-- `RESEN` and `RESEV` of the entry at which a voyage is suspended name this event (R69). -/
def resumesOn (v : Voyage) (e : Nat) : Bool :=
  let w := v.cur.getD 4 0
  w.getLsbD 21 && fieldOf w 22 10 == e

/-- A suspended timed voyage resumes at landing `n`, or at the earlier one that it resumes at anyhow (R104). -/
def resumeFrom (s : State) (v n : Nat) : State :=
  modVoy s v fun x => { x with resumeAt := some (min ((x.resumeAt).getD n) n) }

/-- A suspended voyage resumes (R103, R104): an untimed one at once, a timed one at its landing. -/
def resumeVoy (s : State) (v : Nat) : State :=
  match voyOf s v with
  | none => s
  | some x => if x.timed then resumeFrom s v (dueLsn s x.xclass) else wakeVoy s v .resumed

/-- A RESUME acts on its voyage (R103, R104): a suspended one resumes, a timed one at landing `n`; for any other it sets the pending-resume latch, or is discarded and counted on submission ring `ring`. -/
def actResume (s : State) (v ring n : Nat) : State :=
  match voyOf s v with
  | none => s
  | some x =>
    if x.state == .suspended then
      if x.timed then resumeFrom s v n else wakeVoy s v .resumed
    else if x.resumeLatch then modSq s x.part ring fun r => { r with cnt := bump r.cnt 3 }
    else modVoy s v fun x => { x with resumeLatch := true }

/-- A timed voyage becomes untimed (R49, R51, R52): it then waits as an untimed voyage does, and one that waited for its dispatch, for its next crossing or for the landing of its resumption enters Ready; RESUMEs that were to act at a landing act now. -/
def demote (s : State) (v : Nat) : State :=
  match voyOf s v with
  | none => s
  | some x =>
    if x.timed then
      let s := unpin (modVoy s v fun x => { x with timed := false, demoted := true, resumeAt := none, resumes := [] }) v
      let s := match noEngine s, x.state, x.park, x.resumeAt with
        | false, .admitted, _, _ => enterReady s v
        | false, .parked, .landing, _ => modVoy s v fun x => { x with park := .event (448 + x.xclass) }
        | false, .parked, .maxEntries, _ => enterReady s v
        | false, .suspended, _, some _ => wakeVoy s v .resumed
        | _, _, _, _ => s
      x.resumes.foldl (fun s r => actResume s v r.2 0) s
    else s

/-- The watch latch after a pulse of event `e` that no WAIT of its voyage has consumed (R89). -/
def watchPulse (e : Nat) (w : Watch) : Watch :=
  if e = 384 + w.channel then { w with completion := true }
  else if e = 416 + w.channel then { w with mismatch := true }
  else w

/-- What a pulse of event `e` with several origins in one cycle does to one voyage: it sees the pulse if it passes for one of them, and its partition counts one stale delivery otherwise (R226, R453). A WAIT that the pulse completes consumes it; the watch latch records any other. -/
def pulseVoy (e : Nat) (origins : List (Option (Nat × BitVec 16))) (s : State) (vx : Nat × Voyage) : State :=
  let (v, x) := vx
  let seen := origins.any (passes x)
  if x.state == .parked && x.park == .event e then
    if seen then wakeVoy (modVoy s v fun x => { x with saw := true }) v .woken else countStale s x.part
  else
    let s := modVoy s v fun x => { x with watch := x.watch.map (watchPulse e) }
    if x.state == .suspended && resumesOn x e then
      if seen then resumeVoy s v else countStale s x.part
    else s

/-- A port's event-network listeners see a pulse of event `e` (R365): a landing event whatever the port's owner, any other where the owner owns it. -/
def pulsePort (e : Nat) (s : State) (pq : Nat × Port) : State :=
  let (p, q) := pq
  let seen := (List.range 4).filter fun n =>
    let w := tGet q.netl n 0
    w.getLsbD 31 && fieldOf w 0 10 == e && (decide (448 ≤ e ∧ e < 452) || q.owner.any fun o => ownsEvent s o e)
  seen.foldl (fun s n => modPort s p fun q => { q with evPend := q.evPend ||| (1 <<< (20 + n)) }) s

/-- Event line `e` pulses, for several origins in one cycle once; every consumer sees it (R451, R452). -/
def pulseFor (s : State) (e : Nat) (origins : List (Option (Nat × BitVec 16))) : State :=
  s.port.foldl (pulsePort e) (s.sch.voy.foldl (pulseVoy e origins) s)

/-- Event line `e` pulses for one origin. -/
def pulse (s : State) (e : Nat) (origin : Option (Nat × BitVec 16)) : State := pulseFor s e [origin]

/-! ## Records (R106, R110, R167 to R172) -/

/-- A status record (R110). -/
def mkRecord (tag : Word) (residual status ext entry vid : Nat) (x : Voyage) (value : Bool) (lsn : Nat) : BitVec 128 :=
  BitVec.ofNat 128 <|
    tag.toNat + residual % 2 ^ 32 * 2 ^ 32 + status * 2 ^ 64 + ext * 2 ^ 72 + entry % 2 ^ 16 * 2 ^ 80 + vid * 2 ^ 96
      + (if x.demoted then 2 ^ 108 else 0) + (if x.repeated then 2 ^ 109 else 0) + (if x.late then 2 ^ 110 else 0)
      + (if value then 2 ^ 111 else 0) + lsn % 2 ^ 16 * 2 ^ 112

/-- The record with its `LSN` field set (R54). -/
def stampRecord (r : BitVec 128) (lsn : Nat) : BitVec 128 :=
  BitVec.ofNat 128 (r.toNat % 2 ^ 112 + lsn % 2 ^ 16 * 2 ^ 112)

/-- Occupancy of a completion ring (R168). -/
def occupancy (c : CompRing) : Nat := (c.p - c.c).toNat + c.held

/-- A record has a place to go: the ring has room, or is faulted and drops it (R168, R175). -/
def hasRoom (c : CompRing) : Bool := c.fault || occupancy c < c.size

/-- A record is published: its place is fixed at P, or it is dropped by a faulted ring, where neither P nor the count of records published moves (R172, R175; log 127). -/
def publish (s : State) (p m : Nat) (r : BitVec 128) : State :=
  modCq s p m fun c =>
    if c.fault then { c with cnt := bump c.cnt 2 }
    else { c with p := c.p + 1, unwritten := c.unwritten ++ [(c.p, r)], cnt := bump c.cnt 0 }

/-- A voyage's context is released. -/
def dropVoy (s : State) (v : Nat) : State :=
  let s := stopWaiting (unpin (releaseSlot s v) v) (.voyage v)
  modSch s fun c =>
    { c with voy := tDel c.voy v
             fills := c.fills.map fun f => if f.voyage == some v then { f with voyage := none } else f }

/-- The voyage ID that a record names (R110). -/
def recordVid (r : BitVec 128) : Nat := r.toNat / 2 ^ 96 % 2 ^ 12

/-- A record of the voyage is not yet published: it is held for a landing, follows a held one, is that of a refused candidate, or waits for room without a held place (R107, R122, R170). -/
def recordsDue (s : State) (v : Nat) (x : Voyage) : Bool :=
  !x.heldRecs.isEmpty || (s.sch.following.any fun y => y.1 == v) || (s.sch.notAdmitted.any fun y => y.vid == v)
    || (x.cring.bind fun m => cqOf s x.part m).any fun c => c.late.any fun r => recordVid r == v

/-- The context of an Ending voyage is released with its last record (R115, R119). -/
def endIfDone (s : State) (v : Nat) : State :=
  match voyOf s v with
  | none => s
  | some x => if x.state == .ending && !recordsDue s v x then dropVoy s v else s

/-- A voyage's work is over: it is Ending, until its last record is published (R115, R119). -/
def finishVoy (s : State) (v : Nat) : State :=
  let s := stopWaiting (unpin (releaseSlot s v) v) (.voyage v)
  endIfDone (modVoy s v fun x => { x with state := .ending, park := .no, stage := .fresh }) v

/-- The voyage stands before entry `n`, its checkpoint set (R118); at `MAX_ENTRIES` a timed voyage parks (R48). -/
def goTo (s : State) (v n : Nat) : State :=
  let s := modVoy s v fun x =>
    { x with entry := n, moved := 0, first := [], gather := [], ckEntry := n, ckRegs := x.regs, ckCond := x.cond, effect := false,
             chainCharged := false, bytesCharged := false, countedTo := 0, repeated := false, stage := .fresh, cur := [], deadline := none,
             answer := none, saw := false, auth := none, path := none, chainK := 0 }
  match voyOf s v with
  | none => s
  | some x => if x.timed && maxEntries x ≤ x.reached then parkVoy s v .maxEntries .fresh else s

/-- Records of the voyage are still held, or follow held ones. -/
def recordsHeld (s : State) (v : Nat) (x : Voyage) : Bool := !x.heldRecs.isEmpty || s.sch.following.any fun y => y.1 == v

/-- A record takes its place in a ring that has room (R106, R107, R168): a timed one a held place; an untimed one is published, or follows those that its voyage has held from before it became untimed (log 120). -/
def placeRecord (s : State) (v m : Nat) (x : Voyage) (r : BitVec 128) : State :=
  if x.timed then
    modCq (modVoy s v fun x => { x with heldRecs := x.heldRecs ++ [r] }) x.part m fun c => { c with held := c.held + 1 }
  else
    let r := stampRecord r s.tb.lsn
    if recordsHeld s v x then modSch s fun c => { c with following := c.following ++ [(v, r)] } else publish s x.part m r

/-- The HALTED record that takes the place of a record that waits for room, with its entry and its `TAG` (R105). -/
def haltedFor (r : BitVec 128) : BitVec 128 :=
  BitVec.ofNat 128 (r.toNat % 2 ^ 32 + 0x24 * 2 ^ 64 + r.toNat / 2 ^ 80 % 2 ^ 31 * 2 ^ 80)

/-- A voyage parks at step 8 with the record that waits for room; a HALT in force abandons the wait, and its record takes the place (R105, R169). -/
def parkPosting (s : State) (v m : Nat) (r : BitVec 128) (pulseDue : Bool) (next : Option Nat) : State :=
  modVoy (parkVoy s v (.room m) .posting) v fun y =>
    if y.halting then
      { y with posting := some (haltedFor r), pulseDue := false, nextAt := none, halting := false, suspending := false }
    else { y with posting := some r, pulseDue := pulseDue, nextAt := next }

/-- A voyage posts a record and goes on by `k` (R106 to R108, R168, R169); where the ring is full the voyage parks with it. -/
def postThen (k : State → State) (s : State) (v : Nat) (r : BitVec 128) (pulseDue : Bool) (next : Option Nat) : State :=
  match voyOf s v with
  | none => s
  | some x =>
    match x.cring with
    | none => k s
    | some m =>
      match cqOf s x.part m with
      | none => k s
      | some c =>
        if hasRoom c then
          k (placeRecord s v m x r)
        else
          let s := if x.timed then modCq (demote s v) x.part m fun c => { c with cnt := bump c.cnt 1 } else s
          let s := modCq s x.part m fun c => { c with parked := c.parked ++ [v], cnt := bump c.cnt 3 }
          let r := if x.timed then r ||| (1 <<< 108) else r
          parkPosting s v m r pulseDue next

/-- A voyage posts its last record and ends. -/
def postLast (s : State) (v : Nat) (r : BitVec 128) : State := postThen (finishVoy · v) s v r false none

/-- After an entry's record: its EVT pulse, then the next entry or the end of the voyage (R73 steps 8 and 9); a HALT in force ends the voyage there (R105). -/
def afterRecord (s : State) (v : Nat) (pulseDue : Bool) (next : Option Nat) : State :=
  match voyOf s v with
  | none => s
  | some x =>
    if x.suspending then
      releaseSlot (modVoy s v fun x => { x with state := .suspended, park := .no, stage := .resumed, suspending := false }) v
    else
    let s := if pulseDue then pulse s (vevent x) none else s
    match next with
    | none => finishVoy s v
    | some n =>
      if x.halting then postLast s v (mkRecord 0 0 0x24 0 n v { x with repeated := false } false 0)
      else
      let s := goTo s v n
      match voyOf s v with
      | none => s
      | some y => if y.state == .active then arrive s v else if y.park == .maxEntries then s else enterReady s v

/-- A voyage posts the record of its entry and goes on. -/
def postRecord (s : State) (v : Nat) (r : BitVec 128) (pulseDue : Bool) (next : Option Nat) : State :=
  postThen (afterRecord · v pulseDue next) s v r pulseDue next

/-- The first voyage parked against a ring posts its record, and goes on (R169). -/
def postParked (s : State) (p m : Nat) : State :=
  match cqOf s p m with
  | none => s
  | some c =>
    match c.parked with
    | [] => s
    | v :: l =>
      let s := modCq s p m fun c => { c with parked := l }
      match voyOf s v with
      | none => s
      | some x =>
        match x.posting with
        | none => s
        | some r =>
          let s := modVoy s v fun x => { x with posting := none, park := .no, stage := .fresh }
          afterRecord (placeRecord s v m x r) v x.pulseDue x.nextAt

/-- Records and voyages that wait for room are posted while there is room: late records first, in order (R169, R170). -/
def postWaiting : Nat → Nat → Nat → State → State
  | 0, _, _, s => s
  | n + 1, p, m, s =>
    match cqOf s p m with
    | none => s
    | some c =>
      if !hasRoom c then s
      else
        match c.late with
        | r :: l => postWaiting n p m (endIfDone (publish (modCq s p m fun c => { c with late := l }) p m r) (recordVid r))
        | [] => if c.parked.isEmpty || noEngine s then s else postWaiting n p m (postParked s p m)

/-- Everything that waits for room in a ring is tried again. -/
def retryRoom (s : State) (p m : Nat) : State :=
  match cqOf s p m with
  | none => s
  | some c => postWaiting (c.late.length + c.parked.length) p m s

/-! ## The end of an entry (R73 steps 6 to 9, R76) -/

/-- How an entry came out. -/
structure Result where
  status : Nat
  ext : Nat := 0
  residual : Nat := 0
  cond : Option (BitVec 2) := none
  goesOn : Bool := false
  value : Bool := false
  jump : Option Nat := none
  ends : Bool := false

/-- OK (R112). -/
def Result.ok : Result := { status := 0x00, goesOn := true }
/-- An ending status (R76). -/
def Result.fail (status ext : Nat) (residual : Nat := 0) : Result := { status := status, ext := ext, residual := residual }

/-- A flag of word w0 (R67). -/
def flagOf (w : List Word) (k : Nat) : Bool := (w.getD 0 0).getLsbD k
/-- `COUNT` (R68). -/
def countOf (w : List Word) : Nat := fieldOf (w.getD 1 0) 0 24
/-- `TMO` (R68). -/
def tmoOf (w : List Word) : Nat := fieldOf (w.getD 1 0) 24 8
/-- `OP` (R67). -/
def opOf (w : List Word) : Nat := fieldOf (w.getD 0 0) 0 8
/-- `TARGET` (R67). -/
def tgtOf (w : List Word) : Nat := fieldOf (w.getD 0 0) 16 8
/-- `TAG` (R68). -/
def tagOf (w : List Word) : Word := w.getD 7 0

/-- Every claimed read of an agent ends (R257). -/
def endReads (s : State) (a : Agent) : State :=
  (s.deck.queues.flatMap fun x => (x.2.reading.filter (·.1 == a)).map fun r => (x.1, r.2)).foldl
    (fun s r => endRead s r.1 a r.2) s

/-- An entry has ended with a result: the condition, the ownership of `VEVENT`, the record, the pulse and the next entry; `idx` and `w` are the entry whose index, tag and flags apply (R73, R88, R95, R100). -/
def finishEntry (s : State) (v idx : Nat) (w : List Word) (r : Result) : State :=
  match voyOf s v with
  | none => s
  | some x =>
    let s := match r.cond with
      | some c => modVoy s v fun x => { x with cond := c }
      | none => s
    let r := if flagOf w 15 && r.goesOn && !ownsAssignable s x.part (vevent x) then Result.fail 0x13 0x04 else r
    let next :=
      if !r.goesOn || r.ends then none
      else match r.jump with
        | some n => some n
        | none => if flagOf w 8 then some (idx + 1) else none
    let s := if r.goesOn then s else rewindAll s (.voyage v)
    let s := stopWaiting (endReads s (.voyage v)) (.voyage v)
    let post := !r.goesOn || flagOf w 12 || r.value
    let pulseDue := flagOf w 15 && r.goesOn
    if post then
      let y := (voyOf s v).getD x
      postRecord s v (mkRecord (tagOf w) r.residual r.status r.ext idx v y r.value 0) pulseDue next
    else afterRecord s v pulseDue next

/-- A voyage ended by the device posts a record that names an entry, or none (R109). -/
def endWith (s : State) (v : Nat) (status ext entry : Nat) (tag : Word) : State :=
  match voyOf s v with
  | none => s
  | some x =>
    let s := stopWaiting (endReads (rewindAll s (.voyage v)) (.voyage v)) (.voyage v)
    postLast s v (mkRecord tag 0 status ext entry v x false 0)

end Sys2Proof.Machine
end

