-- ==== Sys2Proof/Machine/AdmitOps.lean ====
section
/-!
DEFINITION. Admission: capacities, tests, the round of a landing, and the re-fit of the admitted set (04_voyages_and_ferry_engines.md R117, R120 to R125, R139, R143).
-/
namespace Sys2Proof.Machine

/-! ## Capacities (R121) -/

/-- The capacities of a round: cycles, cycles of one voyage, cells, bytes. -/
structure Caps where
  cycles : Nat
  each : Nat
  cells : Nat
  bytes : Nat
deriving DecidableEq, Repr

/-- The capacities that T0 and C (in µs), the slots in service, `ADM_CELLS` and `ADM_BRATE` give; the window W is taken in 1/64 µs. -/
def capsOf (t0 c slots cells brate : Nat) : Caps :=
  let w := 63 * t0 - 64 * (c + 2)
  let a := 200 * w / 64
  { cycles := 9 * slots * a / 10, each := a / 10, cells := 9 * cells / 10, bytes := 9 * brate * w / 640 }

/-- `BUDGET_CYCLES` (R63). -/
def budgetCycles (x : Voyage) : Nat := (hdrWord x 2).toNat
/-- `BUDGET_CELLS` (R63). -/
def budgetCells (x : Voyage) : Nat := fieldOf (hdrWord x 3) 0 19
/-- `BUDGET_BYTES` (R63). -/
def budgetBytes (x : Voyage) : Nat := (hdrWord x 4).toNat

/-! ## Sums and tests (R122, R123) -/

/-- What admitted voyages hold: cycles, cells, bytes, pinned pages as (partition, address), and their number. -/
structure Sums where
  cycles : Nat := 0
  cells : Nat := 0
  bytes : Nat := 0
  pages : List (Nat × Nat) := []
  count : Nat := 0
deriving DecidableEq, Repr

/-- The pages that a voyage pins and that are not in a list. -/
def newPages (l : List (Nat × Nat)) (x : Voyage) : List (Nat × Nat) :=
  ((pinnedPages x).map fun a => (x.part, a)).filter fun k => !l.contains k

/-- The sums with one more voyage. -/
def Sums.add (m : Sums) (x : Voyage) : Sums :=
  { cycles := m.cycles + budgetCycles x, cells := m.cells + budgetCells x, bytes := m.bytes + budgetBytes x,
    pages := m.pages ++ newPages m.pages x, count := m.count + 1 }

/-- A timed voyage that has been admitted and has neither ended nor been demoted (R123). -/
def isAdmitted (x : Voyage) : Bool := x.timed && x.state != .candidate && x.state != .ending

/-- The sums of the admitted set. -/
def admittedSums (s : State) : Sums := (s.sch.voy.filter fun x => isAdmitted x.2).foldl (fun m x => m.add x.2) {}

/-- The first test of R122 that a voyage fails. -/
def admitFail (c : Caps) (m : Sums) (x : Voyage) : Option Nat :=
  if c.each < budgetCycles x ∨ c.cycles < m.cycles + budgetCycles x then some 0x01
  else if c.cells < m.cells + budgetCells x then some 0x02
  else if c.bytes < m.bytes + budgetBytes x then some 0x03
  else if 256 < m.pages.length + (newPages m.pages x).length then some 0x04
  else if 1024 ≤ m.count then some 0x05
  else none

/-! ## The round (R120, R125) -/

/-- The commission numbers of the ports that a partition owns now (R117). -/
def capturePorts (s : State) (p : Nat) : Tab (BitVec 16) :=
  (s.port.filter fun x => x.2.owner == some p).map fun x => (x.1, x.2.number)

/-- The cached pages of a voyage's pinned pages are pinned for it (R139). -/
def pinVoy (s : State) (v : Nat) (x : Voyage) : State :=
  modSch s fun c =>
    { c with pages := c.pages.map fun g =>
        if g.part == x.part && (pinnedPages x).contains g.addr then { g with pins := insertNat g.pins v } else g }

/-- The landing at which a candidate is first a candidate (R38, R120). -/
def dueOf (s : State) (x : Voyage) : Nat := classLanding s x.xclass x.startLsn

/-- The next landing that takes place: the start landing where the next of the running schedule would not come before it (R32). -/
def landingToCome (s : State) : Nat := if forestalled s (nextLsn s) then nextSchedule else nextLsn s

/-- A candidate belongs to the round of landing `n`: the one at which it is first a candidate, or, once that has gone by, the next to come (R32, R120). -/
def inRound (s : State) (n : Nat) (x : Voyage) : Bool :=
  x.state == .candidate && x.timed && max (dueOf s x) (landingToCome s) == n

/-- The least order that a START whose header has not arrived can take: that of class 0. -/
def unknownKey (s : State) (v : Nat) (x : Voyage) : Nat := timedKey s v { x with xclass := 0 }

/-- A submission ring has an entry whose fetch has not returned and whose doorbell came before the cut-off of landing `n`; a faulted ring fetches none (R158, R175). -/
def covered (n : Nat) (r : SubRing) : Bool :=
  !r.fault && r.cover.any fun k => decide (k.2 ≤ n) && decide ((r.fetched - r.c).toNat < (k.1 - r.c).toNat)

/-- The least order that a START of partition `p` whose entry has not been taken up can take. -/
def unfetchedKey (s : State) (p : Nat) : Nat := (partOf s p).prio.toNat * 2 ^ 12 + (partOf s p).vidBase

/-- The orders that candidates of the round of landing `n` may still take whose headers or entries have not arrived (R120, R158). -/
def openKeys (s : State) (n : Nat) : List Nat :=
  ((s.sch.starting.filter fun x => x.2.startLsn ≤ n).map fun x => unknownKey s x.1 x.2)
    ++ (s.sq.filter fun x => covered n x.2).map fun x => unfetchedKey s (x.1 / 8)

/-- The candidate that the round of landing `n` takes next: no earlier one can be undecided. -/
def nextCandidate (s : State) (n : Nat) : Option (Nat × Voyage) :=
  leastBy (fun x => timedKey s x.1 x.2)
    (s.sch.voy.filter fun x => inRound s n x.2 && (openKeys s n).all fun k => decide (timedKey s x.1 x.2 ≤ k))

/-- A candidate is refused: its NOT_ADMITTED record will be published at step 3 of the landing (R122); that of one deferred from an earlier round is LATE (R147). -/
def refuseCandidate (s : State) (v : Nat) (x : Voyage) (n ext : Nat) : State :=
  let r := mkRecord 0 0 0x20 ext 0xFFFF v { x with late := x.late || decide (dueOf s x < n) } false 0
  modVoy (modSch s fun c => { c with notAdmitted := c.notAdmitted ++ [{ vid := v, record := r, lsn := n }] }) v fun x =>
    { x with state := .ending }

/-- A candidate is admitted: its ports are captured and its pages pinned; one deferred from an earlier round is LATE (R53, R117, R120). -/
def admitCandidate (s : State) (v : Nat) (x : Voyage) (n : Nat) : State :=
  pinVoy (modVoy s v fun y =>
    { y with state := .admitted, captured := capturePorts s x.part, late := y.late || decide (dueOf s x < n), startLsn := n }) v x

/-- The capacities of a round. -/
def roundCaps (s : State) (r : Round) : Caps :=
  match s.tb.start, decide (nextSchedule ≤ r.lsn) with
  | some st, true => capsOf st.t0 st.c r.slots r.cells.toNat r.brate.toNat
  | _, _ => capsOf s.tb.t0 (cutFor s r.lsn) r.slots r.cells.toNat r.brate.toNat

/-- Candidates are decided, one after another, while one can be taken. -/
def roundLoop : Nat → State → Round → State
  | 0, s, _ => s
  | k + 1, s, r =>
    match nextCandidate s r.lsn with
    | none => s
    | some (v, x) =>
      roundLoop k (match admitFail (roundCaps s r) (admittedSums s) x with
        | some e => refuseCandidate s v x r.lsn e
        | none => admitCandidate s v x r.lsn) r

/-- The rounds under way go on as far as entries and headers have arrived; in autonomous hold, during entry to moored, and with no engine in service, they decide nothing (R125, R146, R511). -/
def runRound (s : State) : State :=
  if s.pwr.hold || s.pwr.mooring.isSome || noEngine s then s
  else s.sch.rounds.foldl (fun s r => roundLoop s.sch.voy.length s r) s

/-- A field whose larger values act as a greatest one (R148). -/
def atMost {w : Nat} (n : Nat) (x : BitVec w) : BitVec w := if n < x.toNat then BitVec.ofNat w n else x

/-- The round of landing `n` begins at its cut-off. -/
def beginRound (s : State) (n : Nat) : State :=
  let r : Round :=
    { lsn := n, slots := (slotList s).length, brate := atMost 12800 s.sch.admBrate, cells := atMost 262144 s.sch.admCells }
  runRound (modSch s fun c =>
    { c with rounds := (c.rounds.filter fun y => y.lsn < n) ++ [r] ++ c.rounds.filter fun y => n < y.lsn
             lastBrate := r.brate, lastCells := r.cells })

/-! ## The re-fit (R124, R143) -/

/-- The admitted voyages in the order of R131. -/
def admittedOrder (s : State) : List (Nat × Voyage) :=
  let rec go : Nat → List (Nat × Voyage) → List (Nat × Voyage)
    | 0, _ => []
    | k + 1, l =>
      match leastBy (fun x => timedKey s x.1 x.2) l with
      | none => []
      | some x => x :: go k (l.filter fun y => y.1 != x.1)
  let l := s.sch.voy.filter fun x => isAdmitted x.2
  go l.length l

/-- The admitted set is walked through afresh; each voyage that no longer fits becomes untimed. The count of those is answered with the state. Once the cut-off of a landing has passed, the C of that landing is in force (R143; log 126). -/
def refit (s : State) : State × Nat :=
  let n := nextLsn s
  let c := capsOf s.tb.t0 (if s.tb.closed.isSome then cutFor s n else s.tb.c) (slotList s).length s.sch.lastCells.toNat s.sch.lastBrate.toNat
  let r := (admittedOrder s).foldl
    (fun (a : State × Sums × Nat) x =>
      match admitFail c a.2.1 x.2 with
      | some _ => (demote a.1 x.1, a.2.1, a.2.2 + 1)
      | none => (a.1, a.2.1.add x.2, a.2.2)) (s, {}, 0)
  (r.1, r.2.2)

/-- A re-fit that waits is performed. -/
def waitingRefit (s : State) : State :=
  if s.sch.refitDue then modSch (refit s).1 fun c => { c with refitDue := false } else s

/-- A round is under way: a candidate of it, a START without a header or an entry of a submission ring can still need a decision (R120). -/
def roundRunning (s : State) : Bool :=
  s.sch.rounds.any fun r => (s.sch.voy.any fun x => inRound s r.lsn x.2) || !(openKeys s r.lsn).isEmpty

/-- The running rounds go on; with their last decision, a re-fit that waits for them is performed (R120, R142). -/
def goOn (s : State) : State :=
  let s := runRound s
  if s.sch.rounds.isEmpty || roundRunning s then s else waitingRefit s

/-! ## Pages entering the manifest cache (R138 to R140) -/

/-- The voyages of a partition that are parked on the miss of a page. -/
def missers (s : State) (p a : Nat) : List (Nat × Voyage) :=
  s.sch.voy.filter fun x => x.2.part == p && x.2.state == .parked && x.2.park == .miss a

/-- The voyages that missed a page return to Ready. -/
def wakeMissers (s : State) (p a : Nat) : State := (missers s p a).foldl (fun s x => wakeVoy s x.1 .fresh) s

/-- The least recently executed unpinned page leaves a full cache (R140). -/
def evictPage (s : State) : State :=
  if s.sch.pages.length < 512 then s
  else modSch s fun c => { c with pages := c.pages.eraseP fun x => x.pins.isEmpty }

/-- The timed voyages for which a page is pinned. -/
def pinners (s : State) (p a : Nat) : List Nat :=
  (s.sch.voy.filter fun x => isAdmitted x.2 && x.2.part == p && (pinnedPages x.2).contains a).map Prod.fst

/-- The cache begins to fill the pages that a timed voyage pins and that are not in it (R139). -/
def requestPins (s : State) (x : Voyage) : State :=
  (pinnedPages x).foldl (fun s a => if (cachedPage s x.part a).isSome then s else requestFill s x.part a none) s

/-- A page enters the cache; it counts as the one executed last, although it has not been executed (R140; log 125). -/
def insertPage (s : State) (p a w : Nat) (bytes : List Byte) : State :=
  let pg : CachePage := { part := p, addr := a, data := memPut [] 0 bytes, window := w, pins := pinners s p a }
  modSch (evictPage s) fun c => { c with pages := (c.pages.filter fun x => !(x.part == p && x.addr == a)) ++ [pg] }

/-- The fills of a page are over. -/
def dropFills (s : State) (p a : Nat) : State :=
  modSch s fun c => { c with fills := c.fills.filter fun f => !(f.part == p && f.addr == a) }

end Sys2Proof.Machine
end

