-- ==== Sys2Proof/Machine/EntryFormat.lean ====
section
/-!
DEFINITION. The checks of step 2 on a manifest entry, and its charges (03_manifests.md R67 to R72, R80, R83, R90, R91, R96 to R99, R101; 04_voyages_and_ferry_engines.md R126).
-/
namespace Sys2Proof.Machine

/-! ## Fields of an entry -/

/-- Word `k` of an entry. -/
def wd (w : List Word) (k : Nat) : Word := w.getD k 0
/-- The address in w2–w3 (R72). -/
def addrOf (w : List Word) : Nat := (wd w 3 ++ wd w 2 : BitVec 64).toNat
/-- `COND` (R67). -/
def condOf (w : List Word) : Nat := fieldOf (wd w 0) 24 4
/-- A target that is a port. -/
def isPortTarget (w : List Word) : Bool := tgtOf w < 96

/-- The flags of w0 (R67). -/
def fOnward (w : List Word) : Bool := flagOf w 8
def fSpan (w : List Word) : Bool := flagOf w 9
def fSink (w : List Word) : Bool := flagOf w 10
def fPause (w : List Word) : Bool := flagOf w 11
def fPost (w : List Word) : Bool := flagOf w 12
def fRpt (w : List Word) : Bool := flagOf w 13
def fBar (w : List Word) : Bool := flagOf w 14
def fEvt (w : List Word) : Bool := flagOf w 15

/-! ## The operand table (R71) -/

/-- A row of R71: the range of `COUNT`, whether `TMO` may be nonzero, and the bits of w2 to w6 that are not reserved. -/
structure OperandRow where
  lo : Nat
  hi : Nat
  tmo : Bool
  m2 : Word := 0
  m3 : Word := 0
  m4 : Word := 0
  m5 : Word := 0
  m6 : Word := 0

/-- Every bit. -/
def allBits : Word := 0xFFFFFFFF
/-- The largest packet (R245). -/
def maxPacket : Nat := 16777215

/-- The row of R71 for an opcode and a target, if the opcode allows the target. -/
def operandRow (w : List Word) : Option OperandRow :=
  let port := isPortTarget w
  let t := tgtOf w
  match opOf w with
  | 0x00 => if t = 0xF4 then some ⟨0, 0, false, 0, 0, 0, 0, 0⟩ else none
  | 0x01 =>
    if port then some ⟨1, 32768, false, allBits, allBits, 0x7FFF, 0, 0⟩
    else if t = 0xF0 then some ⟨1, maxPacket, true, allBits, allBits, 0x1FFF, 0, 0⟩
    else if t = 0xF4 then some ⟨4, 4, false, allBits, allBits, 7, 0, 0⟩ else none
  | 0x02 =>
    if port then some ⟨1, 32768, false, allBits, allBits, 0x7FFF, 0x73, 0⟩
    else if t = 0xF0 then some ⟨1, maxPacket, true, allBits, allBits, 0x1FFF, 0x73, 0⟩
    else if t = 0xF4 then some ⟨4, 4, false, allBits, allBits, 7, 0, 0⟩ else none
  | 0x03 => if port then some ⟨0, 0, true, allBits, allBits, 0, 0, 0⟩ else none
  | 0x04 => if port then some ⟨0, 0, false, allBits, 0, 0xFC, 7, allBits⟩ else none
  | 0x05 => if t = 0xF4 then some ⟨0, 0, false, 0, 0, 0xFFFF, 0, 0⟩ else none
  | 0x06 => if t = 0xF4 then some ⟨0, 0, true, 0, 0, 0x3FF, 0, 0⟩ else none
  | 0x07 =>
    if t = 0xF4 then some ⟨0, 0, false, allBits, 0, 7, 1, allBits⟩
    else if t = 0xF0 then some ⟨0, 0, false, allBits, 0, 0x1FFF, 1, allBits⟩
    else if t = 0xF1 then some ⟨0, 0, false, allBits, 0, 0x1F, 1, allBits⟩ else none
  | 0x08 => if t = 0xF4 then some ⟨0, 0, false, allBits, 0, 7, 0, 0⟩ else none
  | 0x09 => if t = 0xF4 then some ⟨0, 0, false, allBits, 0, 0x1F77, 0, allBits⟩ else none
  | 0x0A => if port then some ⟨0, 0, true, allBits, 0xFFFF, 7, 0x71, 0⟩ else none
  | 0x0B => if t = 0xF1 then some ⟨0, 0, true, allBits, allBits, 0x1F, 0, 0⟩ else none
  | 0x0C =>
    if port then some ⟨1, maxPacket, true, 0, 0, 0x1FFF, 0, allBits⟩
    else if t = 0xF0 then some ⟨1, maxPacket, true, 0, 0, 0x1FFF, 0x1FFF, allBits⟩
    else if t = 0xF2 then some ⟨1, maxPacket, true, 0, 0, 0x1FFF, 0x3FFF, allBits⟩ else none
  | 0x0D => if t = 0xF0 then some ⟨0, 0, false, 0, 0, 0x1FFF, 0x77, 0⟩ else none
  | 0x0E => if t = 0xF4 then some ⟨0, 0, false, 0, 0, 7, 0, 0⟩ else none
  | 0x0F => if t = 0xF4 then some ⟨0, 0, false, 0, 0, 0x3FF, 0, 0⟩ else none
  | 0x10 => if t = 0xF3 then some ⟨0, 0, false, 0, 0, 0x1FFF, 0x3FFF, 0⟩ else none
  | 0x11 => if t = 0xF2 then some ⟨1, 65535, true, allBits, allBits, 0x3FFF, 0, allBits⟩ else none
  | 0x1F => if t = 0xF4 then some ⟨0, 0, false, 0, 0, 0, 0, 0⟩ else none
  | _ => none

/-- A reserved opcode (R70). -/
def reservedOp (op : Nat) : Bool := 0x12 ≤ op && op != 0x1F

/-! ## The checks, each with its extended status -/

/-- The extended statuses whose condition holds. -/
def extsOf (l : List (Nat × Bool)) : List Nat := (l.filter (·.2)).map (·.1)

/-- Bits of a word outside a mask. -/
def outside (w m : Word) : Bool := w &&& ~~~m != 0

/-- Reserved fields, and the ranges of `COUNT` and `TMO` (R69, R71, R101). -/
def checkOperands (w : List Word) (r : OperandRow) : List (Nat × Bool) :=
  let resume : Word := if fPause w then 0xFFE00000 else 0
  [(0x06, fieldOf (wd w 0) 28 4 != 0),
   (0x06, outside (wd w 2) r.m2 || outside (wd w 3) r.m3),
   (0x06, outside (wd w 4) (r.m4 ||| resume) || outside (wd w 5) r.m5 || outside (wd w 6) r.m6),
   (0x07, countOf w < r.lo || r.hi < countOf w || (tmoOf w != 0 && !r.tmo))]

/-- The legality of flags by opcode (R96). -/
def checkFlags (w : List Word) (vev : Nat) : List (Nat × Bool) :=
  let op := opOf w
  [(0x05, op == 0x05 && (!fOnward w || fPost w || fBar w || fEvt w)),
   (0x05, fSpan w && !(op == 0x01 || op == 0x02 || op == 0x11)),
   (0x05, fSink w && !(op == 0x01 || op == 0x0C)),
   (0x05, fRpt w && (op == 0x0C || (op == 0x01 && tgtOf w == 0xF0))),
   (0x0B, fEvt w && op != 0x05 && vev == 0)]

/-- The immediate and register sources of WRITE (R80). -/
def checkSource (w : List Word) (cont : Bool) : List (Nat × Bool) :=
  let imm := (wd w 5).getLsbD 0
  let vsrc := (wd w 5).getLsbD 1
  if opOf w = 0x02 ∧ tgtOf w ≠ 0xF4 then
    [(0x05, (imm && vsrc) || ((imm || vsrc) && (fSpan w || cont))),
     (0x07, (imm || vsrc) && !cont && (countOf w < 1 || 4 < countOf w)),
     (0x06, imm && !cont && wd w 3 != 0)]
  else []

/-- SINK (R90, R101), the queue operation (R91), entry indices (R83). -/
def checkForm (w : List Word) (idx count : Nat) : List (Nat × Bool) :=
  let op := opOf w
  let last := idx + 1 == count
  [(0x06, fSink w && op == 0x01 && (wd w 2 != 0 || wd w 3 != 0)),
   (0x04, fSink w && op == 0x0C && tgtOf w != 0xF0),
   (0x06, fSink w && op == 0x0C && (wd w 5 != 0 || wd w 6 != 0)),
   (0x06, op == 0x0D && 5 ≤ fieldOf (wd w 5) 0 3),
   (0x08, op == 0x05 && count ≤ fieldOf (wd w 4) 0 16),
   (0x08, last && fOnward w && op != 0x05 && op != 0x1F)]

/-- Data chains (R97 to R99): `next` is the following entry, `sum` the counts of the chain before this entry. -/
def checkChain (w : List Word) (idx count : Nat) (cont : Bool) (next : Option (List Word)) (sum : Nat) : List (Nat × Bool) :=
  let op := opOf w
  let differs := match next with
    | some n => opOf n != op || tgtOf n != tgtOf w
    | none => true
  let packet := op == 0x11 || (op == 0x02 && tgtOf w == 0xF0)
  [(0x04, fSpan w && tgtOf w == 0xF4 && (op == 0x01 || op == 0x02)),
   (0x09, fSpan w && (fOnward w || fPost w || fBar w || fEvt w)),
   (0x09, fSpan w && (idx + 1 == count || differs)),
   (0x09, cont && (fPause w || fRpt w || tmoOf w != 0 || condOf w != 15 || wd w 4 != 0 || wd w 5 != 0 || wd w 6 != 0)),
   (0x07, cont && packet && maxPacket < sum + countOf w)]

/-- The extended status of FORMAT_ERROR at step 2: the lowest of those that apply (R73). -/
def formatExt (w : List Word) (idx count vev : Nat) (cont : Bool) (next : Option (List Word)) (sum : Nat) : Option Nat :=
  if reservedOp (opOf w) then some 0x03
  else
    match operandRow w with
    | none => some 0x04
    | some r =>
      (extsOf (checkOperands w r ++ checkFlags w vev ++ checkSource w cont ++ checkForm w idx count
        ++ checkChain w idx count cont next sum)).min?

/-! ## Charges (R126) -/

/-- `n / k` rounded up. -/
def ceilDiv (n k : Nat) : Nat := (n + k - 1) / k

/-- The byte term of an opcode. -/
def byteTerm (w : List Word) : Nat :=
  match opOf w with
  | 0x01 => if tgtOf w = 0xF4 then 0 else ceilDiv (countOf w) (if isPortTarget w then 8 else 16)
  | 0x02 => if tgtOf w = 0xF4 then 0 else ceilDiv (countOf w) (if isPortTarget w then 8 else 16)
  | 0x0C => ceilDiv (countOf w) 16
  | 0x11 => ceilDiv (countOf w) 16
  | _ => 0

/-- The fixed term of an opcode. -/
def fixedTerm (w : List Word) : Nat :=
  match opOf w with
  | 0x01 => if tgtOf w = 0xF0 then 24 else 16
  | 0x02 => if tgtOf w = 0xF0 then 24 else 16
  | 0x03 => 32
  | 0x04 => 16
  | 0x0A => 32
  | 0x0B => 24
  | 0x0C => 32
  | 0x0D => 12
  | 0x0E => 12
  | 0x10 => 64
  | 0x11 => 32
  | _ => 8

/-- Thread cycles of an entry that runs; POSTV posts one record. -/
def cyclesOf (w : List Word) (cont : Bool) : Nat :=
  (if cont then 8 else fixedTerm w) + byteTerm w + (if fPost w || opOf w == 0x0E then 8 else 0)
    + (if fEvt w then 4 else 0) + (if fBar w then 4 else 0)

/-- Cells charged to an entry. -/
def cellsOf (w : List Word) : Nat :=
  if (opOf w = 0x02 ∧ tgtOf w = 0xF0) ∨ opOf w = 0x11 ∨ (opOf w = 0x0C ∧ !fSink w) then ceilDiv (countOf w) 64 else 0

/-- Thread cycles and cells of a whole chain (R128). -/
def chainCharge : List (List Word) → Nat × Nat
  | [] => (0, 0)
  | w :: l =>
    let rest := l.foldl (fun (c : Nat × Nat) e => (c.1 + cyclesOf e true, c.2 + cellsOf e)) (0, 0)
    (cyclesOf w false + rest.1, cellsOf w + rest.2)

/-- Thread cycles of a skipped chain: 4 for each entry, and the SKIPPED record of the last. -/
def skipCharge (l : List (List Word)) : Nat :=
  4 * l.length + (if (l.getLast?.map fPost).getD false then 8 else 0)

end Sys2Proof.Machine
end

