-- ==== Sys2Proof/Machine/Crypto.lean ====
section
/-!
DEFINITION. The published algorithms that the specification names: SHA-256 (FIPS 180-4), AES (FIPS 197) with CMAC (SP 800-38B), GCM (SP 800-38D) and SP 800-108, ECDSA over P-256 (FIPS 186-5) with the nonce of RFC 6979, the CRC of R213, and the CRC-32 of IEEE 802.3. Byte sequences are lists of bytes in the order of the standards.
-/
namespace Sys2Proof.Machine

/-- The number that big-endian bytes spell (R474). -/
def beNat (l : List Byte) : Nat := l.foldl (fun n b => 256 * n + b.toNat) 0

/-- The `n` big-endian bytes of a number. -/
def beBytes (n x : Nat) : List Byte := (leBytes n x).reverse

/-- The bytes of a fixed-width value, byte 0 in the low bits. -/
def bvBytes {w : Nat} (n : Nat) (x : BitVec w) : List Byte := leBytes n x.toNat

/-! ## SHA-256 -/

/-- The 64 round constants of FIPS 180-4, word i in bits 32i upward. -/
def shaConst : Nat := 0xc67178f2bef9a3f7a4506ceb90befffa8cc7020884c8781478a5636f748f82ee682e6ff35b9cca4f4ed8aa4a391c0cb334b0bcb52748774c1e376c0819a4c116106aa070f40e3585d6990624d192e819c76c51a3c24b8b70a81a664ba2bfe8a192722c8581c2c92e766a0abb650a735453380d134d2c6dfc2e1b213827b70a851429296706ca6351d5a79147c6e00bf3bf597fc7b00327c8a831c66d983e515276f988da5cb0a9dc4a7484aa2de92c6f240ca1cc0fc19dc6efbe4786e49b69c1c19bf1749bdc06a780deb1fe72be5d74550c7dc3243185be12835b01d807aa98ab1c5ed5923f82a459f111f13956c25be9b5dba5b5c0fbcf71374491428a2f98

/-- The initial hash value of FIPS 180-4. -/
def shaInit : List Word := [0x6a09e667, 0xbb67ae85, 0x3c6ef372, 0xa54ff53a, 0x510e527f, 0x9b05688c, 0x1f83d9ab, 0x5be0cd19]

/-- The function of FIPS 180-4 4.1.2 that rotates by the first two counts and shifts or rotates by the third. -/
def shaSmall (a b c : Nat) (x : Word) : Word := x.rotateRight a ^^^ x.rotateRight b ^^^ (x >>> c)
/-- The three-rotation function of FIPS 180-4 4.1.2. -/
def shaBig (a b c : Nat) (x : Word) : Word := x.rotateRight a ^^^ x.rotateRight b ^^^ x.rotateRight c

/-- The message schedule: 48 further words after the first 16; `w` holds the latest 16, newest last. -/
def shaExpand : Nat → List Word → List Word
  | 0, _ => []
  | n + 1, w =>
    let x := shaSmall 17 19 10 (w.getD 14 0) + w.getD 9 0 + shaSmall 7 18 3 (w.getD 1 0) + w.getD 0 0
    x :: shaExpand n (w.drop 1 ++ [x])

/-- One round. -/
def shaRound (v : List Word) (k w : Word) : List Word :=
  match v with
  | [a, b, c, d, e, f, g, h] =>
    let t1 := h + shaBig 6 11 25 e + ((e &&& f) ^^^ (~~~e &&& g)) + k + w
    let t2 := shaBig 2 13 22 a + ((a &&& b) ^^^ (a &&& c) ^^^ (b &&& c))
    [t1 + t2, a, b, c, d + t1, e, f, g]
  | _ => v

/-- The rounds over the schedule, from round `i`. -/
def shaRounds : Nat → List Word → List Word → List Word
  | _, [], v => v
  | i, w :: ws, v => shaRounds (i + 1) ws (shaRound v (BitVec.ofNat 32 (shaConst >>> (32 * i))) w)

/-- The words of a byte list, four bytes big-endian each. -/
def beWords : List Byte → List Word
  | a :: b :: c :: d :: l => (a ++ b ++ c ++ d : BitVec 32) :: beWords l
  | _ => []

/-- The hash of `n` padded blocks. -/
def shaBlocks : Nat → List Byte → List Word → List Word
  | 0, _, h => h
  | n + 1, m, h =>
    let w := beWords (m.take 64)
    let v := shaRounds 0 (w ++ shaExpand 48 w) h
    shaBlocks n (m.drop 64) ((h.zip v).map fun p => p.1 + p.2)

/-- SHA-256 of a byte list, 32 bytes. -/
def sha256 (m : List Byte) : List Byte :=
  let z := (119 - m.length % 64) % 64
  let p := m ++ [0x80] ++ List.replicate z 0 ++ beBytes 8 (8 * m.length)
  (shaBlocks (p.length / 64) p shaInit).flatMap fun w => beBytes 4 w.toNat

/-- SHA-256 as a value with byte 0 in the low bits. -/
def sha256v (m : List Byte) : BitVec 256 := BitVec.ofNat 256 (leNat (sha256 m))

/-- HMAC-SHA-256 (RFC 2104). -/
def hmac (k m : List Byte) : List Byte :=
  let k := if k.length > 64 then sha256 k else k
  let k := k ++ List.replicate (64 - k.length) 0
  sha256 (k.map (· ^^^ 0x5c) ++ sha256 (k.map (· ^^^ 0x36) ++ m))

/-! ## AES -/

/-- The S-box of FIPS 197, entry i in bits 8i upward. -/
def aesBox : Nat := 0x16bb54b00f2d99416842e6bf0d89a18cdf2855cee9871e9b948ed9691198f8e19e1dc186b95735610ef6034866b53e708a8bbd4b1f74dde8c6b4a61c2e2578ba08ae7a65eaf4566ca94ed58d6d37c8e779e4959162acd3c25c2406490a3a32e0db0b5ede14b8ee4688902a22dc4f816073195d643d7ea7c41744975fec130ccdd2f3ff1021dab6bcf5389d928f40a351a89f3c507f02f94585334d43fbaaefd0cf584c4a39becb6a5bb1fc20ed00d153842fe329b3d63b52a05a6e1b1a2c830975b227ebe28012079a059618c323c7041531d871f1e5a534ccf73f362693fdb7c072a49cafa2d4adf04759fa7dc982ca76abd7fe2b670130c56f6bf27b777c63

/-- SubBytes of one byte. -/
def aesSub (x : Byte) : Byte := BitVec.ofNat 8 (aesBox >>> (8 * x.toNat))

/-- Multiplication by x in the field of FIPS 197. -/
def aesDouble (x : Byte) : Byte := (x <<< 1) ^^^ (if x.msb then 0x1b else 0)

/-- The byte-wise exclusive or of two lists. -/
def xorBytes (a b : List Byte) : List Byte := (a.zip b).map fun p => p.1 ^^^ p.2

/-- The words of the key schedule, oldest first, as 4-byte lists; `nk` is 4 or 8, `i` the index of the next word. -/
def aesExpand (nk : Nat) : Nat → Nat → Byte → List (List Byte) → List (List Byte)
  | 0, _, _, w => w
  | n + 1, i, rc, w =>
    let t := w.getLastD []
    let t' :=
      if i % nk = 0 then xorBytes ((t.drop 1 ++ t.take 1).map aesSub) [rc, 0, 0, 0]
      else if nk = 8 ∧ i % 8 = 4 then t.map aesSub else t
    let x := xorBytes (w.getD (w.length - nk) []) t'
    aesExpand nk n (i + 1) (if i % nk = 0 then aesDouble rc else rc) (w ++ [x])

/-- A byte list in pieces of `k` bytes. -/
def chunks (k : Nat) : Nat → List Byte → List (List Byte)
  | 0, _ => []
  | n + 1, l => l.take k :: chunks k n (l.drop k)

/-- ShiftRows on 16 bytes in column order. -/
def aesShift (s : List Byte) : List Byte := (List.range 16).map fun i => s.getD ((i + 4 * (i % 4)) % 16) 0

/-- MixColumns of one column. -/
def aesMix (c : List Byte) : List Byte :=
  match c with
  | [a, b, d, e] =>
    [aesDouble a ^^^ aesDouble b ^^^ b ^^^ d ^^^ e, a ^^^ aesDouble b ^^^ aesDouble d ^^^ d ^^^ e,
     a ^^^ b ^^^ aesDouble d ^^^ aesDouble e ^^^ e, aesDouble a ^^^ a ^^^ b ^^^ d ^^^ aesDouble e]
  | _ => c

/-- The rounds, given the round keys left. -/
def aesRounds : List (List Byte) → List Byte → List Byte
  | [], s => s
  | [k], s => xorBytes (aesShift (s.map aesSub)) k
  | k :: ks, s => aesRounds ks (xorBytes ((chunks 4 4 (aesShift (s.map aesSub))).flatMap aesMix) k)

/-- AES encryption of one block under a 16- or 32-byte key. -/
def aes (key block : List Byte) : List Byte :=
  let nk := key.length / 4
  let w := aesExpand nk (4 * (nk + 7) - nk) nk 1 (chunks 4 nk key)
  match chunks 16 (nk + 7) w.flatten with
  | k :: ks => aesRounds ks (xorBytes block k)
  | [] => block

/-- Doubling in the field of SP 800-38B, on 16 big-endian bytes. -/
def cmacDouble (l : List Byte) : List Byte :=
  let n := 2 * beNat l
  beBytes 16 (if n ≥ 2 ^ 128 then (n % 2 ^ 128) ^^^ 0x87 else n)

/-- The CBC chain of CMAC over the blocks before the last. -/
def cmacChain (key : List Byte) : Nat → List Byte → List Byte → List Byte × List Byte
  | 0, x, m => (x, m)
  | n + 1, x, m => cmacChain key n (aes key (xorBytes x (m.take 16))) (m.drop 16)

/-- AES-CMAC, 16 bytes. -/
def cmac (key m : List Byte) : List Byte :=
  let k1 := cmacDouble (aes key (List.replicate 16 0))
  let (x, r) := cmacChain key ((m.length + 15) / 16 - 1) (List.replicate 16 0) m
  let last := if r.length = 16 then xorBytes r k1
    else xorBytes (r ++ [0x80] ++ List.replicate (15 - r.length) 0) (cmacDouble k1)
  aes key (xorBytes x last)

/-- The first `n` bytes of counter-mode output of SP 800-108 under `key` (R483): block i is CMAC of i, the label, 0 and the length in bits. -/
def kdf (key label : List Byte) (n : Nat) : List Byte :=
  ((cmac key ([1] ++ label ++ [0] ++ leBytes 2 (8 * n))) ++ (cmac key ([2] ++ label ++ [0] ++ leBytes 2 (8 * n)))).take n

/-- Multiplication in the field of SP 800-38D: `x` and `y` big-endian numbers, bit 0 of the standard the most significant. -/
def ghashMul : Nat → Nat → Nat → Nat → Nat
  | 0, _, _, z => z
  | n + 1, x, v, z =>
    ghashMul n x (if v % 2 = 1 then (v / 2) ^^^ (0xe1 <<< 120) else v / 2) (if x.testBit n then z ^^^ v else z)

/-- GHASH over `n` blocks. -/
def ghash (h : Nat) : Nat → List Byte → Nat → Nat
  | 0, _, y => y
  | n + 1, m, y => ghash h n (m.drop 16) (ghashMul 128 (y ^^^ beNat (m.take 16)) h 0)

/-- A byte list padded with zeros to whole blocks. -/
def padBlock (l : List Byte) : List Byte := l ++ List.replicate ((16 - l.length % 16) % 16) 0

/-- The key stream of GCM from counter value `c`. -/
def gcmStream (key iv : List Byte) : Nat → Nat → List Byte
  | 0, _ => []
  | n + 1, c => aes key (iv ++ beBytes 4 c) ++ gcmStream key iv n (c + 1)

/-- The tag of GCM over additional data and ciphertext. -/
def gcmTag (key iv aad ct : List Byte) : List Byte :=
  let h := beNat (aes key (List.replicate 16 0))
  let m := padBlock aad ++ padBlock ct ++ beBytes 8 (8 * aad.length) ++ beBytes 8 (8 * ct.length)
  xorBytes (aes key (iv ++ [0, 0, 0, 1])) (beBytes 16 (ghash h (m.length / 16) m 0))

/-- AES-GCM encryption with a 12-byte IV; it is its own inverse on the text. -/
def gcmCrypt (key iv m : List Byte) : List Byte := xorBytes m (gcmStream key iv ((m.length + 15) / 16) 2)

/-! ## ECDSA over P-256 -/

/-- The field prime of P-256. -/
def p256p : Nat := 2 ^ 256 - 2 ^ 224 + 2 ^ 192 + 2 ^ 96 - 1
/-- The group order of P-256. -/
def p256n : Nat := 0xffffffff00000000ffffffffffffffffbce6faada7179e84f3b9cac2fc632551
/-- The coefficient b of P-256. -/
def p256b : Nat := 0x5ac635d8aa3a93e7b3ebbd55769886bc651d06b0cc53b0f63bce3c3e27d2604b
/-- The base point of P-256. -/
def p256g : Nat × Nat :=
  (0x6b17d1f2e12c4247f8bce6e563a440f277037d812deb33a0f4a13945d898c296,
   0x4fe342e2fe1a7f9b8ee7eb4a7c0f9e162bce33576b315ececbb6406837bf51f5)

/-- `b ^ e` modulo `m`, over the `n` low bits of `e`. -/
def powMod (m b e : Nat) : Nat → Nat
  | 0 => 1 % m
  | n + 1 =>
    let r := powMod m b (e / 2) n
    let q := r * r % m
    if e % 2 = 1 then q * b % m else q

/-- The inverse modulo a prime. -/
def invMod (m a : Nat) : Nat := powMod m (a % m) (m - 2) 256

/-- A point in Jacobian coordinates; z = 0 is the point at infinity. -/
structure JPoint where
  x : Nat
  y : Nat
  z : Nat
deriving DecidableEq, Repr

/-- `a - b` modulo p. -/
def subP (a b : Nat) : Nat := (a + p256p - b) % p256p

/-- The double of a point. -/
def jDouble (a : JPoint) : JPoint :=
  let d := a.z * a.z % p256p
  let g := a.y * a.y % p256p
  let b := a.x * g % p256p
  let al := 3 * subP a.x d * (a.x + d) % p256p
  let x := subP (al * al % p256p) (8 * b % p256p)
  let zz := a.y + a.z
  ⟨x, subP (al * subP (4 * b % p256p) x % p256p) (8 * g * g % p256p), subP (subP (zz * zz % p256p) g) d⟩

/-- The sum of two points. -/
def jAdd (a b : JPoint) : JPoint :=
  if a.z = 0 then b else if b.z = 0 then a else
    let za := a.z * a.z % p256p
    let zb := b.z * b.z % p256p
    let u1 := a.x * zb % p256p
    let u2 := b.x * za % p256p
    let s1 := a.y * b.z % p256p * zb % p256p
    let s2 := b.y * a.z % p256p * za % p256p
    if u1 = u2 then (if s1 = s2 then jDouble a else ⟨1, 1, 0⟩) else
      let h := subP u2 u1
      let r := subP s2 s1
      let hh := h * h % p256p
      let hhh := h * hh % p256p
      let v := u1 * hh % p256p
      let x := subP (subP (r * r % p256p) hhh) (2 * v % p256p)
      ⟨x, subP (r * subP v x % p256p) (s1 * hhh % p256p), a.z * b.z % p256p * h % p256p⟩

/-- `k` times a point, over the `n` low bits of `k`. -/
def jMul (a : JPoint) (k : Nat) : Nat → JPoint
  | 0 => ⟨1, 1, 0⟩
  | n + 1 =>
    let d := jDouble (jMul a (k / 2) n)
    if k % 2 = 1 then jAdd d a else d

/-- The affine coordinates of a point other than infinity. -/
def jAffine (a : JPoint) : Nat × Nat :=
  let i := invMod p256p a.z
  let i2 := i * i % p256p
  (a.x * i2 % p256p, a.y * i2 % p256p * i % p256p)

/-- Whether a public key is a point of the curve (R474). -/
def onCurve (key : List Byte) : Bool :=
  let x := beNat (key.take 32)
  let y := beNat (key.drop 32)
  key.length == 64 && x < p256p && y < p256p && (y * y) % p256p == (x * x * x + p256b + (p256p - 3) * x) % p256p

/-- ECDSA verification of a signature over a digest (R474). -/
def ecdsaVerify (key digest sig : List Byte) : Bool :=
  let r := beNat (sig.take 32)
  let t := beNat (sig.drop 32)
  if onCurve key && sig.length == 64 && 1 ≤ r && r < p256n && 1 ≤ t && t < p256n then
    let w := invMod p256n t
    let q : JPoint := ⟨beNat (key.take 32), beNat (key.drop 32), 1⟩
    let a := jAdd (jMul ⟨p256g.1, p256g.2, 1⟩ (beNat digest * w % p256n) 256) (jMul q (r * w % p256n) 256)
    a.z != 0 && (jAffine a).1 % p256n == r
  else false

/-- The nonce of RFC 6979, trying at most `n` candidates. -/
def nonceTry (k v : List Byte) : Nat → Nat
  | 0 => 1
  | n + 1 =>
    let v := hmac k v
    if 1 ≤ beNat v ∧ beNat v < p256n then beNat v
    else
      let k := hmac k (v ++ [0])
      nonceTry k (hmac k v) n

/-- ECDSA signature over a digest with the deterministic nonce of RFC 6979 (R485), 64 bytes. -/
def ecdsaSign (d : Nat) (digest : List Byte) : List Byte :=
  let xh := beBytes 32 d ++ beBytes 32 (beNat digest % p256n)
  let v := List.replicate 32 (1 : Byte)
  let k := hmac (List.replicate 32 0) (v ++ [0] ++ xh)
  let v := hmac k v
  let k := hmac k (v ++ [1] ++ xh)
  let v := hmac k v
  let n := nonceTry k v 8
  let r := (jAffine (jMul ⟨p256g.1, p256g.2, 1⟩ n 256)).1 % p256n
  beBytes 32 r ++ beBytes 32 (invMod p256n n * (beNat digest + r * d) % p256n)

/-- The public key of a private scalar, 64 bytes. -/
def ecdsaPublic (d : Nat) : List Byte :=
  let a := jAffine (jMul ⟨p256g.1, p256g.2, 1⟩ d 256)
  beBytes 32 a.1 ++ beBytes 32 a.2

/-! ## The CRC of the safety port (R213) -/

/-- One bit of the CRC-16 with polynomial 0x1021. -/
def crcBits : Nat → BitVec 16 → BitVec 16
  | 0, c => c
  | n + 1, c => crcBits n ((c <<< 1) ^^^ (if c.msb then 0x1021 else 0))

/-- CRC-16 over bytes, initial value 0xFFFF (R213). -/
def crc16 (l : List Byte) : BitVec 16 :=
  l.foldl (fun (c : BitVec 16) (b : Byte) => crcBits 8 (c ^^^ (BitVec.setWidth 16 b <<< (8 : Nat)))) 0xFFFF

/-! ## The FCS of IEEE 802.3 (R400) -/

/-- One bit of the reflected CRC-32. -/
def crc32Bits : Nat → BitVec 32 → BitVec 32
  | 0, c => c
  | n + 1, c => crc32Bits n ((c >>> 1) ^^^ (if c.getLsbD 0 then 0xEDB88320 else 0))

/-- The CRC-32 of IEEE 802.3 over bytes. -/
def crc32 (l : List Byte) : BitVec 32 :=
  ~~~ l.foldl (fun (c : BitVec 32) (b : Byte) => crc32Bits 8 (c ^^^ BitVec.setWidth 32 b)) 0xFFFFFFFF

end Sys2Proof.Machine
end

