-- ==== Sys2Proof/Machine/PortHardware.lean ====
section
/-!
DEFINITION. The parts of a port: instruction banks and image header, local events, shift units, timer channels, edge detectors, and what its pins drive (10_rorid_architecture.md R311, R314, R318; 12_port_hardware.md R361 to R370, R379, R380; 13_bus_roles.md R392, R400).
-/
namespace Sys2Proof.Machine

/-! ## Parts of a port -/

/-- The active instruction bank. -/
def activeBank (q : Port) : IBank := if q.active then q.bankB else q.bankA
/-- The inactive instruction bank. -/
def inactiveBank (q : Port) : IBank := if q.active then q.bankA else q.bankB
/-- The port with its active bank changed. -/
def modActive (q : Port) (f : IBank → IBank) : Port :=
  if q.active then { q with bankB := f q.bankB } else { q with bankA := f q.bankA }
/-- The port with its inactive bank changed. -/
def modInactive (q : Port) (f : IBank → IBank) : Port :=
  if q.active then { q with bankA := f q.bankA } else { q with bankB := f q.bankB }

/-- Word `k` of the running image's header (R314). -/
def imageHdr (q : Port) (k : Nat) : Word := tGet (activeBank q).hdr k 0
/-- `MODE`: mode C (R314). -/
def imageModeC (q : Port) : Bool := (imageHdr q 1).getLsbD 0
/-- `SAT` (R314). -/
def imageSat (q : Port) : Bool := (imageHdr q 1).getLsbD 1
/-- `AOV_TRAP` (R314). -/
def imageAovTrap (q : Port) : Bool := (imageHdr q 1).getLsbD 2
/-- `IST_EN` (R314). -/
def imageIstEn (q : Port) : Bool := (imageHdr q 1).getLsbD 4
/-- `IN_WORDS` (R314). -/
def imageInWords (q : Port) : Nat := fieldOf (imageHdr q 7) 0 7
/-- `OUT_WORDS` (R314). -/
def imageOutWords (q : Port) : Nat := fieldOf (imageHdr q 7) 16 7
/-- `SAFE` code of pin `k` (R314). -/
def imageSafe (q : Port) (k : Nat) : BitVec 2 := BitVec.ofNat 2 (fieldOf (imageHdr q 8) (2 * k) 2)
/-- `FAB_BASE` (R314). -/
def imageFabBase (q : Port) : Nat := fieldOf (imageHdr q 6) 0 15
/-- `FAB_LEN` (R314). -/
def imageFabLen (q : Port) : Nat := fieldOf (imageHdr q 6) 16 16

/-- The input level of pin `k` (R362). -/
def pinLevel (q : Port) (k : Nat) : Bool :=
  let x := tGet q.pins k {}
  x.ball != x.cfg.getLsbD 12

/-- A local event becomes pending (R364). -/
def pendEvent (s : State) (p k : Nat) : State := modPort s p fun q => { q with evPend := q.evPend ||| (1 <<< k) }

/-- A status flag of R385 is set: 0 `SWAPPED`, 1 and 2 shift units aborted, 3 `IMAGE_IRQ`; source p is raised at the change from 0 to 1. -/
def setPortFlag (s : State) (p k : Nat) : State :=
  if (portOf s p).flags.getLsbD k then s
  else raise (modPort s p fun q => { q with flags := q.flags ||| (1 <<< k) }) p

/-! ## Shift units (R379, R380) -/

/-- Shift unit `u` of a port. -/
def shiftOf (q : Port) (u : Nat) : Shift := tGet q.shifts u {}
/-- The state with a shift unit changed. -/
def modShift (s : State) (p u : Nat) (f : Shift → Shift) : State :=
  modPort s p fun q => { q with shifts := tUpd q.shifts u {} f }

/-- `DIR`, 0 where `CODE` turns the unit off (R379). -/
def shiftDir (x : Shift) : Nat := if fieldOf x.cfg 2 2 = 3 then 0 else fieldOf x.cfg 0 2

/-- The threshold conditions of event 10 + u (R364, R379). -/
def shiftWants (x : Shift) : Bool :=
  (x.isOpen && x.tx.length ≤ fieldOf x.cfg 23 3) || fieldOf x.cfg 26 3 < x.rx.length

/-- Some flag of `SHu_STAT` is set. -/
def shiftFlags (x : Shift) : Nat :=
  (if x.txovf then 1 else 0) + (if x.rxovr then 2 else 0) + (if x.ferr then 4 else 0) + (if x.aborted then 8 else 0)

/-- Some cause of event 10 + u holds (R364). -/
def shiftCause (x : Shift) : Bool := shiftWants x || shiftFlags x != 0

/-- The bit clock is the input level of a pin (R379): `EXTCLK`, under NRZ. -/
def clockedOutside (x : Shift) : Bool := fieldOf x.cfg 2 2 == 0 && x.cfg.getLsbD 12

/-- The unit has a bit clock: its own, or that of the pin that `CLKPIN` names; 6 and 7 name none (log 110). -/
def hasClock (x : Shift) : Bool := !clockedOutside x || decide (fieldOf x.cfg 19 3 < 6)

/-- The receiver runs on the unit's own clock, together with the transmitter (R379, R380). -/
def shiftCoupled (x : Shift) : Bool := fieldOf x.cfg 2 2 == 0 && !x.cfg.getLsbD 12

/-- The unit starts a word that waits, opening a frame (R380). -/
def shiftFeed (x : Shift) : Shift :=
  match shiftDir x, x.sr, x.tx with
  | 1, none, w :: l => { x with sr := some w, tx := l, isOpen := true, stall := x.done.isSome }
  | 3, none, w :: l => if x.done.isSome then x else { x with sr := some w, tx := l, isOpen := true, stall := false }
  | _, _, _ => x

/-- A unit whose frame is open and that has no word to send is stalled (R380). -/
def shiftStarve (x : Shift) : Shift := if x.isOpen && x.sr.isNone then { x with stall := true } else x

/-- A shift unit changes; event 10 + u is pending while one of its causes holds. -/
def changeShift (s : State) (p u : Nat) (f : Shift → Shift) : State :=
  let y := f (shiftOf (portOf s p) u)
  let s := modShift s p u fun _ => y
  if shiftCause y then pendEvent s p (10 + u) else s

/-- The events 10 and 11 whose causes hold become pending. -/
def repend (s : State) (p : Nat) : State :=
  (List.range 2).foldl (fun s u => if shiftCause (shiftOf (portOf s p) u) then pendEvent s p (10 + u) else s) s

/-- Pending events of a mask are cleared; what still has its cause is pending again (R364). -/
def clearEvents (s : State) (p : Nat) (m : Word) : State :=
  repend (modPort s p fun q => { q with evPend := q.evPend &&& ~~~ m }) p

/-- A push into the TX FIFO (R379). -/
def shiftPush (s : State) (p u : Nat) (w : Word) (last : Bool) : State :=
  changeShift s p u fun x =>
    if 8 ≤ x.tx.length then { x with txovf := true } else shiftFeed { x with tx := x.tx ++ [(w, last)] }

/-- The word that an IN of `SHu_RX` returns (R379). -/
def shiftHead (x : Shift) : Word :=
  let n := fieldOf x.cfg 5 5 + 1
  BitVec.ofNat 32 ((x.rx.headD 0).toNat % 2 ^ n)

/-- An IN of `SHu_RX` pops the oldest word; the room it makes ends a stall (R379, R380). -/
def shiftPop (s : State) (p u : Nat) : State :=
  changeShift s p u fun x =>
    match x.rx with
    | [] => x
    | _ :: l =>
      match x.done with
      | some w => shiftStarve (shiftFeed { x with rx := l ++ [w], done := none, stall := false })
      | none => { x with rx := l }

/-- `SHu_STAT` (R379). -/
def shiftStat (x : Shift) : Word :=
  BitVec.ofNat 32 (x.tx.length + 16 * x.rx.length + (if x.isOpen then 2 ^ 8 else 0) + (if x.stall then 2 ^ 9 else 0)
    + shiftFlags x * 2 ^ 10)

/-- An abort of a stalled unit (R384). -/
def abortShift (s : State) (p u : Nat) : State :=
  let s := changeShift s p u fun x =>
    { x with sr := none, done := none, tx := [], isOpen := false, stall := false, aborted := true }
  bumpPort s p 1

/-! ## What a shift unit puts out (R379, R380) -/

/-- The bits of a word in the order in which they leave. -/
def shiftBits (x : Shift) (w : Word) : List Bool :=
  let l := (List.range (fieldOf x.cfg 5 5 + 1)).map fun i => w.getLsbD i
  if x.cfg.getLsbD 4 then l.reverse else l

/-- The word that shifts out. -/
def shiftingOut (x : Shift) : Option Word :=
  if shiftDir x = 1 ∨ shiftDir x = 3 then x.sr.map Prod.fst else none

/-- The levels of the data output, each for half a bit: those of the word that shifts, with its framing; otherwise one level, which is `IDLE`, or in a stall under NRZ the last bit. -/
def shiftData (x : Shift) : List Bool :=
  let idle := x.cfg.getLsbD 15
  match shiftingOut x, fieldOf x.cfg 2 2 with
  | some w, 1 => (shiftBits x w).flatMap fun b => [!b, b]
  | some w, 2 =>
    [false, false] ++ (shiftBits x w).flatMap (fun b => [b, b]) ++ List.replicate (if x.cfg.getLsbD 29 then 4 else 2) true
  | some w, _ => (shiftBits x w).flatMap fun b => [b, b]
  | none, c => [if x.stall && c == 0 then x.lastBit else idle]

/-- The levels of the clock output, each for half a bit: the internal bit clock of NRZ while a word shifts, `CPOL` otherwise. -/
def shiftClock (x : Shift) : List Bool :=
  let rest := x.cfg.getLsbD 13
  match shiftingOut x with
  | some w =>
    if shiftCoupled x then (shiftBits x w).flatMap fun _ => if x.cfg.getLsbD 14 then [!rest, rest] else [rest, !rest] else [rest]
  | none => [rest]

/-- The level of the select output: low while a frame is open, under `SELEN`. -/
def shiftSelect (x : Shift) : Bool := !(x.cfg.getLsbD 22 && x.isOpen)

/-! ## What a shift unit receives (R379, R380) -/

/-- The samples of a bit: as many as `OVS` gives; one on an external clock (R379; log 110). -/
def shiftSamples (x : Shift) : Nat :=
  match clockedOutside x, fieldOf x.cfg 10 2 with
  | true, _ => 1
  | false, 0 => 1
  | false, 1 => 3
  | false, 2 => 8
  | false, _ => 16

/-- What the unit sees of a bit's samples at the ball: the input level of `DINPIN`, which `IINV` inverts (R362); 6 and 7 name no pin. -/
def inputSamples (q : Port) (x : Shift) (l : List Bool) : List Bool :=
  let k := fieldOf x.cfg 16 3
  if k < 6 then l.map (· != (tGet q.pins k {}).cfg.getLsbD 12) else []

/-- The majority of three samples of a bit, from sample `i` on. -/
def majority (l : List Bool) (i : Nat) : Bool := 2 ≤ ((l.drop i).take 3).count true

/-- The bit that samples give: the single sample, or the majority of the middle three. Of an even number of samples no three are the middle; where the two triples beside the middle differ, the bit is not stated, nor is it where the bit has no sample (log 110). -/
def sampledBit (l : List Bool) : Option Bool :=
  match l with
  | [b] => some b
  | [] => none
  | l => if majority l ((l.length - 3) / 2) = majority l ((l.length - 2) / 2) then some (majority l ((l.length - 3) / 2)) else none

/-- The bit that the levels of its two halves give under Manchester: 0 is a transition from high to low; a bit without one is not stated. -/
def manchesterBit : List Bool → Option Bool
  | [a, b] => if a = b then none else some b
  | _ => none

/-- The bit that the samples of one bit time give; too few of them leave it open. -/
def bitOf (x : Shift) (l : List Bool) : Option Bool :=
  if fieldOf x.cfg 2 2 = 1 then manchesterBit l
  else if l.length < shiftSamples x then none else sampledBit (l.take (shiftSamples x))

/-- The bits of a received word, those not stated absent. -/
def receivedBits (x : Shift) (l : List (List Bool)) : List (Option Bool) :=
  (List.range (fieldOf x.cfg 5 5 + 1)).map fun i => bitOf x (l.getD i [])

/-- The word that bits in the order of the line spell, bits not stated being those of `w`. -/
def lineWord (x : Shift) (w : Word) (l : List (Option Bool)) : Word :=
  let l := l.zipIdx.map fun b => b.1.getD (w.getLsbD b.2)
  BitVec.ofNat 32 ((if x.cfg.getLsbD 4 then l.reverse else l).foldr (fun b n => 2 * n + if b then 1 else 0) 0)

/-- `FERR`: a stop bit was 0 under UART framing, or a bit had no mid-bit transition under Manchester. -/
def framingBad (x : Shift) (l stops : List (List Bool)) : Bool :=
  match fieldOf x.cfg 2 2 with
  | 1 => (receivedBits x l).any (·.isNone)
  | 2 => (stops.take (if x.cfg.getLsbD 29 then 2 else 1)).any fun b => bitOf x b == some false
  | _ => false

/-! ## Timers and edges (R367 to R369) -/

/-- Timer channel `c` of a port. -/
def timerOf (q : Port) (c : Nat) : Timer := tGet q.timers c {}
/-- The state with a timer channel changed. -/
def modTimer (s : State) (p c : Nat) (f : Timer → Timer) : State :=
  modPort s p fun q => { q with timers := tUpd q.timers c {} f }

/-- `MODE` of a timer: 0 FREE, 1 PERIODIC, 2 CAPTURE, 3 ONESHOT. -/
def timerMode (t : Timer) : Nat := fieldOf t.ctl 2 2
/-- Writes to `CMP` and `AUX` wait for the next wrap. -/
def timerBuf (t : Timer) : Bool := t.ctl.getLsbD 4 && timerMode t == 1

/-- A write of a timer register (R367, R368). -/
def timerWrite (t : Timer) (r : Nat) (w : Word) : Timer :=
  match r with
  | 0 =>
    let t := { t with ctl := w &&& 0x00FF1F7F }
    if timerMode t = 3 ∧ t.ctl.getLsbD 0 then { t with cnt := 0 } else t
  | 1 => { t with cnt := w }
  | 2 => if timerBuf t then { t with nextCmp := some w } else { t with cmp := w }
  | _ => if timerMode t = 2 then t else if timerBuf t then { t with nextAux := some w } else { t with aux := w }

/-- The value of a timer register. -/
def timerRead (t : Timer) (r : Nat) : Word :=
  match r with
  | 0 => t.ctl
  | 1 => t.cnt
  | 2 => t.cmp
  | _ => t.aux

/-- Bit `k` of a mask is the Boolean `f k`, for `k` below `n`. -/
def packBits (n : Nat) (f : Nat → Bool) : Nat := (List.range n).foldl (fun x k => if f k then x + 2 ^ k else x) 0

/-- Edge detector `k` of a port. -/
def edgeOf (q : Port) (k : Nat) : Edge := tGet q.edges k {}

/-- The level that a timer channel puts out (R368). -/
def timerOut (t : Timer) : Bool :=
  match timerMode t with
  | 0 => t.toggle
  | 1 => decide (t.cnt.toNat < t.cmp.toNat)
  | 2 => false
  | _ => t.ctl.getLsbD 0

/-- The filter length of a pin in ns (R361): CLK_PROT cycles of 12.5 ns. -/
def filterNs (cfg : Word) : Nat :=
  match fieldOf cfg 13 2 with
  | 0 => 0
  | 1 => 25
  | 2 => 100
  | _ => 400

/-- The timestamp of a capture (R370). -/
def captureTime (s : State) (cfg : Word) : BitVec 64 := BitVec.ofNat 64 s.tb.time - BitVec.ofNat 64 (25 + filterNs cfg)

/-- Edge detector `k` is set to capture the edge that leads to input level `high` (R369). -/
def edgeChosen (q : Port) (k : Nat) (high : Bool) : Bool := q.edgeCfg.getLsbD (if high then k else 8 + k)

/-- A selected edge at detector `k` (R369). -/
def captureEdge (s : State) (p k : Nat) : State :=
  let q := portOf s p
  let x := edgeOf q k
  let ts := captureTime s (tGet q.pins k {}).cfg
  let put (f : Edge → Edge) (s : State) : State := modPort s p fun q => { q with edges := tUpd q.edges k {} f }
  if !x.full then pendEvent (put (fun x => { x with ts := ts, full := true }) s) p (4 + k)
  else
    let s := bumpPort (put (fun x => { x with ovr := true }) s) p 2
    if q.edgeCfg.getLsbD (16 + k) then pendEvent (put (fun x => { x with ts := ts }) s) p (4 + k) else s

/-- The timer channels in CAPTURE whose selected edge is this one of pin `k` catch their count (R367, R368). -/
def catchTimers (s : State) (p k : Nat) (high : Bool) : State :=
  (List.range 4).foldl (fun s c => modTimer s p c fun t =>
    if timerMode t == 2 && fieldOf t.ctl 8 3 == k && t.ctl.getLsbD (if high then 11 else 12) then { t with caught := some t.cnt } else t) s

/-- The input level of pin `k` changes to `high`: timers and the edge detector see the edge. -/
def inputEdge (s : State) (p k : Nat) (high : Bool) : State :=
  let s := catchTimers s p k high
  if edgeChosen (portOf s p) k high then captureEdge s p k else s

/-- The port changes; where the input level of pin `k` changes with it, the edge is seen (R362, R369). -/
def changeInput (s : State) (p k : Nat) (f : Port → Port) : State :=
  let t := modPort s p f
  if pinLevel (portOf t p) k != pinLevel (portOf s p) k then inputEdge t p k (pinLevel (portOf t p) k) else t

/-! ## The bus controller's mode and outputs (R392, R393, R400) -/

/-- `MODE` as it acts: 5 to 7 act as 0 (R393). -/
def busMode (b : BusCtl) : Nat := if 4 < fieldOf b.cfg 0 3 then 0 else fieldOf b.cfg 0 3

/-- A controller in a mode sends and receives frames of a format (R394, R400). -/
def modeCarries (mode fmt : Nat) : Bool :=
  match mode with
  | 1 => fmt == 0
  | 2 => fmt ≤ 1
  | 3 => fmt ≤ 2
  | 4 => fmt == 3
  | _ => false

/-- `FMT` of a frame (R390). -/
def frameFmt (f : TxFrame) : Nat := (f.bytes.getD 4 0).toNat % 8

/-- What leaves for a frame: in 10BASE-T1S mode the preamble, the frame padded to 64 bytes with its FCS, and the FCS (R400); otherwise the frame itself. -/
def wireBytes (b : BusCtl) (f : TxFrame) : List Byte :=
  if busMode b = 4 then
    let d := f.bytes.drop 64
    let d := d ++ List.replicate (60 - d.length) 0
    List.replicate 7 0x55 ++ [0xD5] ++ d ++ leBytes 4 (crc32 d).toNat
  else f.bytes

/-- The frame of this node that is on the wire. -/
def onTheWire (b : BusCtl) : Option TxFrame := b.tx.find? (·.onWire)

/-- The levels of output `BSEL` (R392): 0 is TXD, recessive while no frame of this node is on the wire; the levels that the standards give a frame are a free value (log 111). 1 is high during the data phase of a CAN XL frame, of this node or of another, under `XLTRX`. 2 and 3 are low. -/
def busOutput (b : BusCtl) (sel : Nat) : List Bool :=
  match sel, onTheWire b with
  | 0, some f => Config.wireLevels (busMode b) (wireBytes b f)
  | 0, none => [true]
  | 1, _ => [b.cfg.getLsbD 8 && busMode b == 3 && b.xlData]
  | _, _ => [false]

/-! ## What a pin drives (R311, R361, R362, R371) -/

/-- The levels of the source that `FUNC` selects, before `OINV`: one, or those of the word or frame under way in their order; none is high impedance (R361). -/
def pinSource (q : Port) (k : Nat) : Option (List Bool) :=
  let cfg := (tGet q.pins k {}).cfg
  match fieldOf cfg 0 4 with
  | 0 => some [q.pinOut.getLsbD k]
  | 1 => some (busOutput q.bc (fieldOf cfg 18 2))
  | 2 => some (shiftData (shiftOf q 0))
  | 3 => some (shiftClock (shiftOf q 0))
  | 4 => some [shiftSelect (shiftOf q 0)]
  | 5 => some (shiftData (shiftOf q 1))
  | 6 => some (shiftClock (shiftOf q 1))
  | 7 => some [shiftSelect (shiftOf q 1)]
  | 8 => some [timerOut (timerOf q (fieldOf cfg 16 2))]
  | _ => none

/-- The level that `DRV` and `OINV` make of a source's level; none is high impedance (R361). -/
def pinDriver (cfg : Word) (b : Bool) : Option Bool :=
  let b := b != cfg.getLsbD 11
  match fieldOf cfg 4 2 with
  | 1 => some b
  | 2 => if b then none else some false
  | _ => none

/-- The level of a `SAFE` code (R314). -/
def safeLevel (c : BitVec 2) : Option Bool :=
  match c.toNat with
  | 1 => some false
  | 2 => some true
  | _ => none

/-- The levels that pin `k` of port `p` drives, in their order: high impedance while the domain is off (R363) or the group's supply is outside its ranges (R505); the image's safe level while the engine is FAILED, which overrides every function (R289, R311); the safe hold (R371); otherwise what `FUNC`, `OINV` and `DRV` give (R361). -/
def pinDrive (s : State) (p k : Nat) : List (Option Bool) :=
  let q := portOf s p
  let x := tGet q.pins k {}
  if !domainOn s (p / 4) || tGet s.pwr.vddio (p / 4) .out == .out then [none]
  else if q.eng.state = .failed then [safeLevel (imageSafe q k)]
  else
    match x.hold, pinSource q k with
    | some c, _ => [safeLevel c]
    | none, some l => l.map (pinDriver x.cfg)
    | none, none => [none]

/-- The level at a ball to which nothing outside drives a level, while the pin drives `d`: `PULL` gives it where the pin drives none (R361). -/
def pulledLevel (cfg : Word) (d : Option Bool) : Option Bool :=
  match d, fieldOf cfg 6 2 with
  | some b, _ => some b
  | none, 1 => some false
  | none, 2 => some true
  | none, _ => none

end Sys2Proof.Machine
end

