-- ==== Sys2Proof/Machine/PortOps.lean ====
section
/-!
DEFINITION. A port's hardware: its I/O registers as IN reads and OUT writes them, local events, requests, shift units, the bus controller's registers, failure, safe state and entry to NO_IMAGE (10_rorid_architecture.md R287 to R294, R311; 12_port_hardware.md; 13_bus_roles.md R393, R405).
-/
namespace Sys2Proof.Machine

/-! ## Requests (R375, R376) -/

/-- Firmware's request at an early start is answered (R523 step 4): after APPLY with result 0 comes START, and another result is recorded; the words of that record are not stated. -/
def earlyAnswer (s : State) (p : Nat) (r : Request) (a : Answer) : State :=
  if a.status ≠ 0 then
    { drawn s with log := { s.log with due := s.log.due ++ [{ kind := 0x03, object := (freeOf s).toNat, body := leBytes 4 (freeOf s).toNat }] } }
  else if r.cmd = 1 then modPort s p fun q => { q with joining := q.joining ++ [{ r with cmd := 2 }] }
  else s

/-- The voyage of a request is answered: its wait ends with the answer. -/
def answerVoy (s : State) (r : Request) (a : Answer) : State :=
  match r.vid with
  | none =>
    match r.early with
    | none => s
    | some p => earlyAnswer s p r a
  | some v =>
    if r.orphan then s
    else wakeVoy (modVoy s v fun x => { x with answer := some a }) v .woken

/-- Requests that wait to join take the places that are free of the 16, the delivered request's included, and the head is delivered to a running image. -/
def deliverNext (s : State) (p : Nat) : State :=
  let q := portOf s p
  let room := 16 - q.waiting.length - (if q.delivered.isSome then 1 else 0)
  let s := modPort s p fun q => { q with waiting := q.waiting ++ q.joining.take room, joining := q.joining.drop room }
  let q := portOf s p
  match q.eng.state, q.delivered, q.waiting with
  | .running, none, r :: l =>
    let s := modPort s p fun q => { q with waiting := l, delivered := some (r, q.number), reqView := some r }
    let s := match r.vid with
      | some v => modVoy s v fun x => { x with effect := true }
      | none => s
    pendEvent s p 13
  | _, _, _ => s

/-- A request asks to join the port's queue (R375). -/
def joinRequest (s : State) (p : Nat) (r : Request) : State :=
  deliverNext (modPort s p fun q => { q with joining := q.joining ++ [r] }) p

/-- Every request of the port, delivered, queued or waiting to join, ends with a status (R371, R373, R382). -/
def endRequests (s : State) (p status ext : Nat) : State :=
  let q := portOf s p
  let first := match q.delivered with
    | some (r, _) => [r]
    | none => []
  let all := (first ++ q.waiting ++ q.joining).filter fun r => !r.orphan
  let s := modPort s p fun q =>
    { q with delivered := none, waiting := [], joining := [], reqView := none, cnt := bumpBy q.cnt 5 all.length }
  all.foldl (fun s r => answerVoy s r { status := BitVec.ofNat 8 status, ext := BitVec.ofNat 8 ext }) s

/-- A voyage stops waiting for its request: before delivery the request is removed; afterwards its answer will be discarded (R376). -/
def withdrawRequest (s : State) (p v : Nat) : State :=
  deliverNext
    (modPort s p fun q =>
      { q with
        waiting := q.waiting.filter fun r => r.vid != some v
        joining := q.joining.filter fun r => r.vid != some v
        delivered := q.delivered.map fun x => if x.1.vid == some v then ({ x.1 with orphan := true }, x.2) else x })
    p

/-- A stale answer is counted for the partition of the voyage that waits for it (R226). -/
def staleAnswer (s : State) (r : Request) : State :=
  match r.vid.bind (voyOf s) with
  | none => s
  | some x => countStale s x.part

/-- An OUT to `ANS` (R376, R226). -/
def writeAns (s : State) (p : Nat) (w : Word) : State :=
  let q := portOf s p
  match q.delivered with
  | none => s
  | some (r, n) =>
    let s := modPort s p fun q => { q with delivered := none }
    let s :=
      if r.orphan then bumpPort s p 5
      else if n != q.number then answerVoy (staleAnswer (bumpPort s p 5) r) r { status := 0x12, ext := 0x01 }
      else if r.invoke then
        answerVoy (bumpPort s p 4) r { status := 0x00, cond := some (w.setWidth 2), value := some q.ansVal }
      else
        answerVoy (bumpPort s p 4) r { status := if w.setWidth 8 = 0 then 0x00 else 0x10, ext := w.setWidth 8 }
    deliverNext s p

/-! ## The bus controller's registers (R393) -/

/-- The state with a port's bus controller changed. -/
def modBus (s : State) (p : Nat) (f : BusCtl → BusCtl) : State := modPort s p fun q => { q with bc := f q.bc }

/-- A bit of `BC_EVT` is set; event 12 becomes pending if its `EN` is 1. -/
def busEvent (s : State) (p k : Nat) : State :=
  let s := modBus s p fun b => { b with evt := b.evt ||| (1 <<< k) }
  if (portOf s p).bc.even.getLsbD k then pendEvent s p 12 else s

/-- `ERRSTATE` takes a value. -/
def setErrState (s : State) (p : Nat) (e : BitVec 2) : State :=
  if (portOf s p).bc.errState = e then s else busEvent (modBus s p fun b => { b with errState := e }) p 3

/-- Bytes held in the transmit buffer. -/
def txBytes (b : BusCtl) : Nat := b.tx.foldl (fun n f => n + f.bytes.length) 0
/-- Bytes held in the receive buffer. -/
def rxBytes (b : BusCtl) : Nat := b.rx.foldl (fun n r => n + r.length) 0 - b.rxPos

/-- The order in which frames contend on a CAN bus (R393): the arbitration field of ISO 11898-1, the lower value first: the 11-bit base identifier, RTR or RRS (SRR of an extended frame), IDE, the rest of an extended identifier, its RTR or RRS. -/
def arbKey (f : TxFrame) : Nat :=
  let w := BitVec.ofNat 32 (leNat (f.bytes.take 4))
  let rmt := if w.getLsbD 30 then 1 else 0
  if w.getLsbD 29 then fieldOf w 18 11 * 2 ^ 21 + 3 * 2 ^ 19 + fieldOf w 0 18 * 2 + rmt else fieldOf w 0 11 * 2 ^ 21 + rmt * 2 ^ 20

/-- The place in the transmit buffer of the ready frame that contends next (R393, `TXORD`), of a format that the mode sends. -/
def nextFrame (b : BusCtl) : Option Nat :=
  let ready := b.tx.zipIdx.filter fun x => x.1.held.isNone && modeCarries (busMode b) (frameFmt x.1)
  (leastBy (fun x => if b.cfg.getLsbD 4 then arbKey x.1 * 2 ^ 16 + x.2 else x.2) ready).map Prod.snd

/-- The controller uses PLCA: `EN` in 10BASE-T1S mode, while beacons are seen or sent; without it, it uses CSMA/CD (R400). -/
def usesPlca (b : BusCtl) : Bool := busMode b == 4 && b.plca.getLsbD 0 && b.plcaActive

/-- The transmit opportunity is this node's, and it may begin a further frame in it (R400): one, and `BURST` more. -/
def ownTurn (b : BusCtl) : Bool := !usesPlca b || (b.turn == fieldOf b.plca 8 8 && decide (b.burst ≤ fieldOf b.plca 24 4))

/-- The controller may begin to send: it is not stopped, bus-off or restricted, the bus is idle, and the opportunity is its own (R393, R398, R400). -/
def maySend (b : BusCtl) : Bool :=
  decide (b.errState.toNat < 2) && !b.cfg.getLsbD 3 && !b.busy && !b.tx.any (·.onWire) && ownTurn b

/-- The ready frame that is first in order goes on the wire (R398). -/
def wireNext (b : BusCtl) : BusCtl :=
  if maySend b then
    match nextFrame b with
    | none => b
    | some k => { b with burst := b.burst + 1, tx := b.tx.zipIdx.map fun x => if x.2 = k then { x.1 with onWire := true } else x.1 }
  else b

/-- The running mode can send a frame of this format and length (R390, R394). -/
def sendable (b : BusCtl) (fmt len : Nat) : Bool := busMode b == 0 || (modeCarries (busMode b) fmt && lenAllowed fmt len)

/-- The built record becomes a frame of the transmit buffer, or is discarded with `TXFAIL` (R393), which also becomes of a record that the running mode cannot send (log 109); `held` as R397. -/
def busCommit (s : State) (p : Nat) (held : Option Nat) : State :=
  let b := (portOf s p).bc
  let len := fieldOf (b.build.getD 1 0) 16 12
  let head := (b.build.take 4).flatMap fun w => leBytes 4 w.toNat
  let data := ((b.build.drop 16).flatMap fun w => leBytes 4 w.toNat) ++ List.replicate len 0
  let frame := head ++ List.replicate 48 0 ++ data.take len
  if b.build.length < 4 ∨ 4096 < txBytes b + frame.length ∨ !sendable b (fieldOf (b.build.getD 1 0) 0 3) len then
    busEvent (modBus s p fun b => { b with build := [] }) p 2
  else modBus s p fun b => { b with build := [], tx := b.tx ++ [{ bytes := frame, held := held }] }

/-- Both buffers are emptied, and the controller has stopped (R405). -/
def busStop (s : State) (p : Nat) : State :=
  setErrState (modBus s p fun b => { b with rx := [], rxPos := 0, build := [], tx := [], plcaActive := false, busy := false, xlData := false, turn := 0, burst := 0 }) p 3

/-- The controller starts in the mode written. -/
def busStart (s : State) (p : Nat) : State := setErrState (modBus s p fun b => { b with recv := 0, tec := 0 }) p 0

/-- `BC_CFG` (R393): a write that changes `MODE` to a running mode takes effect only while `MODE` is 0; a failure stops a controller until `MODE` is next written, be it with the same value (R405). -/
def busWriteCfg (s : State) (p : Nat) (w : Word) : State :=
  let b := (portOf s p).bc
  let t := modBus s p fun b => { b with cfg := w &&& 0x1FF }
  let mode := busMode (portOf t p).bc
  if mode = busMode b then (if mode ≠ 0 ∧ b.errState = 3 then busStart t p else t)
  else if mode = 0 then busStop t p
  else if busMode b ≠ 0 then s
  else busStart t p

/-- A write that takes effect only while `MODE` is 0. -/
def busTiming (s : State) (p : Nat) (f : BusCtl → BusCtl) : State :=
  if busMode (portOf s p).bc = 0 then modBus s p f else s

/-- `BC_TXCTL` (R393). -/
def busTxCtl (s : State) (p : Nat) (w : Word) : State :=
  let s := if w.getLsbD 0 then busCommit s p (if w.getLsbD 2 then some (openAny s) else none) else s
  let s := if w.getLsbD 1 then modBus s p fun b => { b with build := [] } else s
  if w.getLsbD 3 then modBus s p fun b => { b with tx := b.tx.filter (·.onWire) } else s

/-- The oldest complete record leaves the receive buffer. -/
def busSkip (b : BusCtl) : BusCtl := { b with rx := b.rx.drop 1, rxPos := 0 }

/-- An IN of `BC_RXD` pops the next word of the oldest record (R393). -/
def busPop (b : BusCtl) : BusCtl :=
  match b.rx with
  | [] => b
  | r :: _ => if r.length ≤ b.rxPos + 4 then busSkip b else { b with rxPos := b.rxPos + 4 }

/-- The word that an IN of `BC_RXD` returns. -/
def busHead (b : BusCtl) : Word :=
  match b.rx with
  | [] => 0
  | r :: _ => BitVec.ofNat 32 (leNat ((r.drop b.rxPos).take 4))

/-- The value of a bus-controller register (R393). -/
def busRead (b : BusCtl) (a : Nat) : Word :=
  match a with
  | 0x50 => b.cfg
  | 0x51 => b.nbt
  | 0x52 => b.dbt
  | 0x53 => b.tdc
  | 0x54 => BitVec.ofNat 32 (b.errState.toNat + (if b.errState.toNat < 2 && !b.busy && !b.tx.any (·.onWire) then 4 else 0) + (if b.tx.any (·.onWire) then 8 else 0)
      + rxBytes b * 2 ^ 16)
  | 0x55 => BitVec.ofNat 32 (b.recv.toNat + b.tec.toNat * 2 ^ 16)
  | 0x56 => b.evt.setWidth 32
  | 0x57 => b.even.setWidth 32
  | 0x58 => BitVec.ofNat 32 ((b.rx.headD []).length)
  | 0x59 => busHead b
  | 0x5D => BitVec.ofNat 32 ((4096 - txBytes b) + min 255 (b.tx.filter fun f => f.held.isNone && !f.onWire).length * 2 ^ 16
      + min 255 (b.tx.filter fun f => f.held.isSome).length * 2 ^ 24)
  | 0x5E => b.plca ||| (if b.plcaActive then 1 <<< 28 else 0)
  | _ => 0

/-- A write of a bus-controller register (R393). -/
def busWrite (s : State) (p a : Nat) (w : Word) : State :=
  match a with
  | 0x50 => busWriteCfg s p w
  | 0x51 => busTiming s p fun b => { b with nbt := w &&& 0x3FFFFFFF }
  | 0x52 => busTiming s p fun b => { b with dbt := w &&& 0x3FFFFFFF }
  | 0x53 => busTiming s p fun b => { b with tdc := w &&& 0xFF01 }
  | 0x56 => modBus s p fun b => { b with evt := b.evt &&& ~~~ (w.setWidth 6) }
  | 0x57 => modBus s p fun b => { b with even := w.setWidth 6 }
  | 0x5A => if w.getLsbD 0 then modBus s p busSkip else s
  | 0x5B => modBus s p fun b => { b with build := b.build ++ [w] }
  | 0x5C => busTxCtl s p w
  | 0x5E => busTiming s p fun b => { b with plca := w &&& 0x0FFFFF01 }
  | 0x5F => if 8 ≤ fieldOf w 0 5 then bumpPort s p (fieldOf w 0 5) else s
  | _ => s

/-! ## IN (R293, R358, R359) -/

/-- The value that an IN of I/O address `a` returns. -/
def ioRead (s : State) (p a : Nat) : Word :=
  let q := portOf s p
  let e := q.eng
  if a < 0x10 then
    match a with
    | 0x00 => e.estat.setWidth 32
    | 0x01 => e.cause.setWidth 32
    | 0x02 => e.tval
    | 0x03 => BitVec.ofNat 32 (e.rstack.length + if e.trapped.isSome then 2 ^ 8 else 0)
    | 0x04 => e.pred.setWidth 32
    | 0x05 => e.cycle
    | 0x06 =>
      BitVec.ofNat 32 ((if q.active then 1 else 0)
        + (match (inactiveBank q).st with | .empty => 0 | .loading => 2 | .verified => 4)
        + (if q.swap.isSome then 8 else 0))
    | 0x07 => if e.state == .noImage then 0 else imageHdr q 1
    | _ => 0
  else if a < 0x16 then (tGet q.pins (a - 0x10) {}).cfg
  else if a < 0x20 then
    match a with
    | 0x16 => BitVec.ofNat 32 (packBits 6 (pinLevel q) + 2 ^ 8 * packBits 6 fun k => (tGet q.pins k {}).hold.isSome)
    | 0x17 => q.pinOut.setWidth 32
    | 0x18 => q.evPend
    | 0x1A => if q.imgInvalid then 1 else 0
    | 0x1B => q.landLsn
    | 0x1C => BitVec.ofNat 32 s.tb.time
    | 0x1D => q.dtimeHi.getD (BitVec.ofNat 32 (s.tb.time / 2 ^ 32))
    | _ => 0
  else if a < 0x30 then timerRead (timerOf q ((a - 0x20) / 4)) (a % 4)
  else if a = 0x30 then q.edgeCfg
  else if a = 0x31 then BitVec.ofNat 32 (packBits 6 (fun k => (edgeOf q k).full) + 2 ^ 8 * packBits 6 fun k => (edgeOf q k).ovr)
  else if a < 0x3E then
    let x := edgeOf q ((a - 0x32) / 2)
    if a % 2 = 0 then x.ts.setWidth 32 else x.held
  else if a < 0x40 then 0
  else if a < 0x50 then
    let x := shiftOf q ((a - 0x40) / 8)
    match a % 8 with
    | 0 => x.cfg
    | 1 => x.timing.setWidth 32
    | 4 => shiftHead x
    | 5 => shiftStat x
    | _ => 0
  else if a < 0x60 then busRead q.bc a
  else if a < 0x68 then
    match a with
    | 0x60 =>
      BitVec.ofNat 32 ((if q.delivered.isSome then 1 else 0)
        + (match q.reqView with | some r => (if r.invoke then 2 else 0) + (r.vid.getD 0) * 2 ^ 16 | none => 0))
    | 0x61 => (q.reqView.map (·.cmd)).getD 0
    | 0x62 => (q.reqView.map (·.arg)).getD 0
    | 0x63 => q.ansVal
    | _ => 0
  else if a < 0x6C then tGet q.qev (a - 0x68) 0
  else if a < 0x70 then tGet q.netl (a - 0x6C) 0
  else if a < 0x80 then tGet q.omap (a - 0x70) 0
  else if a < 0xC0 then tGet q.img (a - 0x80) 0
  else tGet q.stg (a - 0xC0) 0

/-- The side effects of an IN: the capture of device time, the edge timestamps, the RX FIFO and the receive buffer. -/
def ioReadEffect (s : State) (p a : Nat) : State :=
  if a = 0x1C then modPort s p fun q => { q with dtimeHi := some (BitVec.ofNat 32 (s.tb.time / 2 ^ 32)) }
  else if 0x32 ≤ a ∧ a < 0x3E then
    let k := (a - 0x32) / 2
    modPort s p fun q =>
      { q with edges := tUpd q.edges k {} fun x =>
          if a % 2 = 0 then { x with held := (x.ts >>> 32).setWidth 32 } else { x with full := false } }
  else if a = 0x44 then shiftPop s p 0
  else if a = 0x4C then shiftPop s p 1
  else if a = 0x59 then modBus s p busPop
  else s

/-! ## OUT (R341, R358 to R380) -/

/-- The assignable event that a value of `EV_PULSE` names is one of the port's owner. -/
def evPulseOwned (s : State) (p : Nat) (w : Word) : Bool := (portOf s p).owner.any fun o => ownsAssignable s o (fieldOf w 16 10)

/-- The event lines that a value of `EV_PULSE` pulses (R366): the port's own events, and an assignable one. -/
def evPulses (s : State) (p : Nat) (w : Word) : List Nat :=
  ((List.range 4).filter fun j => w.getLsbD j).map (4 * p + ·)
    ++ if w.getLsbD 26 && evPulseOwned s p w then [fieldOf w 16 10] else []

/-- What a value of `EV_PULSE` does beside its pulses: `HOSTIRQ`, and the count of an event that the owner does not own (R366). -/
def evPulseRest (s : State) (p : Nat) (w : Word) : State :=
  let t := if w.getLsbD 8 then setPortFlag s p 3 else s
  if w.getLsbD 26 && !evPulseOwned s p w then bumpPort t p 6 else t

/-- The origin that the pulses of a port carry: its commission number (R453). -/
def portOrigin (s : State) (p : Nat) : Option (Nat × BitVec 16) := some (p, (portOf s p).number)

/-- An OUT to `EV_PULSE`. -/
def writeEvPulse (s : State) (p : Nat) (w : Word) : State :=
  (evPulses s p w).foldl (fun t e => pulse t e (portOrigin s p)) (evPulseRest s p w)

/-- An OUT to I/O address `a`. -/
def ioWrite (s : State) (p a : Nat) (w : Word) : State :=
  if a < 0x10 then
    match a with
    | 0x00 => modEng s p fun e => { e with estat := e.estat &&& ~~~ (w.setWidth 5) }
    | 0x04 => modEng s p fun e => { e with pred := (w.setWidth 8) ||| 1 }
    | _ => s
  else if a < 0x16 then
    changeInput s p (a - 0x10) fun q => { q with pins := tUpd q.pins (a - 0x10) {} fun x => { x with cfg := w &&& 0x000F7FFF, hold := none } }
  else if a < 0x20 then
    match a with
    | 0x17 => modPort s p fun q => { q with pinOut := w.setWidth 6 }
    | 0x18 => clearEvents s p w
    | 0x19 => writeEvPulse s p w
    | 0x1A => modPort s p fun q => { q with imgInvalid := w.getLsbD 0 }
    | _ => s
  else if a < 0x30 then modTimer s p ((a - 0x20) / 4) fun t => timerWrite t (a % 4) w
  else if a = 0x30 then modPort s p fun q => { q with edgeCfg := w &&& 0x003F3F3F }
  else if a = 0x31 then
    modPort s p fun q =>
      { q with edges := (List.range 6).foldl (fun t k =>
          if w.getLsbD (8 + k) then tUpd t k {} fun x => { x with ovr := false } else t) q.edges }
  else if a < 0x40 then s
  else if a < 0x50 then
    let u := (a - 0x40) / 8
    match a % 8 with
    | 0 => changeShift s p u fun x => shiftFeed { x with cfg := w &&& 0x3FFFFFFF }
    | 1 => modShift s p u fun x => { x with timing := w.setWidth 16 }
    | 2 => shiftPush s p u w false
    | 3 => shiftPush s p u w true
    | 5 => modShift s p u fun x =>
        { x with txovf := x.txovf && !w.getLsbD 10, rxovr := x.rxovr && !w.getLsbD 11,
                 ferr := x.ferr && !w.getLsbD 12, aborted := x.aborted && !w.getLsbD 13 }
    | _ => s
  else if a < 0x60 then busWrite s p a w
  else if a < 0x68 then
    match a with
    | 0x63 => modPort s p fun q => { q with ansVal := w }
    | 0x64 => writeAns s p w
    | _ => s
  else if a < 0x6C then modPort s p fun q => { q with qev := tPut q.qev (a - 0x68) (w &&& 0x80001FFF) }
  else if a < 0x70 then modPort s p fun q => { q with netl := tPut q.netl (a - 0x6C) (w &&& 0x800003FF) }
  else if a < 0x80 then modPort s p fun q => { q with omap := tPut q.omap (a - 0x70) w }
  else if a < 0xC0 then modPort s p fun q => { q with img := tPut q.img (a - 0x80) w }
  else modPort s p fun q => { q with stg := tPut q.stg (a - 0xC0) w, fresh := insertNat q.fresh (a - 0xC0) }

/-! ## Queues attached to ports (R364, R365) -/

/-- Event 16 + q of every port whose selector names the queue it is attached to becomes pending at a commit. -/
def commitEvents (s : State) (qn : Nat) : State :=
  match (queueOf s qn).bind (·.port) with
  | none => s
  | some p =>
    (List.range 4).foldl
      (fun s k =>
        let w := tGet (portOf s p).qev k 0
        if w.getLsbD 31 && fieldOf w 0 13 == qn then pendEvent s p (16 + k) else s) s

/-- A voyage that waits for a packet of queue `qn` is woken. -/
def wakeIfParked (qn : Nat) (s : State) (a : Agent) : State :=
  match a with
  | .voyage v =>
    match voyOf s v with
    | some x => if x.state == .parked && x.park == .queue qn then wakeVoy s v .woken else s
    | none => s
  | _ => s

/-- The first of the agents that wait on a queue is woken (R255; log 124): a voyage returns to Ready; a port engine completes by its own command. -/
def wakeReader (s : State) (qn : Nat) : State :=
  match (queueOf s qn).bind fun q => q.waiting.find? fun a => !q.woken.contains a with
  | some a => wakeIfParked qn (modQueue s qn fun q => { q with woken := q.woken ++ [a] }) a
  | none => s

/-- A packet is committed (R246): linked after the tail, counted, and the first waiting reader woken. A packet of no bytes has no effect. -/
def commitPacket (s : State) (a : Agent) (qn : Nat) : State :=
  match (queueOf s qn).bind fun q => buildingOf q a with
  | none => s
  | some b =>
    if b.pkt.len = 0 then s
    else
      let s := modQueue s qn fun q => linkPacket (dropBuilding q a) b.pkt
      commitEvents (wakeReader s qn) qn

/-! ## Failure, safe state and NO_IMAGE (R288, R311, R360, R371, R373) -/

/-- The shift units of a failed port stop, their FIFOs and registers emptied (R373). -/
def stopShifts (s : State) (p : Nat) : State :=
  (List.range 2).foldl (fun s u => modShift s p u fun x =>
    { x with sr := none, done := none, tx := [], rx := [], isOpen := false, stall := false }) s

/-- The shift units that are on stop as under an abort (R371, R384). -/
def abortShifts (s : State) (p : Nat) : State :=
  (List.range 2).foldl (fun s u => if shiftDir (shiftOf (portOf s p) u) = 0 then s else abortShift s p u) s

/-- The engine of port `p` enters FAILED (R311, R373), where its pins stay at the image's safe levels (`pinDrive`); `detail` are the bytes of the record's detail after the port and its commission number. -/
def failPort (s : State) (p : Nat) (detail : List Byte) : State :=
  let q := portOf s p
  let s := modEng (unstall (stopWaiting s (.port p)) (.port p)) p fun e => { e with state := .failed, wait := .no }
  let s := busStop (stopShifts s p) p
  let s := modPort s p fun q => { q with imgInvalid := true }
  let s := endRequests s p 0x26 0
  let s := setFault (raise (raise s p) 656) 1
  let body := leBytes 1 p ++ leBytes 2 q.number.toNat ++ detail
  { s with log := { s.log with due := s.log.due ++
      [{ kind := 0x07, object := p + 2 ^ 8, body := body, detail := body, details := 1 }] } }

/-- The detail of a failure: both causes and both saved PCs (R311). -/
def failDetail (e : Engine) (cause pc : Nat) : List Byte :=
  leBytes 1 e.cause.toNat ++ leBytes 1 cause ++ leBytes 2 ((e.trapped.getD 0).toNat) ++ leBytes 2 pc

/-- A failure by a memory error (R312, R544): the code of the cause is not stated and is a free value; the word stands in place of the second PC. -/
def failByWord (s : State) (p word : Nat) : State :=
  let c := (freeOf s).toNat % 256
  failPort (drawn s) p (failDetail (portOf s p).eng c word)

/-- The port's registers at entry to NO_IMAGE (R288, R360): reset values, but for the commission, the pins' levels and holds, counters, wake filter, scratchpad and the reads of packets (R354). -/
def blankPort (q : Port) : Port :=
  { owner := q.owner, lastOwner := q.lastOwner, xclass := q.xclass, txq := q.txq, number := q.number,
    eng := { scrub := true }, spad := q.spad, spadBad := q.spadBad, spadSoft := q.spadSoft, spadCorrected := q.spadCorrected,
    pins := q.pins.map fun x => (x.1, { ball := x.2.ball, hold := x.2.hold }),
    bankCorrected := q.bankCorrected, cnt := q.cnt, wake := q.wake,
    wakeErrors := q.wakeErrors, landLsn := q.landLsn, latched := q.latched, latchedInvalid := q.latchedInvalid, byClass := q.byClass,
    reads := q.reads, fencedQs := q.fencedQs, fencers := q.fencers, loading := q.loading }

/-- The engine of a port enters NO_IMAGE. -/
def enterNoImage (s : State) (p : Nat) : State := modPort (unstall (stopWaiting s (.port p)) (.port p)) p blankPort

/-- Every pin is held at its safe level (R371). -/
def holdPins (q : Port) : Port :=
  { q with pins := (List.range 6).foldl (fun t k =>
      tUpd t k {} fun x => { x with hold := some (if q.eng.state == .noImage then 0 else imageSafe q k) }) q.pins }

/-- The safe state of a port (R371). -/
def safeState (s : State) (p : Nat) : State :=
  let s := modPort s p holdPins
  let s := endRequests (busStop (abortShifts s p) p) p 0x12 0x01
  enterNoImage s p

end Sys2Proof.Machine
end

