-- ==== Sys2Proof/Machine/Rorid.lean ====
section
/-!
DEFINITION. Executing a Rorid instruction: registers, the guard, legality, traps and the double fault, waiting, and the step to the next instruction (10_rorid_architecture.md R295 to R312).
-/
namespace Sys2Proof.Machine

/-- What happens once voyages and sources may have changed: free slots are given out, and newly eligible sources send their messages. -/
def conclude (s t : State) : State := settle s (schedule t)

/-! ## Registers (R295, R296) -/

/-- The value of a register code. -/
def readReg (q : Port) (c : BitVec 4) : Word :=
  if imageModeC q && 12 ≤ c.toNat then
    match c.toNat with
    | 12 => q.eng.ac0.setWidth 32
    | 13 => ((q.eng.ac0 >>> 32).setWidth 8).signExtend 32
    | 14 => q.eng.ac1.setWidth 32
    | _ => ((q.eng.ac1 >>> 32).setWidth 8).signExtend 32
  else tGet q.eng.regs c.toNat 0

/-- An accumulator whose low part is written (R296): the guard bits take copies of bit 31. -/
def accLow (w : Word) : BitVec 40 := w.signExtend 40

/-- An accumulator whose guard part is written (R296). -/
def accHigh (a : BitVec 40) (w : Word) : BitVec 40 := w.setWidth 8 ++ a.setWidth 32

/-- The port with a register code written. -/
def writeReg (q : Port) (c : BitVec 4) (w : Word) : Port :=
  if imageModeC q && 12 ≤ c.toNat then
    match c.toNat with
    | 12 => { q with eng := { q.eng with ac0 := accLow w } }
    | 13 => { q with eng := { q.eng with ac0 := accHigh q.eng.ac0 w } }
    | 14 => { q with eng := { q.eng with ac1 := accLow w } }
    | _ => { q with eng := { q.eng with ac1 := accHigh q.eng.ac1 w } }
  else { q with eng := { q.eng with regs := tPut q.eng.regs c.toNat w } }

/-- The state with a register of port `p`'s engine written. -/
def putReg (s : State) (p : Nat) (c : BitVec 4) (w : Word) : State := modPort s p fun q => writeReg q c w

/-- The state with flags of `ESTAT` set; flags are sticky (R307). -/
def setFlags (s : State) (p : Nat) (f : BitVec 5) : State := modEng s p fun e => { e with estat := e.estat ||| f }

/-- `C` (R294). -/
def flagC : BitVec 5 := 1
/-- `V` (R294). -/
def flagV : BitVec 5 := 2
/-- `DZ` (R294). -/
def flagDZ : BitVec 5 := 4
/-- `AOV` (R294). -/
def flagAOV : BitVec 5 := 8
/-- `COL` (R294). -/
def flagCOL : BitVec 5 := 16

/-- The flags that hold. -/
def flagIf (b : Bool) (f : BitVec 5) : BitVec 5 := if b then f else 0

/-- A predicate's value; P0 always reads 1 (R300). -/
def predOf (e : Engine) (k : Nat) : Bool := k == 0 || e.pred.getLsbD k

/-- The engine with a predicate written; P0 stays 1 (R300). -/
def setPred (e : Engine) (k : Nat) (b : Bool) : Engine :=
  if k = 0 then e else { e with pred := if b then e.pred ||| (1#8 <<< k) else e.pred &&& ~~~ (1#8 <<< k) }

/-- The guard is true (R298). -/
def guardTrue (e : Engine) (g : Guard) : Bool := predOf e g.psel.toNat != g.pinv

/-! ## The instruction bank (R290, R312) -/

/-- Word `a` of the active bank. -/
def bankWord (q : Port) (a : Nat) : Word := tGet (activeBank q).words a 0

/-- What the ECC finds at word `a` of the active bank (R312). -/
def bankMark (q : Port) (a : Nat) : FetchMark :=
  if (activeBank q).bad.contains a then .bad else if (activeBank q).soft.contains a then .soft else .clean

/-- The fetch of word `a` (R302, R312). -/
def fetchAt (q : Port) (a : Nat) : Word × FetchMark := (bankWord q a, bankMark q a)

/-- The port with the word at `a` of its active bank corrected, and the error counted (R312). -/
def correctBank (q : Port) (a : Nat) : Port :=
  modActive { q with bankCorrected := if q.bankCorrected = 0xFFFF then 0xFFFF else q.bankCorrected + 1 } fun b =>
    { b with soft := b.soft.filter (· != a) }

/-- The port once a correctable error of the word that it executes has been corrected and counted (R312). -/
def correctFetched (q : Port) : Port :=
  match q.eng.mark with
  | .soft => correctBank { q with eng := { q.eng with mark := .clean } } q.eng.pc.toNat
  | _ => q

/-- The data-stack pointer's code (R305). -/
def spCode (q : Port) : BitVec 4 := if imageModeC q then 11 else 15

/-! ## How an instruction ends -/

/-- What an instruction asks of the engine: go on, transfer control, trap without effect, trap after its effect, wait, or stop. -/
inductive Ctl where
  | next
  | jump (t : Nat)
  | trap (cause : Nat) (tval : Word)
  | after (cause : Nat) (tval : Word)
  | wait (w : EngWait)
  | stop

/-- Cycles are counted in `CYCLE` (R294). -/
def addCycles (s : State) (p n : Nat) : State :=
  modEng s p fun e => { e with cycle := e.cycle + BitVec.ofNat 32 n }

/-- A trap (R309, R311): entered while the reserved entry is free, a double fault otherwise. -/
def trapEntry (s : State) (p cause : Nat) (tval : Word) (pc : Nat) : State :=
  let q := portOf s p
  match q.eng.trapped with
  | some _ => conclude s (failPort s p (failDetail q.eng cause pc))
  | none =>
    let vec := fieldOf (imageHdr q 3) 16 12
    modPort s p fun q =>
      { q with eng := { q.eng with
          trapped := some (BitVec.ofNat 12 pc), cause := BitVec.ofNat 8 cause, tval := tval,
          pc := BitVec.ofNat 12 vec, fetched := bankWord q vec, mark := bankMark q vec, cycle := q.eng.cycle + 2, wait := .no } }

/-- The engine goes on to the instruction after `pc`, whose word has been fetched; execution does not wrap (R290). -/
def goNext (s : State) (p pc : Nat) (fetched : Word × FetchMark) : State :=
  if pc = 4095 then trapEntry s p 0x06 4096 4095
  else modEng s p fun e => { e with pc := BitVec.ofNat 12 (pc + 1), fetched := fetched.1, mark := fetched.2, wait := .no }

/-- Control is transferred to `t`, whose word is fetched (R302). -/
def goTarget (s : State) (p t : Nat) : State :=
  modPort s p fun q =>
    { q with eng := { q.eng with pc := BitVec.ofNat 12 t, fetched := bankWord q (t % 4096), mark := bankMark q (t % 4096), wait := .no } }

/-- An instruction at `pc` ends as it asked; `s` is the state before it, `t` the state with its effect (R301, R309). -/
def endInstr (s t : State) (p pc cycles : Nat) (fetched : Word × FetchMark) : Ctl → State
  | .next => goNext (addCycles t p cycles) p pc fetched
  | .jump a => goTarget (addCycles t p cycles) p a
  | .trap c v => trapEntry s p c v pc
  | .after c v =>
    if pc = 4095 then goNext (addCycles t p cycles) p pc fetched
    else trapEntry (addCycles t p cycles) p c v (pc + 1)
  | .wait w => modEng t p fun e => { e with wait := w }
  | .stop => t

/-- The engine of port `p` begins the instruction whose word is `w`: it runs, waits for nothing, and has fetched that word. -/
def engineAt (s : State) (p : Nat) (w : Word) : Bool :=
  let e := (portOf s p).eng
  isRun s && e.state == .running && e.wait == .no && e.fetched == w

/-- A Rorid instruction of port `p` with guard `g`, word `w` and its cycles when executed and when not (R298 to R301, R312): what happens where the word was fetched with an uncorrectable error, where the word is illegal, where the guard is false, where a compare names P0, and otherwise the effect `f`. -/
def runRorid (p : Nat) (g : Guard) (w : Word) (cycles skipped : Nat) (f : State → State × Ctl) (s : State) : State :=
  if engineAt s p w then
    let q := portOf s p
    let pc := q.eng.pc.toNat
    let next := fetchAt q (pc + 1)
    if q.eng.mark == .bad then conclude s (failByWord s p pc)
    else
      let s := modPort s p correctFetched
      if !roridLegal (imageModeC q) w then trapEntry s p 0x01 w pc
      else if guardTrue q.eng g then
        if namesP0 w then trapEntry s p 0x01 w pc
        else
          let r := f s
          endInstr s r.1 p pc cycles next r.2
      else goNext (addCycles s p skipped) p pc next
  else s

/-- An instruction that only writes a register and sets flags. -/
def runAlu (p : Nat) (g : Guard) (w : Word) (cycles : Nat) (rd : BitVec 4) (f : Port → Word × BitVec 5) (s : State) :
    Host.Outcome State Fault Refusal :=
  .next (runRorid p g w cycles 1 (fun s =>
    let r := f (portOf s p)
    (setFlags (putReg s p rd r.1) p r.2, .next)) s)

end Sys2Proof.Machine
end

