-- ==== Sys2Proof/Machine/WindowOps.lean ====
section
/-!
DEFINITION. Address windows: translation, permissions, and reading and writing the memory behind them (07_partitions.md R216, R220 to R224; 08_deck_memory.md R259, R260; 19_onchip_memories.md R538, R539; 03_manifests.md R72).
-/
namespace Sys2Proof.Machine

/-! ## Translation (R216, R220, R221) -/

/-- The PCIe door of a partition is open (R216). -/
def doorOpen (s : State) (p : Nat) : Bool := (p == 0 || s.vfEnable) && (partOf s p).busMaster

/-- What a window's permissions govern (R221). -/
inductive Perm where
  | read | write | manifest
deriving DecidableEq, Repr

/-- The window gives the permission. -/
def allows (w : Window) : Perm → Bool
  | .read => w.r
  | .write => w.w
  | .manifest => w.x

/-- The window of a partition in which an address falls. -/
def windowOf (s : State) (p a : Nat) : Option (Nat × Window) :=
  (partOf s p).wins.find? fun x => x.2.base ≤ a && a < x.2.base + x.2.size

/-- The window that serves an address: host memory behind a closed door is refused as no window (R220). -/
def windowAt (s : State) (p a : Nat) : Option Window :=
  match windowOf s p a with
  | some (_, w) => if w.space = 0 && !doorOpen s p then none else some w
  | none => none

/-- The first test of R72 that a transfer of `n` bytes fails: 1 no window, 2 no permission, 3 the end of the window. -/
def windowFail (s : State) (p a n : Nat) (perm : Perm) : Option Nat :=
  match windowAt s p a with
  | none => some 1
  | some w => if !allows w perm then some 2 else if w.base + w.size < a + n then some 3 else none

/-- The state in which a refused access has been counted (R222). -/
def countRefused (s : State) (p : Nat) : State := bumpPart s p 3

/-- The address in the window's space (R220). -/
def placeOf (w : Window) (a : Nat) : Nat := w.target + (a - w.base)

/-- The byte address in deck memory at which the flat area begins (R260). -/
def flatBase (s : State) : Nat := 64 * (262144 - 64 * s.deck.flatPages)

/-- The byte address in the general banks of an offset in a window's bank. -/
def bankPlace (w : Window) (a : Nat) : Nat := w.bank.toNat * 2 ^ 18 + placeOf w a

/-! ## Retention (R538) -/

/-- The bank in retention, or leaving it, that an access would reach. -/
def asleepAt (s : State) (p a : Nat) : Option Nat :=
  match windowAt s p a with
  | some w =>
    if w.space = 1 then
      let b := bankOf s w.bank.toNat
      if b.ret || b.leaving then some w.bank.toNat else none
    else none
  | none => none

/-- A request for a bank in retention makes it leave, and waits (R538). -/
def wakeBank (s : State) (n : Nat) : State :=
  modBank s n fun b => { b with ret := false, leaving := true, waiting := true }

/-! ## Reading (R222, R240, R259, R539) -/

/-- What a read delivers: the bytes up to the first 64-byte block that is lost, and the kind of loss: 1 deck, 2 general bank, 3 host (R112). -/
structure Fetch where
  state : State
  bytes : List Byte
  loss : Option Nat

/-- Byte `a` of the partition's address space cannot be read correctly. -/
def lostByte (s : State) (w : Window) (a : Nat) : Bool :=
  if w.space = 0 then s.hostBad.contains (placeOf w a)
  else if w.space = 1 then (bankOf s w.bank.toNat).bad.contains (placeOf w a / 8)
  else
    let c := (flatBase s + placeOf w a) / 64
    s.deck.bad.contains c || s.deck.quar.contains c

/-- The byte behind a window. -/
def byteAt (s : State) (w : Window) (a : Nat) : Byte :=
  if w.space = 0 then memRead s.hostMem (placeOf w a)
  else if w.space = 1 then memRead s.bankMem (bankPlace w a)
  else memRead s.deck.mem (flatBase s + placeOf w a)

/-- An uncorrectable error in word `k` of a bank is reported (R539, R545). -/
def bankError (s : State) (n k : Nat) : State :=
  let s := modBank s n fun b => { b with uncorr := if b.uncorr = 0xFFFF then b.uncorr else b.uncorr + 1 }
  raise { s with glb := { s.glb with eccBank := BitVec.ofNat 4 n, eccWord := BitVec.ofNat 15 k, eccValid := true } } 658

/-- The effects of a loss at address `a`: the report of a bank's word, or the quarantine of a flat cell (R258, R539). -/
def reportLoss (s : State) (w : Window) (a : Nat) : State :=
  if w.space = 1 then bankError s w.bank.toNat (placeOf w a / 8)
  else if w.space = 2 then
    let c := (flatBase s + placeOf w a) / 64
    if s.deck.quar.contains c then s else quarantineCell s c none
  else s

/-- Correctable errors in the words read are corrected and counted (R240, R539). -/
def correctRange (s : State) (w : Window) (a n : Nat) : State :=
  if n = 0 then s
  else if w.space = 1 then
    let lo := placeOf w a / 8
    let hi := (placeOf w a + n - 1) / 8
    modBank s w.bank.toNat fun b =>
      let hit := (b.soft.filter fun k => lo ≤ k && k ≤ hi).length
      { b with soft := b.soft.filter fun k => k < lo || hi < k
               corrected := BitVec.ofNat 16 (min 0xFFFF (b.corrected.toNat + hit)) }
  else if w.space = 2 then
    let lo := (flatBase s + placeOf w a) / 8
    let hi := (flatBase s + placeOf w a + n - 1) / 8
    correctWords s fun k => lo ≤ k && k ≤ hi
  else s

/-- The read of `n` bytes at an address that a window serves. -/
def fetchBytes (s : State) (w : Window) (a n : Nat) : Fetch :=
  let bad := (List.range n).find? fun i => lostByte s w (a + i)
  let good := match bad with
    | none => n
    | some i => i - placeOf w (a + i) % 64
  let bytes := (List.range good).map fun i => byteAt s w (a + i)
  let s := correctRange s w a good
  match bad with
  | none => ⟨s, bytes, none⟩
  | some i => ⟨reportLoss s w (a + i), bytes, some (if w.space = 0 then 3 else if w.space = 1 then 2 else 1)⟩

/-! ## Writing -/

/-- The bank with the errors of fully written words cleared (R539). -/
def rewriteWords (b : Bank) (o n : Nat) : Bank :=
  let full (k : Nat) : Bool := o ≤ 8 * k && 8 * k + 8 ≤ o + n
  { b with bad := b.bad.filter fun k => !full k, soft := b.soft.filter fun k => !full k }

/-- The deck's memory with bytes of the flat area written; a quarantined cell discards them (R259). -/
def flatPut (quar : List Nat) (m : Mem) (a : Nat) : List Byte → Mem
  | [] => m
  | b :: l => flatPut quar (if quar.contains (a / 64) then m else memWrite m a b) (a + 1) l

/-- The write of bytes at an address that a window serves. -/
def storeBytes (s : State) (w : Window) (a : Nat) (l : List Byte) : State :=
  if w.space = 0 then { s with hostMem := memPut s.hostMem (placeOf w a) l }
  else if w.space = 1 then
    { modBank s w.bank.toNat (rewriteWords · (placeOf w a) l.length) with
      bankMem := memPut s.bankMem (bankPlace w a) l }
  else
    let o := flatBase s + placeOf w a
    let full (k : Nat) : Bool := o ≤ 8 * k && 8 * k + 8 ≤ o + l.length && !s.deck.quar.contains (k / 8)
    modDeck s fun d => { d with mem := flatPut d.quar d.mem o l, soft := d.soft.filter fun k => !full k }

/-- An access to a bank in retention, or leaving it, is made once the bank has left (R538). -/
def roused (s : State) (w : Window) : State :=
  if w.space = 1 then modBank s w.bank.toNat fun b => { b with ret := false, leaving := false, waiting := false } else s

/-- A write of a partition that passes every test of R72, or the test it fails. -/
def writeFor (s : State) (p a : Nat) (l : List Byte) : State × Option Nat :=
  match windowFail s p a l.length .write, windowAt s p a with
  | none, some w => (storeBytes (roused s w) w a l, none)
  | some e, _ => (countRefused s p, some e)
  | none, none => (countRefused s p, some 1)

/-- A write that has been issued reaches its destination: its window stands as it did, whatever has become of the function's door (R232, R511). -/
def landWrite (s : State) (p a : Nat) (l : List Byte) : State :=
  match windowOf s p a with
  | some (_, w) => if w.w && decide (a + l.length ≤ w.base + w.size) then storeBytes (roused s w) w a l else s
  | none => s

/-- The address lies in host memory. -/
def onHost (s : State) (p a : Nat) : Bool := (windowOf s p a).any fun x => x.2.space == 0

/-- A read of a partition that passes every test of R72, or the test it fails. -/
def readFor (s : State) (p a n : Nat) (perm : Perm) : Fetch × Option Nat :=
  match windowFail s p a n perm, windowAt s p a with
  | none, some w => (fetchBytes (roused s w) w a n, none)
  | some e, _ => (⟨countRefused s p, [], none⟩, some e)
  | none, none => (⟨countRefused s p, [], none⟩, some 1)

end Sys2Proof.Machine
end

