-- ==== Sys2Proof/Machine/EntryOps.lean ====
section
/-!
DEFINITION. How a manifest entry runs: fetch, checks, skipping, charges, suspension, ownership, and what follows the operation (03_manifests.md R73 to R77, R95 to R103; 04_voyages_and_ferry_engines.md R116, R126 to R130).
-/
namespace Sys2Proof.Machine

/-! ## Steps 1 and 2 -/

/-- The current entry continues a data chain. -/
def isCont (x : Voyage) : Bool := x.entry != x.ckEntry

/-- The entries of the chain that begins at `k` as far as the cache holds them, and the page that is missing, if one is (R98). -/
def chainFrom (s : State) (x : Voyage) : Nat → Nat → List (List Word) × Option Nat
  | 0, _ => ([], none)
  | n + 1, k =>
    match entryWords s x k with
    | none => ([], some (pageOf (entryAddr x k)))
    | some w =>
      if fSpan w && k + 1 < entryCount x then
        let r := chainFrom s x n (k + 1)
        (w :: r.1, r.2)
      else ([w], none)

/-- The entries that step 2 and the charges of the current entry look at: the whole chain for a timed voyage, and the next entry of a chain otherwise. -/
def lookAhead (s : State) (x : Voyage) : List (List Word) × Option Nat :=
  chainFrom s x (if x.timed && !isCont x then entryCount x else 2) x.entry

/-- The page of the current entry is pinned for the voyage (R52). -/
def pagePinned (s : State) (v : Nat) (x : Voyage) : Bool :=
  match cachedPage s x.part (pageOf (entryAddr x x.entry)) with
  | some pg => pg.pins.contains v
  | none => false

/-- The voyage parks until a page has been filled (R138). -/
def missPage (s : State) (v : Nat) (x : Voyage) (a : Nat) : State :=
  requestFill (parkVoy s v (.miss a) .fresh) x.part a (some v)

/-- Step 1: the entry is reached and latched, and counted unless an execution before a retirement has counted it (R73, R142); an unpinned page demotes a timed voyage (R52). -/
def reachEntry (s : State) (v : Nat) (x : Voyage) (w : List Word) : State :=
  let s := if x.timed && !pagePinned s v x then demote s v else s
  let s := touchPage s x.part (pageOf (entryAddr x x.entry))
  modVoy s v fun x =>
    { x with reached := if x.countedTo ≤ x.entry then x.reached + 1 else x.reached, countedTo := max x.countedTo (x.entry + 1),
             cur := w, first := if isCont x then x.first else w, burst := 0 }

/-- The next entry of the manifest, where the cache holds it. -/
def nextWords (s : State) (x : Voyage) : Option (List Word) :=
  if x.entry + 1 < entryCount x then entryWords s x (x.entry + 1) else none

/-- The extended status with which the current entry fails step 2. -/
def entryFormat (s : State) (x : Voyage) (w : List Word) : Option Nat :=
  formatExt w x.entry (entryCount x) (vevent x) (isCont x) (nextWords s x) x.chainK

/-! ## After the operation -/

/-- What step 6 comes to: the entry has ended, its part of the chain has, it waits, its access waits for a bank, or nothing is left to do. -/
inductive Six where
  | done (r : Result)
  | more
  | short (a : Answer)
  | park (why : Park)
  | hold
  | gone

/-- The voyage stands before the next entry of the chain. -/
def contEntry (s : State) (v : Nat) : State :=
  modVoy s v fun x => { x with entry := x.entry + 1, chainK := x.chainK + countOf x.cur, stage := .fresh, cur := [] }

/-- The result of a chain that has ended short or been skipped, its capacity being `k` and `moved` bytes having been moved. -/
def shortResult (a : Answer) (k moved : Nat) : Result :=
  { status := a.status.toNat, ext := a.ext.toNat, cond := a.cond, goesOn := true,
    residual := if a.status = 0x02 then 0 else k - moved }

/-- The words whose flags apply when a skipped entry ends: it neither pulses nor adds a record beyond SKIPPED (R75). -/
def skippedWords (w : List Word) : List Word := (wd w 0 &&& 0xFFFF7FFF) :: w.drop 1

/-- A chain that moves no more data passes over its remaining entries: each is fetched and checked, and counts as reached; the last posts for the chain (R75, R100). -/
def drain : Nat → State → Nat → State
  | 0, s, _ => s
  | n + 1, s, v =>
    match voyOf s v with
    | none => s
    | some x =>
      match x.answer with
      | none => s
      | some a =>
        let w := x.cur
        if fSpan w then
          let s := contEntry s v
          match voyOf s v with
          | none => s
          | some y =>
            match (lookAhead s y).2 with
            | some pg => missPage s v y pg
            | none =>
              match entryWords s y y.entry with
              | none => s
              | some c =>
                let s := reachEntry s v y c
                match entryFormat s y c with
                | some e => finishEntry s v y.entry c (Result.fail 0x16 e)
                | none => drain n s v
        else
          let r := shortResult a (x.chainK + countOf w) x.moved
          if a.status = 0x02 then
            finishEntry s v x.entry (skippedWords w)
              (if x.entry + 1 < entryCount x then { r with jump := some (x.entry + 1) } else { r with ends := true })
          else finishEntry s v x.entry w r

/-- The chain of the current entry ends with an outcome that its last entry reports. -/
def drainWith (s : State) (v : Nat) (a : Answer) : State :=
  match voyOf s v with
  | none => s
  | some x => drain (entryCount x + 1) (modVoy s v fun x => { x with answer := some a }) v

/-- The timeout deadline of an entry that begins to wait (R68). -/
def setDeadline (s : State) (v : Nat) : State :=
  modVoy s v fun x =>
    if tmoOf x.first = 0 ∨ x.deadline.isSome then x
    else { x with deadline := some (s.tb.time + 10000 * tmoOf x.first) }

/-- What a voyage waits for outside its context is given up: a request to a role image, a place before a barge channel, a place before a completion ring. -/
def abandonWait (s : State) (v : Nat) (x : Voyage) : State :=
  match x.park with
  | .request p => withdrawRequest s p v
  | .shadow n => modChan s n fun c => { c with waiting := c.waiting.filter (· != v) }
  | .room m => modCq s x.part m fun c => { c with parked := c.parked.filter (· != v) }
  | _ => s

/-- The entry and `TAG` of the HALTED record of a voyage at a boundary (R105, R165): those of the entry that waits or would run next. -/
def haltMark (x : Voyage) : Nat × Word :=
  if x.state = .candidate ∨ x.state = .admitted then (0xFFFF, 0)
  else (x.entry, if x.cur.isEmpty then 0 else tagOf x.cur)

/-- The voyage is inside an entry that it has to finish first (R105): one that has been woken or resumed, and stands in Ready or holds its slot, is no longer waiting (log 99). -/
def midEntry (x : Voyage) : Bool := (x.state == .active || x.state == .ready) && x.stage != .fresh

/-- A HALT takes effect on a voyage at its next entry boundary (R105); `k` posts the HALTED record, but that of a voyage that waits at step 8 takes the place of the record which waits there, and so its place in the ring's order (log 138). -/
def haltBy (k : State → Voyage → BitVec 128 → State) (s : State) (v : Nat) : State :=
  match voyOf s v with
  | none => s
  | some x =>
    if x.state = .ending || noEngine s then s
    else if midEntry x then modVoy s v fun x => { x with halting := true }
    else
      let s := stopWaiting (endReads (rewindAll s (.voyage v)) (.voyage v)) (.voyage v)
      match x.posting with
      | some r =>
        modVoy s v fun x =>
          { x with posting := some (haltedFor r), pulseDue := false, nextAt := none, suspending := false, haltAt := none }
      | none =>
        let s := abandonWait s v x
        let m := haltMark x
        let s := modVoy s v fun x => { x with suspending := false, haltAt := none }
        k s x (mkRecord m.2 0 0x24 0 m.1 v { x with repeated := x.repeated && !x.cur.isEmpty } false 0)

/-- A HALT takes effect outside a landing. -/
def haltVoy (s : State) (v : Nat) : State := haltBy (fun s _ r => postLast s v r) s v

/-- A HALT in force ends a voyage that has come to a boundary within its entry or chain. -/
def haltDue (s : State) (v : Nat) : State :=
  match voyOf s v with
  | some x => if x.halting then haltVoy s v else s
  | none => s

/-- Step 6 with what follows it. -/
def sixth (act : State → Nat → Voyage → List Word → State × Six) (s : State) (v : Nat) : State :=
  match voyOf s v with
  | none => s
  | some x =>
    let r := act s v x x.cur
    match r.2 with
    | .done res => finishEntry r.1 v x.entry x.cur res
    | .more => haltDue (arrive (contEntry r.1 v) v) v
    | .short a => drainWith r.1 v a
    | .park why => haltDue (parkVoy (setDeadline r.1 v) v why .waiting) v
    | .hold => modVoy r.1 v fun x => { x with stage := .woken }
    | .gone => r.1

/-! ## Steps 3 to 5 -/

/-- The first budget of the crossing that is short (R128): 1 cycles, 2 cells. -/
def budgetShort (x : Voyage) (cycles cells : Nat) : Option Nat :=
  if x.cycles < cycles then some 1 else if x.cells < cells then some 2 else none

/-- Charges are checked and taken for a timed voyage, once for an entry that is re-executed (R128, R145). -/
def charge (s : State) (v : Nat) (x : Voyage) (cycles cells : Nat) : State × Option Nat :=
  if !x.timed || x.chainCharged then (s, none)
  else
    match budgetShort x cycles cells with
    | some e => (s, some e)
    | none => (modVoy s v fun x => { x with cycles := x.cycles - cycles, cells := x.cells - cells, chainCharged := true }, none)

/-- The voyage owns queue `q` (R116). -/
def ownsQueue (s : State) (x : Voyage) (q : Nat) : Bool := decide (q < 8192) && (queueOf s q).any fun y => y.owner == x.part

/-- The endpoint belongs to the voyage's partition; any partition can send to the sink (R415). -/
def ownsEndpoint (s : State) (x : Voyage) (e : Nat) : Bool :=
  let d := epOf s e
  e == 0x3FFF || (d.state != .free && d.owner.toNat == x.part)

/-- The queue that an entry names in w4, with which the partition's ownership is checked. -/
def queueOfEntry (w : List Word) : Nat := fieldOf (wd w 4) 0 13

/-- The ownership test of step 5 that the entry fails, as status and extended status (R77, R116). -/
def ownFail (s : State) (x : Voyage) (w : List Word) : Option (Nat × Nat) :=
  let op := opOf w
  let t := tgtOf w
  let q := queueOfEntry w
  if isPortTarget w then
    let y := portOf s t
    if y.owner != some x.part then some (0x13, 0x01)
    else if tFind x.captured t != some y.number then some (0x12, 0x01)
    else if y.eng.state = .failed then some (0x26, 0)
    else if op = 0x0C ∧ !ownsQueue s x q then some (0x13, 0x02)
    else none
  else if t = 0xF0 ∨ op = 0x10 ∨ op = 0x0C then
    if !ownsQueue s x q then some (0x13, 0x02)
    else if op = 0x0C ∧ t = 0xF0 ∧ !fSink w ∧ !ownsQueue s x (fieldOf (wd w 5) 0 13) then some (0x13, 0x02)
    else if (op = 0x10 ∨ t = 0xF2) ∧ !ownsEndpoint s x (fieldOf (wd w 5) 0 14) then some (0x13, 0x05)
    else none
  else if t = 0xF1 then
    if (chanOf s (fieldOf (wd w 4) 0 5)).owner = some x.part then none else some (0x13, 0x03)
  else if t = 0xF2 then
    if ownsEndpoint s x (fieldOf (wd w 4) 0 14) then none else some (0x13, 0x05)
  else if op = 0x06 then
    if ownsEvent s x.part (fieldOf (wd w 4) 0 10) then none else some (0x13, 0x04)
  else none

/-- Step 5, then the operation. -/
def fifth (act : State → Nat → Voyage → List Word → State × Six) (s : State) (v : Nat) : State :=
  match voyOf s v with
  | none => s
  | some x =>
    match ownFail s x x.cur with
    | some (st, e) => finishEntry s v x.entry x.cur (Result.fail st e)
    | none => sixth act s v

/-- The voyage suspends before the entry (R102): the SUSPENDED record first, then the state; a resume event that the partition does not own ends the entry (R452). -/
def suspend (s : State) (v : Nat) (x : Voyage) (w : List Word) : State :=
  let w4 := wd w 4
  if w4.getLsbD 21 && !ownsEvent s x.part (fieldOf w4 22 10) then finishEntry s v x.entry w (Result.fail 0x13 0x04)
  else
    let r := mkRecord (tagOf w) 0 0x03 0 x.entry v x false 0
    postRecord (modVoy s v fun x => { x with suspending := true, effect := true }) v r false none

/-- Steps 3 to 6 of an entry that begins a chain or stands alone. -/
def third (act : State → Nat → Voyage → List Word → State × Six) (s : State) (v : Nat) (chain : List (List Word)) : State :=
  match voyOf s v with
  | none => s
  | some x =>
    let w := x.cur
    if !((condOf w).testBit x.cond.toNat) then
      let c := charge s v x (skipCharge chain) 0
      match c.2 with
      | some e => finishEntry c.1 v x.entry w (Result.fail 0x21 e)
      | none => drainWith c.1 v { status := 0x02 }
    else
      let pauses := fPause w && !x.resumeLatch
      let cc := chainCharge chain
      let c := charge s v x (cc.1 + if pauses then 8 else 0) cc.2
      match c.2 with
      | some e => finishEntry c.1 v x.entry w (Result.fail 0x21 e)
      | none =>
        if pauses then suspend c.1 v x w
        else fifth act (if fPause w then modVoy c.1 v fun x => { x with resumeLatch := false } else c.1) v

/-! ## An entry's row -/

/-- The active voyage goes on with its entry, if it is one of those that `accept` names: from step 1 before a fresh entry, at step 5 after a suspension, inside step 6 after a wait. -/
def runEntry (accept : List Word → Bool) (act : State → Nat → Voyage → List Word → State × Six) (s : State) (v : Nat) : State :=
  match voyOf s v with
  | none => s
  | some x =>
    if x.state != .active || !isRun s then s
    else
      match x.stage with
      | .fresh =>
        match entryWords s x x.entry with
        | none => arrive s v
        | some w =>
          if !accept w then s
          else
            let ahead := lookAhead s x
            match ahead.2 with
            | some pg => missPage s v x pg
            | none =>
              let s := reachEntry s v x w
              match entryFormat s x w with
              | some e => finishEntry s v x.entry w (Result.fail 0x16 e)
              | none =>
                if x.answer.isSome then drain (entryCount x + 1) s v
                else if isCont x then sixth act s v
                else third act s v ahead.1
      | .resumed => if accept x.cur then fifth act s v else s
      | .woken => if accept x.cur then sixth act s v else s
      | _ => s

/-- The outcome of an entry's row. -/
def entryRow (accept : List Word → Bool) (act : State → Nat → Voyage → List Word → State × Six) (v : Fin 4096) (s : State) :
    Host.Outcome State Fault Refusal :=
  .next (conclude s (runEntry accept act s v.val))

/-- The entries of one opcode. -/
def withOp (op : Nat) (w : List Word) : Bool := opOf w == op

/-! ## Voyage registers and marks -/

/-- V`k` of a voyage (R66). -/
def vreg (x : Voyage) (k : Nat) : Word := tGet x.regs k 0
/-- The state with V`k` of a voyage set. -/
def setVreg (s : State) (v k : Nat) (w : Word) : State := modVoy s v fun x => { x with regs := tPut x.regs k w }
/-- An effect of the current entry has been confirmed (R144). -/
def markEffect (s : State) (v : Nat) : State := modVoy s v fun x => { x with effect := true }
/-- A voyage's request takes its place among those of the crypto engine, which keep theirs while their AUTH goes on (R485). -/
def joinCrypto (s : State) (v : Nat) : State :=
  let l := s.sec.crypto.filter fun y => (voyOf s y).any fun x => opOf x.cur == 0x10
  { s with sec := { s.sec with crypto := if l.contains v then l else l ++ [v] } }

/-- The landing bound of the voyage for a queue, as a packet number; an untimed voyage has none (R50, R256). -/
def boundFor (x : Voyage) (q : Queue) : Nat := if x.timed then boundOf q x.xclass else tailOf q

end Sys2Proof.Machine
end

