-- ==== Sys2Proof/Machine/RoridFlags.lean ====
section
/-!
DEFINITION. The results and flags of Rorid arithmetic: sums and differences with carry and overflow, shifts, products, quotients, conditions, and the accumulators' saturation (11_rorid_instructions.md R326 to R350).
-/
namespace Sys2Proof.Machine

/-- The integer lies outside the signed 32-bit range. -/
def outside32 (x : Int) : Bool := x < -2 ^ 31 || 2 ^ 31 ≤ x

/-- Sum with its flags (R327, R336): the carry-in is 0 but for ADDX. -/
def addFlags (a b : Word) (cin : Nat) : Word × BitVec 5 × Bool :=
  let u := a.toNat + b.toNat + cin
  let c := 2 ^ 32 ≤ u
  (BitVec.ofNat 32 u, flagIf c flagC ||| flagIf (outside32 (a.toInt + b.toInt + cin)) flagV, c)

/-- Difference with its flags (R327, R336): the borrow-in is 0 but for SUBX. -/
def subFlags (a b : Word) (bin : Nat) : Word × BitVec 5 × Bool :=
  let c := a.toNat < b.toNat + bin
  (a - b - BitVec.ofNat 32 bin, flagIf c flagC ||| flagIf (outside32 (a.toInt - b.toInt - bin)) flagV, c)

/-- Logical shift left by a count from 0 to 63 (R328). -/
def shlBy (a : Word) (n : Nat) : Word := a <<< n
/-- Logical shift right by a count from 0 to 63 (R328). -/
def shrBy (a : Word) (n : Nat) : Word := a >>> n
/-- Arithmetic shift right by a count from 0 to 63 (R328). -/
def sarBy (a : Word) (n : Nat) : Word := a.sshiftRight n

/-- Number of leading zero bits, from `n` bits looked at (R329). -/
def clzFrom (a : Word) : Nat → Nat
  | 0 => 0
  | n + 1 => if a.getLsbD n then 0 else 1 + clzFrom a n

/-- CLZ (R329). -/
def clz (a : Word) : Word := BitVec.ofNat 32 (clzFrom a 32)

/-- NEG and its flag (R329). -/
def negFlags (a : Word) : Word × BitVec 5 := (0 - a, flagIf (a == 0x80000000) flagV)

/-- ABS and its flag (R329). -/
def absFlags (a : Word) : Word × BitVec 5 := (if 0 ≤ a.toInt then a else 0 - a, flagIf (a == 0x80000000) flagV)

/-- Bits 63 to 32 of an integer. -/
def highWord (x : Int) : Word := BitVec.ofInt 32 (x / 2 ^ 32)

/-- MUL and its flag (R332). -/
def mulFlags (a b : Word) : Word × BitVec 5 := (a * b, flagIf (outside32 (a.toInt * b.toInt)) flagV)

/-- The one signed division that overflows (R333). -/
def divOverflow (a b : Word) : Bool := a == 0x80000000 && b == 0xFFFFFFFF

/-- DIV (R333). -/
def divFlags (a b : Word) : Word × BitVec 5 :=
  if b = 0 then (if 0 ≤ a.toInt then 0x7FFFFFFF else 0x80000000, flagDZ)
  else if divOverflow a b then (0x80000000, flagV)
  else (BitVec.ofInt 32 (a.toInt.tdiv b.toInt), 0)

/-- REM (R333). -/
def remFlags (a b : Word) : Word × BitVec 5 :=
  if b = 0 then (a, flagDZ)
  else if divOverflow a b then (0, flagV)
  else (BitVec.ofInt 32 (a.toInt.tmod b.toInt), 0)

/-- DIVU (R333). -/
def divuFlags (a b : Word) : Word × BitVec 5 :=
  if b = 0 then (0xFFFFFFFF, flagDZ) else (BitVec.ofNat 32 (a.toNat / b.toNat), 0)

/-- REMU (R333). -/
def remuFlags (a b : Word) : Word × BitVec 5 :=
  if b = 0 then (a, flagDZ) else (BitVec.ofNat 32 (a.toNat % b.toNat), 0)

/-- The condition t of CMP and CMPI (R334). -/
def condHolds (cond : Nat) (a b : Word) : Bool :=
  match cond with
  | 0x0 => a == b
  | 0x1 => a != b
  | 0x2 => a.toInt < b.toInt
  | 0x3 => b.toInt ≤ a.toInt
  | 0x4 => a.toInt ≤ b.toInt
  | 0x5 => b.toInt < a.toInt
  | 0x6 => a.toNat < b.toNat
  | 0x7 => b.toNat ≤ a.toNat
  | 0x8 => a.toNat ≤ b.toNat
  | 0x9 => b.toNat < a.toNat
  | 0xA => a &&& b == 0
  | _ => a &&& b != 0

/-- `ACC` combines t with the predicate (R335). -/
def accumulate (acc : BitVec 2) (old t : Bool) : Bool :=
  match acc.toNat with
  | 0 => t
  | 1 => old && t
  | _ => old || t

/-- An exact accumulator result: the value written, and whether it overflows (R349). -/
def accResult (sat : Bool) (x : Int) : BitVec 40 × Bool :=
  if -2 ^ 39 ≤ x ∧ x < 2 ^ 39 then (BitVec.ofInt 40 x, false)
  else if !sat then (BitVec.ofInt 40 x, true)
  else (if 0 < x then 0x7FFFFFFFFF else 0x8000000000, true)

/-- EXTA's destination and its flag (R350). -/
def extaFlags (a : BitVec 40) (k : Nat) : Word × BitVec 5 :=
  let y := a.toInt / 2 ^ k
  if 2 ^ 31 - 1 < y then (0x7FFFFFFF, flagV)
  else if y < -2 ^ 31 then (0x80000000, flagV)
  else (BitVec.ofInt 32 y, 0)

end Sys2Proof.Machine
end

