-- ==== Sys2Proof/Machine/RoridMem.lean ====
section
/-!
DEFINITION. Rorid accesses to the scratchpad, the data stack, the instruction bank and the I/O registers (10_rorid_architecture.md R291, R305, R313; 11_rorid_instructions.md R337 to R341; 19_onchip_memories.md R541 to R544).
-/
namespace Sys2Proof.Machine

/-- Bytes of an access by `SIZE` (R337). -/
def sizeBytes (size : BitVec 2) : Nat :=
  match size.toNat with
  | 0 => 1
  | 1 => 2
  | _ => 4

/-- A scratchpad address is refused: out of range or not aligned (R291). -/
def badAddr (a n : Nat) : Bool := 0x7FFF < a || a % n != 0

/-- A correctable error in a scratchpad word is corrected and counted (R544). -/
def correctSpad (s : State) (p w : Nat) : State :=
  modPort s p fun q =>
    if q.spadSoft.contains w then
      { q with spadSoft := q.spadSoft.filter (· != w),
               spadCorrected := if q.spadCorrected = 0xFFFF then 0xFFFF else q.spadCorrected + 1 }
    else q

/-- The value that an access of `n` bytes at `a` reads, zero-extended. -/
def spadValue (q : Port) (a n : Nat) : Word := BitVec.ofNat 32 (leNat (memBytes q.spad a n))

/-- An engine's read of the scratchpad (R338, R542, R544): `k` continues with the value; `met` tells that side B wrote the word in the same cycle. -/
def spadRead (s : State) (p a n : Nat) (met : Bool) (k : State → Word → State × Ctl) : State × Ctl :=
  let q := portOf s p
  if met then k (setFlags (drawn s) p flagCOL) (BitVec.ofNat 32 ((freeOf s).toNat % 2 ^ (8 * n)))
  else if q.spadBad.contains (a / 4) then (conclude s (failByWord s p (a / 4)), .stop)
  else k (correctSpad s p (a / 4)) (spadValue q a n)

/-- An engine's write of the scratchpad (R541, R544): a write of all four bytes replaces the word; a smaller one of a word in error is a failure. -/
def spadWrite (s : State) (p a n : Nat) (w : Word) : State × Ctl :=
  let q := portOf s p
  if n < 4 && q.spadBad.contains (a / 4) then (conclude s (failByWord s p (a / 4)), .stop)
  else
    (modPort (if n < 4 then correctSpad s p (a / 4) else s) p fun q =>
      { q with spad := memPut q.spad a (leBytes n w.toNat), spadBad := q.spadBad.filter (· != a / 4),
               spadSoft := q.spadSoft.filter (· != a / 4) }, .next)

/-- The LD result of a value by `SIZE` and `SX` (R337). -/
def ldExtend (size : BitVec 2) (sx : Bool) (w : Word) : Word :=
  match size.toNat, sx with
  | 0, true => (w.setWidth 8).signExtend 32
  | 1, true => (w.setWidth 16).signExtend 32
  | _, _ => w

/-- LD (R337, R338). -/
def execRLd (p : Fin 96) (g : Guard) (rd ra : BitVec 4) (size : BitVec 2) (sx : Bool) (off : BitVec 11) (met : Bool) (s : State) :
    Host.Outcome State Fault Refusal :=
  .next (runRorid p g (encL g 0x0A rd ra size sx off) 2 1 (fun s =>
    let a := readReg (portOf s p) ra + off.signExtend 32
    let n := sizeBytes size
    if badAddr a.toNat n then (s, .trap 0x05 a)
    else spadRead s p a.toNat n met fun s w => (putReg s p rd (ldExtend size sx w), .next)) s)

/-- ST (R337, R338). -/
def execRSt (p : Fin 96) (g : Guard) (rs ra : BitVec 4) (size : BitVec 2) (off : BitVec 11) (s : State) :
    Host.Outcome State Fault Refusal :=
  .next (runRorid p g (encL g 0x0B rs ra size false off) 1 1 (fun s =>
    let q := portOf s p
    let a := readReg q ra + off.signExtend 32
    let n := sizeBytes size
    if badAddr a.toNat n then (s, .trap 0x05 a) else spadWrite s p a.toNat n (readReg q rs)) s)

/-- `STACK_LIMIT` (R314). -/
def stackLimit (q : Port) : Nat := fieldOf (imageHdr q 5) 16 16
/-- `STACK_TOP` (R314). -/
def stackTop (q : Port) : Nat := fieldOf (imageHdr q 5) 0 16

/-- PUSH (R305, R339): the register is read before the pointer moves. -/
def execRPush (p : Fin 96) (g : Guard) (rs : BitVec 4) (s : State) : Host.Outcome State Fault Refusal :=
  .next (runRorid p g (encS g 0x0 rs) 1 1 (fun s =>
    let q := portOf s p
    let sp := (readReg q (spCode q)).toNat
    if sp < stackLimit q + 4 then (s, .trap 0x04 (readReg q (spCode q)))
    else if badAddr (sp - 4) 4 then (s, .trap 0x05 (BitVec.ofNat 32 (sp - 4)))
    else
      let r := spadWrite s p (sp - 4) 4 (readReg q rs)
      (putReg r.1 p (spCode q) (BitVec.ofNat 32 (sp - 4)), r.2)) s)

/-- POP (R305, R339): the pointer advances, then the register takes the word. -/
def execRPop (p : Fin 96) (g : Guard) (rd : BitVec 4) (met : Bool) (s : State) : Host.Outcome State Fault Refusal :=
  .next (runRorid p g (encS g 0x1 rd) 2 1 (fun s =>
    let q := portOf s p
    let sp := (readReg q (spCode q)).toNat
    if stackTop q < sp + 4 then (s, .trap 0x04 (readReg q (spCode q)))
    else if badAddr sp 4 then (s, .trap 0x05 (readReg q (spCode q)))
    else spadRead s p sp 4 met fun s w => (putReg (putReg s p (spCode q) (BitVec.ofNat 32 (sp + 4))) p rd w, .next)) s)

/-- ILD (R340, R312). -/
def execRIld (p : Fin 96) (g : Guard) (rd ra : BitVec 4) (off : BitVec 12) (s : State) : Host.Outcome State Fault Refusal :=
  .next (runRorid p g (encW g 0x0D rd ra off) 2 1 (fun s =>
    let q := portOf s p
    let a := readReg q ra + off.signExtend 32
    if 4095 < a.toNat then (s, .trap 0x06 a)
    else if (activeBank q).bad.contains a.toNat then (conclude s (failByWord s p a.toNat), .stop)
    else
      let s := if (activeBank q).soft.contains a.toNat then modPort s p (correctBank · a.toNat) else s
      (putReg s p rd (bankWord q a.toNat), .next)) s)

/-- IST (R313, R340). -/
def execRIst (p : Fin 96) (g : Guard) (rs ra : BitVec 4) (off : BitVec 12) (s : State) : Host.Outcome State Fault Refusal :=
  let w := encW g 0x0E rs ra off
  .next (runRorid p g w 1 1 (fun s =>
    let q := portOf s p
    let a := readReg q ra + off.signExtend 32
    if !imageIstEn q then (s, .trap 0x01 w)
    else if 4095 < a.toNat then (s, .trap 0x06 a)
    else
      (modPort s p fun q => modActive q fun b =>
        { b with words := tPut b.words a.toNat (readReg q rs), bad := b.bad.filter (· != a.toNat),
                 soft := b.soft.filter (· != a.toNat) }, .next)) s)

/-- The I/O address of IN and OUT (R341). -/
def ioAddr (q : Port) (ra : BitVec 4) (ind : Bool) (io : BitVec 8) : Nat :=
  if ind then ((readReg q ra).toNat + io.toNat) % 256 else io.toNat

/-- IN (R341). -/
def execRIn (p : Fin 96) (g : Guard) (rd ra : BitVec 4) (ind : Bool) (io : BitVec 8) (s : State) :
    Host.Outcome State Fault Refusal :=
  .next (runRorid p g (encIO g 0x0 rd ra ind io) 2 1 (fun s =>
    let a := ioAddr (portOf s p) ra ind io
    (putReg (ioReadEffect s p a) p rd (ioRead s p a), .next)) s)

/-- OUT (R341). -/
def execROut (p : Fin 96) (g : Guard) (rd ra : BitVec 4) (ind : Bool) (io : BitVec 8) (s : State) :
    Host.Outcome State Fault Refusal :=
  .next (runRorid p g (encIO g 0x1 rd ra ind io) 1 1 (fun s =>
    let q := portOf s p
    (conclude s (ioWrite s p (ioAddr q ra ind io) (readReg q rd)), .next)) s)

end Sys2Proof.Machine
end

