-- ==== Sys2Proof/Machine/RoridQueue.lean ====
section
/-!
DEFINITION. The Rorid queue instructions and the ends of their waits (11_rorid_instructions.md R351 to R357; 08_deck_memory.md).
-/
namespace Sys2Proof.Machine

/-- The queue that a register names is attached to the port (R352). -/
def attachedTo (s : State) (p : Nat) (w : Word) : Option Nat :=
  let n := w.toNat
  if n < 2 ^ 13 ∧ (queueOf s n).bind (·.port) = some p then some n else none

/-- Queue `n` is one of a partition whose reset has fenced port `p`, until the port's safe-state landing (R356). -/
def portFenced (s : State) (p n : Nat) : Bool := (queueOf s n).any fun q => (portOf s p).fencers.contains q.owner

/-- How a register's queue number stands: attached, fenced, or neither. -/
inductive QueueAt where
  | attached (n : Nat)
  | fenced
  | none

/-- The queue a queue instruction acts on (R352, R356): a fenced queue stays so after its removal, until the safe-state landing. -/
def queueAt (s : State) (p : Nat) (w : Word) : QueueAt :=
  match attachedTo s p w with
  | some n => if portFenced s p n then .fenced else .attached n
  | none => if (portOf s p).fencedQs.contains w.toNat then .fenced else .none

/-- OK (R353). -/
def qOk : Word := 0
/-- NOT_ATTACHED (R353). -/
def qNotAttached : Word := 0x80000001
/-- REWOUND (R353). -/
def qRewound : Word := 0x80000002
/-- DATA_LOSS (R353). -/
def qDataLoss : Word := 0x80000003
/-- NO_PACKET (R353). -/
def qNoPacket : Word := 0x80000004
/-- EMPTY (R353). -/
def qEmpty : Word := 0x80000005
/-- TOO_LONG (R353). -/
def qTooLong : Word := 0x80000006

/-- The instruction places a value in Rd and completes. -/
def qDone (s : State) (p : Nat) (rd : BitVec 4) (w : Word) : State × Ctl := (putReg s p rd w, .next)

/-- A queue instruction: what it does on an attached queue, and its results where the port is fenced or the queue is not attached. -/
def runQueue (p : Fin 96) (g : Guard) (w : Word) (rd rq : BitVec 4) (fenced : State → State × Word) (absent : Word)
    (f : Nat → State → State × Ctl) (s : State) : State :=
  runRorid p g w 1 1 (fun s =>
    match queueAt s p (readReg (portOf s p) rq) with
    | .attached n => f n s
    | .fenced => let r := fenced s; qDone r.1 p rd r.2
    | .none => qDone s p rd absent) s

/-- The port as an agent of the deck. -/
def portAgent (p : Fin 96) : Agent := .port p.val

/-- Bytes are appended for a QPUT, or the instruction stalls with the bytes left (R250, R252). -/
def putBytes (s : State) (p : Fin 96) (n : Nat) (rd : BitVec 4) (l : List Byte) : State × Ctl :=
  let r := appendBytes s (portAgent p) n l
  match r.refused with
  | none => qDone (unstall r.state (portAgent p)) p rd qOk
  | some reason => (conclude s (stallProducer r.state (portAgent p) n reason), .wait (.put n rd (l.drop r.done)))

/-- The hardware's rewind of the port's packet has been reported: production starts afresh (R357). -/
def forgetRewound (s : State) (p : Fin 96) (n : Nat) : State := modQueue s n fun q => dropBuilding q (portAgent p)

/-- QPUT (R351). -/
def execRQput (p : Fin 96) (g : Guard) (rd rq rs : BitVec 4) (size : BitVec 2) (s : State) : Host.Outcome State Fault Refusal :=
  .next (runQueue p g (encQ g 0x0 rd rq rs size false) rd rq (fun s => (s, qOk)) qNotAttached (fun n s =>
    let k := sizeBytes size
    let b := (queueOf s n).bind fun q => buildingOf q (portAgent p)
    if (b.map (·.rewound)).getD false then qDone (forgetRewound s p n) p rd qRewound
    else if 16777215 < ((b.map fun x => x.pkt.len).getD 0) + k then qDone s p rd qTooLong
    else putBytes s p n rd (leBytes k (readReg (portOf s p) rs).toNat)) s)

/-- Hardware has rewound the port's packet under production (R259). -/
def rewoundPort (s : State) (p : Fin 96) (n : Nat) : Bool :=
  (((queueOf s n).bind fun q => buildingOf q (portAgent p)).map (·.rewound)).getD false

/-- The port's packet is committed, or found rewound (R357), and the instruction completes. -/
def commitNow (s : State) (p : Fin 96) (n : Nat) (rd : BitVec 4) : State × Ctl :=
  if rewoundPort s p n then qDone (forgetRewound s p n) p rd qRewound
  else qDone (conclude s (commitPacket s (portAgent p) n)) p rd qOk

/-- QCOMMIT (R351, R586): whether every byte has already been written to its cells is a matter of the berths, and a free value. -/
def execRQcommit (p : Fin 96) (g : Guard) (rd rq : BitVec 4) (s : State) : Host.Outcome State Fault Refusal :=
  .next (runQueue p g (encQ g 0x1 rd rq 0 0 false) rd rq (fun s => (s, qRewound)) qNotAttached (fun n s =>
    match (queueOf s n).bind fun q => buildingOf q (portAgent p) with
    | none => qDone s p rd qNoPacket
    | some b =>
      if b.rewound then qDone (forgetRewound s p n) p rd qRewound
      else if (freeOf s).getLsbD 0 then commitNow (drawn s) p n rd
      else (drawn s, .wait (.commit n rd))) s)

/-- QDROP (R351). -/
def execRQdrop (p : Fin 96) (g : Guard) (rd rq : BitVec 4) (s : State) : Host.Outcome State Fault Refusal :=
  .next (runQueue p g (encQ g 0x2 rd rq 0 0 false) rd rq (fun s => (s, qOk)) qNotAttached (fun n s =>
    match (queueOf s n).bind fun q => buildingOf q (portAgent p) with
    | none => qDone s p rd qNoPacket
    | some b =>
      if b.rewound then qDone s p rd qNoPacket
      else qDone (rewindPacket s (portAgent p) n) p rd qOk) s)

/-- The port's read of queue `n` ends (R354, R257). -/
def closeRead (s : State) (p : Fin 96) (n : Nat) : State :=
  match tFind (portOf s p).reads n with
  | some r =>
    if r.isOpen then
      modPort (endRead s n (portAgent p) r.pkt) p fun q => { q with reads := tPut q.reads n { r with isOpen := false } }
    else s
  | none => s

/-- The packet holds a quarantined cell (R259). -/
def packetLost (s : State) (k : Packet) : Bool := k.cells.any s.deck.quar.contains

/-- The port claims the packet at the read point, and the instruction completes with its length (R354, R357). -/
def claimNow (s : State) (p : Fin 96) (n : Nat) (rd : BitVec 4) : State × Ctl :=
  match queueOf s n with
  | none => qDone s p rd qEmpty
  | some q =>
    match packetAt q q.readAt with
    | none => qDone s p rd qEmpty
    | some k =>
      let s := modQueue s n fun q => claimPacket q (portAgent p)
      if packetLost s k then qDone (endRead s n (portAgent p) q.readAt) p rd qDataLoss
      else
        qDone (modPort s p fun x => { x with reads := tPut x.reads n { pkt := q.readAt, cells := k.cells, len := k.len } })
          p rd (BitVec.ofNat 32 k.len)

/-- QCLAIM (R351, R354, R255). -/
def execRQclaim (p : Fin 96) (g : Guard) (rd rq : BitVec 4) (nw : Bool) (s : State) : Host.Outcome State Fault Refusal :=
  .next (runQueue p g (encQ g 0x3 rd rq 0 0 nw) rd rq (fun s => (s, qEmpty)) qNotAttached (fun n s =>
    let s := modPort (closeRead s p n) p fun q => { q with reads := tDel q.reads n }
    match queueOf s n with
    | none => qDone s p rd qNotAttached
    | some q =>
      if 0 < visible q then claimNow s p n rd
      else if nw then qDone s p rd qEmpty
      else (waitOn s n (portAgent p), .wait (.claim n rd))) s)

/-- The byte at `pos` of an open read; a byte of a cell that held an uncorrectable error reads as 0 (R357). -/
def readByte (s : State) (r : OpenRead) (pos : Nat) : Byte :=
  if r.len ≤ pos ∨ r.bad.contains (pos / 64) then 0 else memRead s.deck.mem (64 * r.cells.getD (pos / 64) 0 + pos % 64)

/-- The cell at `pos` of an open read was lost. -/
def lostAt (r : OpenRead) (pos : Nat) : Bool := pos < r.len && r.bad.contains (pos / 64)

/-- An error met in the cells of a read is detected: the cell is quarantined, or corrected (R240, R258). -/
def meetCells (s : State) (n : Nat) (l : List Nat) : State :=
  l.foldl (fun s c =>
    if s.deck.bad.contains c && !s.deck.quar.contains c then quarantineCell s c (some n)
    else if s.deck.soft.any (· / 8 == c) then correctCell s c else s) s

/-- The bytes of a QGET are in the read buffer (R355). -/
def arrivedFor (r : OpenRead) (k : Nat) : Bool := (min (r.pos + k) r.len + 63) / 64 ≤ r.arrived

/-- The port reads `k` bytes of its open read of queue `n`, and the instruction completes (R351, R354, R357). -/
def getNow (s : State) (p : Fin 96) (n : Nat) (rd : BitVec 4) (k : Nat) (r : OpenRead) : State × Ctl :=
  let w := BitVec.ofNat 32 (leNat ((List.range k).map fun i => readByte s r (r.pos + i)))
  let r' := { r with pos := r.pos + k, lost := r.lost || (List.range k).any fun i => lostAt r (r.pos + i) }
  let t := modPort s p fun q => { q with reads := tPut q.reads n r' }
  let t := if r.len ≤ r.pos + k then closeRead t p n else t
  qDone (settle s t) p rd w

/-- QGET (R351, R354, R355). -/
def execRQget (p : Fin 96) (g : Guard) (rd rq : BitVec 4) (size : BitVec 2) (s : State) : Host.Outcome State Fault Refusal :=
  .next (runQueue p g (encQ g 0x4 rd rq 0 size false) rd rq (fun s => (s, 0)) 0 (fun n s =>
    match tFind (portOf s p).reads n with
    | none => qDone s p rd 0
    | some r =>
      if !r.isOpen then qDone s p rd 0
      else if arrivedFor r (sizeBytes size) then getNow s p n rd (sizeBytes size) r
      else (s, .wait (.get n rd (sizeBytes size)))) s)

/-- QEND on a fenced port closes any open read (R356). -/
def fencedEnd (s : State) (p : Fin 96) (n : Nat) : State × Word :=
  match tFind (portOf s p).reads n with
  | some r => (modPort (closeRead s p n) p fun q => { q with reads := tDel q.reads n }, if r.isOpen then qDataLoss else qNoPacket)
  | none => (s, qNoPacket)

/-- QEND (R351, R354): a read is reported once. -/
def execRQend (p : Fin 96) (g : Guard) (rd rq : BitVec 4) (s : State) : Host.Outcome State Fault Refusal :=
  .next (runQueue p g (encQ g 0x5 rd rq 0 0 false) rd rq (fun s => fencedEnd s p ((readReg (portOf s p) rq).toNat)) qNotAttached
    (fun n s =>
      match tFind (portOf s p).reads n with
      | none => qDone s p rd qNoPacket
      | some r =>
        let s := modPort (closeRead s p n) p fun q => { q with reads := tDel q.reads n }
        qDone s p rd (if r.lost then qDataLoss else qOk)) s)

/-- QMARK (R257). -/
def execRQmark (p : Fin 96) (g : Guard) (rd rq : BitVec 4) (s : State) : Host.Outcome State Fault Refusal :=
  .next (runQueue p g (encQ g 0x6 rd rq 0 0 false) rd rq (fun s => (s, qOk)) qNotAttached
    (fun n s => qDone (queueMark s n) p rd qOk) s)

/-- QREW (R257). -/
def execRQrew (p : Fin 96) (g : Guard) (rd rq : BitVec 4) (s : State) : Host.Outcome State Fault Refusal :=
  .next (runQueue p g (encQ g 0x7 rd rq 0 0 false) rd rq (fun s => (s, qOk)) qNotAttached
    (fun n s => qDone (queueRewind s n) p rd qOk) s)

/-- QREL (R257). -/
def execRQrel (p : Fin 96) (g : Guard) (rd rq : BitVec 4) (s : State) : Host.Outcome State Fault Refusal :=
  .next (runQueue p g (encQ g 0x8 rd rq 0 0 false) rd rq (fun s => (s, qOk)) qNotAttached
    (fun n s => qDone (queueRelease s n) p rd qOk) s)

/-- QDEPTH (R351). -/
def execRQdepth (p : Fin 96) (g : Guard) (rd rq : BitVec 4) (s : State) : Host.Outcome State Fault Refusal :=
  .next (runQueue p g (encQ g 0x9 rd rq 0 0 false) rd rq (fun s => (s, 0)) qNotAttached (fun n s =>
    match queueOf s n with
    | none => qDone s p rd qNotAttached
    | some q => qDone s p rd (BitVec.ofNat 32 (min (visible q) 0xFFFFFF))) s)

/-! ## The ends of waits (R303) -/

/-- A waiting queue instruction completes or waits on: the cycles it has waited are a free value. -/
def endWait (s : State) (p : Fin 96) (r : State × Ctl) : State :=
  let e := (portOf s p).eng
  match r.2 with
  | .next =>
    let t := addCycles (drawn r.1) p (1 + (freeOf r.1).toNat)
    goNext t p e.pc.toNat (fetchAt (portOf s p) (e.pc.toNat + 1))
  | c => endInstr s r.1 p e.pc.toNat 1 (0, .clean) c

/-- What a port's engine waits for, where it runs in RUN. -/
def waitOf (s : State) (p : Fin 96) : EngWait :=
  let e := (portOf s p).eng
  if isRun s && e.state == .running then e.wait else .no

/-- QCLAIM_WAIT_END (R255, R586): a port that a commit has woken claims the packet, or waits on in its place where another consumer has taken it. -/
def execQclaimWaitEnd (p : Fin 96) (s : State) : Host.Outcome State Fault Refusal :=
  .next <|
    match waitOf s p with
    | .claim n rd =>
      match queueOf s n with
      | some q =>
        if !q.woken.contains (portAgent p) then s
        else if 0 < visible q then endWait s p (claimNow s p n rd)
        else waitOn s n (portAgent p)
      | none => s
    | _ => s

/-- QPUT_STALL_END (R250, R252): the port has taken the cell, or its packet has been rewound (R357). -/
def execQputStallEnd (p : Fin 96) (s : State) : Host.Outcome State Fault Refusal :=
  .next <|
    match waitOf s p with
    | .put n rd l =>
      if rewoundPort s p n then endWait s p (qDone (forgetRewound s p n) p rd qRewound)
      else
        let t := if isRun s then serveStalls s else s
        if t.deck.stalls.any fun x => x.agent == portAgent p && x.granted then
          endWait t p (putBytes (unstall t (portAgent p)) p n rd l)
        else t
    | _ => s

/-- QCOMMIT_WAIT_END (R586). -/
def execQcommitWaitEnd (p : Fin 96) (s : State) : Host.Outcome State Fault Refusal :=
  .next <|
    match waitOf s p with
    | .commit n rd => endWait s p (commitNow s p n rd)
    | _ => s

/-- The read of queue `n` has a requested cell outstanding (R355). -/
def cellDue (r : OpenRead) : Bool := r.isOpen && r.arrived < r.cells.length && r.arrived < r.pos / 64 + 2

/-- The queue whose requested cell arrives: the one a QGET waits on, else the lowest with a request outstanding. -/
def arrivalQueue (s : State) (p : Fin 96) : Option Nat :=
  let q := portOf s p
  match waitOf s p with
  | .get n _ _ => some n
  | _ => (q.reads.find? fun x => cellDue x.2).map Prod.fst

/-- The requested cell of a read has come from its bank, where an error in it is met (R240, R258, R355). -/
def bufferCell (s : State) (n : Nat) (r : OpenRead) : State × OpenRead :=
  let c := r.cells.getD r.arrived 0
  let lost := s.deck.bad.contains c || s.deck.quar.contains c
  (meetCells s n [c], { r with arrived := r.arrived + 1, bad := if lost then r.bad ++ [r.arrived] else r.bad })

/-- QGET_CELL_ARRIVAL (R355). -/
def execQgetCellArrival (p : Fin 96) (s : State) : Host.Outcome State Fault Refusal :=
  .next <|
    if isRun s then
      match arrivalQueue s p with
      | none => s
      | some n =>
        match tFind (portOf s p).reads n with
        | none => s
        | some r =>
          if cellDue r then
            let c := bufferCell s n r
            let r' := c.2
            let t := settle s (modPort c.1 p fun q => { q with reads := tPut q.reads n r' })
            match waitOf s p with
            | .get m rd k => if m = n && arrivedFor r' k then endWait t p (getNow t p n rd k r') else t
            | _ => t
          else s
    else s

/-- The result that a fence gives an instruction of port `p` that waits on a queue (R356). -/
def fenceWait (s : State) (p : Fin 96) : State :=
  match waitOf s p with
  | .put _ rd _ => endWait s p (qDone (unstall (stopWaiting s (portAgent p)) (portAgent p)) p rd qOk)
  | .commit _ rd => endWait s p (qDone s p rd qRewound)
  | .claim _ rd => endWait s p (qDone (stopWaiting s (portAgent p)) p rd qEmpty)
  | .get _ rd _ => endWait s p (qDone s p rd 0)
  | _ => s

end Sys2Proof.Machine
end

