-- ==== Sys2Proof/Machine/RingOps.lean ====
section
/-!
DEFINITION. Submission rings: jobs, their checks, and what the ring unit does with each (05_rings.md R158 to R166, R175).
-/
namespace Sys2Proof.Machine

/-! ## Entries (R160, R161) -/

/-- `TYPE`. -/
def seType (w : List Word) : Nat := fieldOf (wd w 0) 0 8
/-- `FIRST`. -/
def seFirst (w : List Word) : Bool := (wd w 0).getLsbD 8
/-- `LAST`. -/
def seLast (w : List Word) : Bool := (wd w 0).getLsbD 9
/-- `VID`. -/
def seVid (w : List Word) : Nat := fieldOf (wd w 0) 16 12
/-- `QUEUE` of a DATA entry. -/
def seQueue (w : List Word) : Nat := fieldOf (wd w 1) 0 13
/-- `LEN` of a DATA entry. -/
def seLen (w : List Word) : Nat := fieldOf (wd w 1) 16 5
/-- The bits set in `VMASK`, lowest register first. -/
def seRegs (w : List Word) : List Nat := (List.range 8).filter fun k => (wd w 1).getLsbD k
/-- The data bytes of a DATA entry. -/
def seData (w : List Word) : List Byte := (w.drop 2).flatMap fun x => leBytes 4 x.toNat

/-- Every word from `i` on is 0. -/
def zeroFrom (w : List Word) (i : Nat) : Bool := (w.drop i).all (· == 0)

/-- A field that must be 0 is not (R160, R161): where a `LEN` is valid, the bytes beyond it among them; `n` is the number of register values that a PARAM carries. -/
def seReserved (w : List Word) (n : Nat) : Bool :=
  let vid := fieldOf (wd w 0) 16 12 != 0
  fieldOf (wd w 0) 10 6 != 0 || fieldOf (wd w 0) 28 4 != 0 ||
    (match seType w with
      | 0x00 => vid || !zeroFrom w 1
      | 0x01 => fieldOf (wd w 1) 8 24 != 0 || !zeroFrom w (4 + min 4 (seRegs w).length)
      | 0x02 => wd w 1 != 0 || !zeroFrom w (2 + min 4 n)
      | 0x05 => vid || fieldOf (wd w 1) 13 3 != 0 || fieldOf (wd w 1) 21 11 != 0
          || (1 ≤ seLen w && seLen w ≤ 24 && (seData w).drop (seLen w) != List.replicate (24 - seLen w) 0)
      | _ => !zeroFrom w 1)

/-! ## The ring's own state -/

/-- A submission ring's flag has been set, and the partition event raised. -/
def sqEvent (s : State) (p : Nat) : State := partEvent s p 0

/-- The ring faults (R175). -/
def faultSq (s : State) (p n : Nat) : State := sqEvent (modSq s p n fun r => { r with fault := true }) p

/-- The entry at C is consumed (R155): C passes it, and the doorbells that it was the last entry of are done with. -/
def consumeEntry (s : State) (p n : Nat) : State :=
  modSq s p n fun r =>
    let c := r.c + 1
    { r with c := c, entries := r.entries.drop 1, cover := r.cover.filter fun x => x.1 != c, shadowDue := true,
             seen := r.seen.drop 1, cnt := bump r.cnt 0 }

/-- The landing against which the entry at C is classed: that of the doorbell that covers it (R38, R158). -/
def classOf (r : SubRing) : Nat := (r.cover.head?.map Prod.snd).getD 0

/-- The ring unit as an agent of the deck. -/
def ringAgent (p n : Nat) : Agent := .ring p n

/-- The refusal of the job that began at index `i` is latched and counted (R166). -/
def refuseAt (s : State) (p n : Nat) (i : BitVec 16) (reason : Nat) : State :=
  let s := modSq s p n fun r => { r with refused := true, reason := BitVec.ofNat 8 reason, index := i, cnt := bump r.cnt 1 }
  sqEvent s p

/-- A job is refused at the entry at C, which is consumed with it; a packet that it has begun is rewound. -/
def refuseJob (s : State) (p n : Nat) (i : BitVec 16) (reason : Nat) : State :=
  let s := rewindAll (consumeEntry s p n) (ringAgent p n)
  refuseAt (modSq s p n fun r => { r with job := none }) p n i reason

/-- The entry at C is consumed, and the job is over. -/
def endJob (s : State) (p n : Nat) : State := modSq (consumeEntry s p n) p n fun r => { r with job := none }

/-! ## START, RESUME and HALT (R163, R165) -/

/-- The partition may use a voyage ID (R115). -/
def vidAllowed (s : State) (p v : Nat) : Bool :=
  (partOf s p).vidBase ≤ v && v < (partOf s p).vidBase + (partOf s p).vidCount

/-- A START is taken up, and its header is fetched; it occupies its context only when that has passed its check (R115). -/
def startVoy (s : State) (p n : Nat) (i : BitVec 16) (w : List Word) (vals : List Word) (lsn : Nat) : State :=
  let v := seVid w
  let x : Voyage :=
    { part := p, header := (wd w 3 ++ wd w 2 : BitVec 64).toNat, ring := n, state := .candidate, startLsn := lsn,
      overlay := (seRegs w).zip vals, startIdx := i }
  modSch s fun c => { c with starting := c.starting ++ [(v, x)] }

/-- The START at the end of whose job the ring unit stands, with the values it carries. -/
def takeStart (s : State) (p n : Nat) (i : BitVec 16) (w : List Word) (vals : List Word) (lsn : Nat) : State :=
  if !vidAllowed s p (seVid w) then refuseJob s p n i 0x04
  else if (voyOf s (seVid w)).isSome then refuseJob s p n i 0x05
  else startVoy (endJob s p n) p n i w vals lsn

/-- The landing that R38 gives an entry of a timed voyage has passed before its fetch returned: the voyage becomes LATE (R53, R158). -/
def lateEntry (s : State) (v lsn : Nat) (x : Voyage) : State :=
  if s.tb.landed && decide (classLanding s x.xclass lsn ≤ s.tb.lsn) then modVoy s v fun x => { x with late := true } else s

/-- A RESUME of an existing voyage: of an untimed one it acts at once, of a timed one at its landing (R38, R103, R104). -/
def resumeBy (s : State) (n v lsn : Nat) (x : Voyage) : State :=
  if x.timed then modVoy (lateEntry s v lsn x) v fun x => { x with resumes := x.resumes ++ [(classLanding s x.xclass lsn, n)] }
  else actResume s v n lsn

/-- A HALT of an existing voyage (R165): of an untimed one at once, of a timed one at its landing, the earliest where there are several. -/
def haltEntry (s : State) (v lsn : Nat) (x : Voyage) : State :=
  if x.timed then
    modVoy (lateEntry s v lsn x) v fun x =>
      let n := classLanding s x.xclass lsn
      { x with haltAt := some (min (x.haltAt.getD n) n) }
  else haltVoy s v

/-- RESUME and HALT: the voyage must exist within the partition's range (R166). -/
def takeVoyJob (s : State) (p n : Nat) (i : BitVec 16) (w : List Word) (f : State → Voyage → State) : State :=
  match (if vidAllowed s p (seVid w) then voyOf s (seVid w) else none) with
  | some x => f (endJob s p n) x
  | none => refuseJob s p n i 0x07

/-! ## DATA (R164) -/

/-- The entry at C of a DATA job is written into the packet under production, from the bytes `l` on; a refused cell stalls the job. -/
def writeData (s : State) (p n q : Nat) (i : BitVec 16) (w : List Word) (l : List Byte) : State :=
  let r := appendBytes s (ringAgent p n) q l
  match r.refused with
  | some reason =>
    stallProducer (modSq r.state p n fun y => { y with job := some { first := i, queue := q, left := l.drop r.done } })
      (ringAgent p n) q reason
  | none =>
    let s := unstall r.state (ringAgent p n)
    if seLast w then endJob (commitPacket s (ringAgent p n) q) p n
    else modSq (consumeEntry s p n) p n fun y => { y with job := some { first := i, queue := q } }

/-- The hardware has rewound the packet of the ring unit in a queue (R259). -/
def ringRewound (s : State) (p n q : Nat) : Bool :=
  (((queueOf s q).bind fun y => buildingOf y (ringAgent p n)).map (·.rewound)).getD false

/-- The reason for which an entry refuses the DATA job that it stands in, if it does; `ends` tells that the job's shape breaks there. -/
def dataReason (s : State) (p q : Nat) (w : List Word) (ends : Bool) : Option Nat :=
  if 6 ≤ seType w then some 0x01
  else if seReserved w 4 then some 0x02
  else if ends then some 0x03
  else if !((queueOf s q).any fun y => y.owner == p) then some 0x08
  else if seLen w = 0 ∨ 24 < seLen w then some 0x09
  else none

/-- An entry of a DATA job that has been refused, or whose packet the hardware has rewound, is consumed without effect; the job is over with its last entry, or with the one where its shape breaks. -/
def skipData (s : State) (p n : Nat) (j : Job) (w : List Word) (ends : Bool) : State :=
  if ends || seLast w then endJob s p n
  else modSq (consumeEntry s p n) p n fun y => { y with job := some { j with left := [] } }

/-- A DATA job is refused at the entry at C, and its further entries have no effect (R166). -/
def refuseData (s : State) (p n : Nat) (j : Job) (w : List Word) (reason : Nat) (ends : Bool) : State :=
  let s := refuseJob s p n j.first reason
  if ends || seLast w then s else modSq s p n fun y => { y with job := some { j with refused := true, left := [] } }

/-- A DATA entry that begins a job, or goes on with one whose packet stands. -/
def takeData (s : State) (p n : Nat) (j : Job) (w : List Word) (ends : Bool) : State :=
  match dataReason s p j.queue w ends with
  | some e => refuseData s p n j w e (ends || decide (6 ≤ seType w))
  | none =>
    if j.rewound then skipData s p n j w false
    else writeData s p n j.queue j.first w ((seData w).take (seLen w))

/-! ## One entry (R162, R166) -/

/-- An entry is the PARAM that a START asks for. -/
def isParam (w w2 : List Word) : Bool := seType w2 == 0x02 && !seFirst w2 && seLast w2 && seVid w2 == seVid w

/-- A START and the entry after it, at which the ring unit now stands: its PARAM, or the break of the job (R158, R162). A START with a nonzero reserved field takes its PARAM with it (R166). -/
def takeParam (s : State) (p n : Nat) (i : BitVec 16) (w w2 : List Word) : State :=
  if seReserved w 0 then refuseJob (if isParam w w2 then consumeEntry s p n else s) p n i 0x02
  else
    let s := consumeEntry s p n
    if 6 ≤ seType w2 then refuseJob s p n i 0x01
    else if seType w2 = 0x02 ∧ seReserved w2 ((seRegs w).length - 4) then refuseJob s p n i 0x02
    else if !isParam w w2 then refuseJob s p n i 0x03
    else takeStart s p n i w (w.drop 4 ++ w2.drop 2) (((sqOf s p n).map classOf).getD 0)

/-- A START whose shape asks for a PARAM (R162). -/
def wantsParam (w : List Word) : Bool := seType w == 0x01 && seFirst w && !seLast w && decide (4 < (seRegs w).length)

/-- The entry at C begins a job. -/
def beginJob (s : State) (p n : Nat) (r : SubRing) (w : List Word) : State :=
  let i := r.c
  let whole := seFirst w && seLast w
  if wantsParam w then
    match r.entries with
    | _ :: w2 :: _ => takeParam s p n i w w2
    | _ => s
  else if seType w = 0x05 ∧ seFirst w then takeData s p n { first := i, queue := seQueue w } w false
  else if 6 ≤ seType w then refuseJob s p n i 0x01
  else if seReserved w 4 then refuseJob s p n i 0x02
  else
    match seType w with
    | 0x00 => if whole then endJob s p n else refuseJob s p n i 0x03
    | 0x01 => if whole && decide ((seRegs w).length ≤ 4) then takeStart s p n i w (w.drop 4) (classOf r) else refuseJob s p n i 0x03
    | 0x03 =>
      if whole then takeVoyJob s p n i w fun s x => resumeBy s n (seVid w) (classOf r) x else refuseJob s p n i 0x03
    | 0x04 =>
      if whole then takeVoyJob s p n i w fun s x => haltEntry s (seVid w) (classOf r) x else refuseJob s p n i 0x03
    | _ => refuseJob s p n i 0x03

/-- The shape of a DATA job under way breaks at an entry (R162). -/
def shapeBreaks (r : SubRing) (j : Job) (w : List Word) : Bool :=
  seType w != 0x05 || seFirst w || seQueue w != j.queue || (decide (1023 ≤ (r.c - j.first).toNat) && !seLast w)

/-- The entry at C continues a job under way. -/
def goOnJob (s : State) (p n : Nat) (r : SubRing) (j : Job) (w : List Word) : State :=
  let ends := shapeBreaks r j w
  if j.refused then skipData s p n j w ends
  else
    let gone := ringRewound s p n j.queue
    let s := if gone then rewindAll s (ringAgent p n) else s
    let j := { j with rewound := j.rewound || gone }
    if j.left.isEmpty then takeData s p n j w ends
    else if j.rewound then skipData s p n j w false
    else writeData s p n j.queue j.first w j.left

/-- The ring unit stands still: the ring is faulted, nothing is fetched, or its DATA job is stalled. -/
def ringIdle (s : State) (p n : Nat) (r : SubRing) : Bool :=
  r.fault || r.entries.isEmpty || (s.deck.stalls.any fun x => x.agent == ringAgent p n)

/-- The words of the ring entry with index `i` as its memory holds them now. -/
def entryNow (s : State) (p : Nat) (r : SubRing) (i : Nat) : List Word :=
  let a := r.base + 32 * (i % 2 ^ 16 % r.size)
  match windowAt s p a with
  | some w => (List.range 8).map (wordAt ((List.range 32).map fun k => byteAt s w (a + k)))
  | none => []

/-- A word of an entry that has changed before C passes it: the old or the new contents are taken, and which is a free value (R155). -/
def eitherWord (s : State) (old new : Word) : State × Word :=
  if old = new then (s, new) else (drawn s, if (freeOf s).getLsbD 0 then old else new)

/-- The words of an entry that has been fetched as `w`, where the memory held `a` then and holds `b` now (R155). -/
def changedWords (s : State) : List Word → List Word → List Word → State × List Word
  | x :: w, a :: l, b :: m =>
    let y := if a = b then (s, x) else eitherWord s x b
    let z := changedWords y.1 w l m
    (z.1, y.2 :: z.2)
  | w, _, _ => (s, w)

/-- The contents of the first `k` entries that have been fetched, as the ring unit takes them now. -/
def settleEntries (s : State) (p n : Nat) : Nat → State
  | 0 => s
  | k + 1 =>
    let s := settleEntries s p n k
    match sqOf s p n with
    | none => s
    | some r =>
      let now := entryNow s p r (r.c.toNat + k)
      let t := changedWords s (r.entries.getD k []) (r.seen.getD k []) now
      modSq t.1 p n fun r =>
        { r with entries := r.entries.set k t.2, seen := if now.isEmpty then r.seen else r.seen.set k now }

/-- The jobs that the fetched entries complete are taken up, in index order (R159). -/
def takeEntries : Nat → State → Nat → Nat → State
  | 0, s, _, _ => s
  | k + 1, s, p, n =>
    let s := settleEntries s p n 2
    match sqOf s p n with
    | none => s
    | some r =>
      if ringIdle s p n r then s
      else
        let w := r.entries.headD []
        let s := match r.job with
          | none => beginJob s p n r w
          | some j => goOnJob s p n r j w
        takeEntries k s p n

/-- Every entry fetched is taken up as far as it can be. -/
def runRing (s : State) (p n : Nat) : State :=
  match sqOf s p n with
  | some r => takeEntries (r.entries.length + 1) s p n
  | none => s

end Sys2Proof.Machine
end

