-- ==== Sys2Proof/Machine/LogOps.lean ====
section
/-!
DEFINITION. Appending to the logbook: records, detail records, the chain, seal groups and the gap record (17_security_and_logbook.md R496 to R502).
-/
namespace Sys2Proof.Machine

/-- The state with the logbook changed. -/
def modLog (s : State) (f : Logbook → Logbook) : State := { s with log := f s.log }

/-- Little-endian bytes as a 256-bit record. -/
def recOf (l : List Byte) : BitVec 256 := BitVec.ofNat 256 (leNat l)

/-- The four bytes at 0x0C of a record: sequence number, partition, door and kind (R496). -/
def logTag (seq part door kind : Nat) : List Byte :=
  leBytes 4 (seq % 2 ^ 16 + part * 2 ^ 16 + door * 2 ^ 21 + kind * 2 ^ 24)

/-- The first 8 bytes of the chain value (R499). -/
def logLink (l : Logbook) : List Byte := leBytes 8 l.h.toNat

/-- A record laid out as R496. -/
def logHead (s : State) (part door kind object : Nat) (digest : List Byte) : BitVec 256 :=
  recOf (leBytes 8 s.tb.time ++ leBytes 4 s.tb.lsn ++ logTag s.log.next part door kind ++ leBytes 4 object
    ++ digest ++ logLink s.log)

/-- A DETAIL record with 20 detail bytes (R497). -/
def logDetail (s : State) (part door : Nat) (b : List Byte) : BitVec 256 :=
  let b := (b ++ List.replicate 20 0).take 20
  recOf (b.take 12 ++ logTag s.log.next part door 0xE1 ++ b.drop 12 ++ logLink s.log)

/-- A record enters the ring, which keeps the 4,096 most recent (R501). -/
def logPut (l : Logbook) (r : BitVec 256) : Logbook :=
  { l with ring := (l.ring ++ [r]).drop (l.ring.length + 1 - 4096), next := l.next + 1 }

/-- A chained record is appended (R499). -/
def logChain (s : State) (r : BitVec 256) : State :=
  modLog s fun l =>
    let l := { l with h := sha256v (leBytes 32 l.h.toNat ++ leBytes 32 r.toNat), sinceSeal := l.sinceSeal + 1 }
    logPut l r

/-- Places left in the ring, its reserve included (R502). -/
def logRoom (s : State) : Nat := 4096 - unexported s

/-- An always-written record for which the reserve has no place is lost (R502). -/
def logLose (s : State) : State := modLog s fun l => { l with lost := l.lost + 1 }

/-- A seal group is placed (R500): its four places are fixed, its signature is written later. -/
def sealPlace (s : State) (doors : List Nat) : State :=
  if logRoom s < 4 then logLose s
  else
    let head := logHead s 0 2 0xF0 s.log.sinceSeal [0, 0, 0, 0]
    modLog s fun l =>
      let seq := l.next
      let l := logPut (logPut (logPut (logPut l head) l.h) 0) 0
      { l with sinceSeal := 0, seals := l.seals ++ [⟨seq, doors⟩] }

/-- A seal group follows every 256th chained record since the last group (R500): the records just appended have reached one. -/
def sealCheck (before : Nat) (s : State) : State := if before / 256 < s.log.sinceSeal / 256 then sealPlace s [] else s

/-- `n` DETAIL records. -/
def logDetails (s : State) (part door : Nat) : Nat → List Byte → State
  | 0, _ => s
  | n + 1, b => logDetails (logChain s (logDetail s part door b)) part door n (b.drop 20)

/-- A record and its detail records take consecutive sequence numbers; the seal group that falls among them follows them (R498, R500). -/
def logDraftPut (s : State) (d : LogDraft) : State :=
  let r := logHead s d.part d.door d.kind d.object ((sha256 d.body).take 4)
  sealCheck s.log.sinceSeal (logDetails (logChain s r) d.part d.door d.details d.detail)

/-- The gap record that tells how many records were lost (R502). -/
def logGap (s : State) : State :=
  if s.log.lost = 0 then s
  else logDraftPut (modLog s fun l => { l with lost := 0 }) { kind := 0xE0, object := s.log.lost }

/-- Room for `n` places after the gap record that is first to be written, its own seal group and the gap record for that group's loss included (R500, R502); without room, what was to take them is lost, and the flag is false. -/
def logMake (s : State) (n : Nat) : State × Bool :=
  if logRoom s < n + (if s.log.lost = 0 then 0 else 1) then (logLose s, false)
  else
    let t := logGap (logGap s)
    if logRoom t < n then (logLose t, false) else (t, true)

/-- A record takes its places, or is lost (R502). -/
def logPlace (s : State) (d : LogDraft) : State :=
  let r := logMake s (1 + d.details)
  if r.2 then logDraftPut r.1 d else r.1

/-- A record that is due is written: a COMMAND record, which the reserve does not serve, while the logbook is not full (R502). -/
def logOwed (s : State) (d : LogDraft) : State := if d.kind = 0x03 && logFull s then s else logPlace s d

/-- The records that are due are of earlier happenings, and go before any that is appended (R498). -/
def logFlush (s : State) : State := s.log.due.foldl logOwed (modLog s fun l => { l with due := [] })

/-- An always-written record (R502). -/
def logAlways (s : State) (d : LogDraft) : State := logPlace (logFlush s) d

/-- A record that the reserve does not serve (R502): written while the logbook is not full. -/
def logNormal (s : State) (d : LogDraft) : State :=
  let t := logFlush s
  if logFull t then t else logPlace t d

/-- A record that firmware writes within its bound: it is due (R530). -/
def logDue (s : State) (d : LogDraft) : State := modLog s fun l => { l with due := l.due ++ [d] }

end Sys2Proof.Machine
end

