-- ==== Sys2Proof/Machine/BargeOps.lean ====
section
/-!
DEFINITION. Barge channels: reading and checking a descriptor, and loading the shadow set (09_barge_dma.md R264 to R271).
-/
namespace Sys2Proof.Machine

/-- A list count fits its flag (R267). -/
def countOk (isList : Bool) (n : Nat) : Bool := if isList then 1 ≤ n && n ≤ 4096 else n == 0

/-- The descriptor that 32 bytes spell, or none where R269 rejects it. -/
def parseDesc (l : List Byte) (timed : Bool) : Option Descriptor :=
  let w := wordAt l
  let len := fieldOf (w 1) 16 4 * 2 ^ 32 + (w 2).toNat
  let src := (w 5 ++ w 4 : BitVec 64).toNat
  let d : Descriptor :=
    { mode := BitVec.ofNat 2 (fieldOf (w 0) 0 2), slist := (w 0).getLsbD 2, dlist := (w 0).getLsbD 3,
      barrier := (w 0).getLsbD 4, scount := fieldOf (w 0) 8 13, dcount := fieldOf (w 1) 0 13, length := len,
      src := src, dst := (w 7 ++ w 6 : BitVec 64).toNat, timed := timed }
  if d.mode != 3 && fieldOf (w 0) 5 3 == 0 && fieldOf (w 0) 21 11 == 0 && fieldOf (w 1) 13 3 == 0
      && fieldOf (w 1) 20 12 == 0 && w 3 == 0 && len != 0
      && !(d.slist && d.mode == 1) && countOk d.slist d.scount && countOk d.dlist d.dcount
      && !(d.mode == 2 && 0xFFFFFFFF < len) && !(d.mode == 1 && 2 ^ 32 ≤ src) then some d
  else none

/-- An idle channel takes its shadow set over (R271): the mismatch latch is cleared. -/
def takeOver (c : Channel) : Channel :=
  match c.active, c.shadow with
  | none, some d => { c with active := some { desc := d }, shadow := none, latch := none, ended := none }
  | _, _ => c

/-- The lowest voyage that waits for a channel's shadow set returns to Ready (R270, R271). -/
def wakeLoader (s : State) (n : Nat) : State :=
  let parked (v : Nat) : Bool := match voyOf s v with | some x => x.state == .parked && x.park == .shadow n | none => false
  match leastBy id ((chanOf s n).waiting.filter parked) with
  | some v => wakeVoy (modChan s n fun c => { c with waiting := c.waiting.filter (· != v) }) v .woken
  | none => s

/-- While the shadow set of channel `n` stays empty, the next that waits for it can load (R270, R271). -/
def nextLoader (s : State) (n : Nat) : State := if (chanOf s n).shadow.isNone then wakeLoader s n else s

/-- A descriptor is loaded into the empty shadow set of channel `n`, and taken over by an idle channel; the next that waits can then load (R270, R271). -/
def loadShadow (s : State) (n : Nat) (d : Descriptor) : State :=
  nextLoader (modChan s n fun c => takeOver { c with shadow := some d }) n

/-- How the loading of a descriptor comes out. -/
inductive LoadOut where
  | loaded (s : State) (bytes : Nat)
  | window (s : State) (ext : Nat)
  | lost (s : State) (ext : Nat)
  | rejected (s : State)
  | budget
  | full

/-- The descriptor at a partition address is read, checked, held against the remaining barge bytes of a timed voyage, and loaded (R89, R129, R269, R270); one whose address is not a multiple of 32 is rejected as R269 rejects it (R267; log 123). -/
def loadDesc (s : State) (p n a : Nat) (timed : Bool) (budget : Option Nat) : LoadOut :=
  let r := readFor s p a 32 .read
  match r.2, r.1.loss with
  | some e, _ => .window r.1.state e
  | none, some e => .lost r.1.state e
  | none, none =>
    match (if a % 32 = 0 then parseDesc r.1.bytes timed else none) with
    | none => .rejected r.1.state
    | some d =>
      if (match budget with | some b => decide (b < d.length) | none => false) then .budget
      else if (chanOf s n).shadow.isSome then .full
      else .loaded (loadShadow r.1.state n d) d.length

end Sys2Proof.Machine
end

