-- ==== Sys2Proof/Machine/EndpointOps.lean ====
section
/-!
DEFINITION. Sending a message to an endpoint: the directory lookup, the authentication trailer, and the commit to a queue, a link's transmit path or the discovery sink (14_endpoints_and_identity.md R415 to R417; 17_security_and_logbook.md R487 to R489).
-/
namespace Sys2Proof.Machine

/-! ## Message authentication (R487 to R489) -/

/-- The bytes of a message, all but its MAC, that the MAC covers. -/
def macInput (eid : Nat) (m : List Byte) : List Byte :=
  leBytes 2 eid ++ (if 80 ≤ m.length + 8 then m.take 4 ++ m.drop 64 else m)

/-- The 8 bytes of `MAC` under a key. -/
def macOf (key : List Byte) (eid : Nat) (m : List Byte) : List Byte := (cmac key (macInput eid m)).take 8

/-- Key slot 2, fixed in ROM (R479). -/
def romKey : KeySlot := { kind := 6, persist := true, material := bvBytes 64 Config.denquinKey }

/-- Key slot `n`. -/
def slotOf (s : State) (n : Nat) : KeySlot := if n = 2 then romKey else tGet s.sec.keys n {}

/-- The slot is in a partition's `KEYSLOTS`; a bit for slot 0 has no effect (R479). -/
def maySlot (s : State) (p n : Nat) : Bool := n != 0 && (partOf s p).keyslots.getLsbD n

/-- The extended status of AUTH_FAIL for an endpoint's key, if it is not usable by a partition (R488). -/
def authFail (s : State) (p : Nat) (e : Endpoint) (freshness : BitVec 64) : Option Nat :=
  let k := slotOf s e.keySlot.toNat
  if !e.authEn || !(k.kind == 1 || k.kind == 2) then some 0x01
  else if !maySlot s p e.keySlot.toNat then some 0x02
  else if freshness = BitVec.allOnes 64 then some 0x03
  else none

/-! ## The lookup (R412, R415) -/

/-- The place that an endpoint entry names, or the status and extended status with which the lookup ends the sending entry. -/
def sendPath (s : State) (p eid : Nat) : (Nat × Nat) ⊕ SendPath :=
  if eid = 0x3FFF then .inr .sink
  else
    let e := epOf s eid
    if e.state = .free ∨ e.owner.toNat ≠ p then .inl (0x13, 0x05)
    else if e.state = .pending then .inl (0x12, 0x02)
    else if e.kind = 2 then .inr (.link (if e.link then 1 else 0))
    else if e.port = 127 then .inr (.queue (fieldOf (e.busAddr.setWidth 32) 0 13) false)
    else
      let q := (portOf s e.port.toNat).txq
      if q = 0x1FFF ∨ (queueOf s q.toNat).isNone then .inl (0x13, 0x02) else .inr (.queue q.toNat true)

/-- The queue number under which a path's packet is built. -/
def pathQueue : SendPath → Option Nat
  | .sink => none
  | .queue n _ => some n
  | .link n => some (pathNo n)

/-- A message of `n` bytes is too long for a kind-2 endpoint (R415). -/
def tooLong (x : Sending) (n : Nat) : Bool :=
  match x.path with
  | .link _ => decide (65535 < n + if x.entry.authEn then 16 else 0)
  | _ => false

/-! ## The commit (R416, R489) -/

/-- The message with its first bytes replaced by those of a word. -/
def putIdent (m : List Byte) (w : Word) : List Byte := ((leBytes 4 w.toNat).take m.length) ++ m.drop 4

/-- Word 0x00 of a record delivered to a port endpoint (R416). -/
def identFor (e : Endpoint) (ident : Word) : Word :=
  if ident = BitVec.allOnes 32 then e.busAddr.setWidth 32 else ident &&& 0x7FFFFFFF

/-- `LEN` increased by 16 (R489). -/
def growLen (m : List Byte) : List Byte :=
  if m.length < 64 then m
  else
    let w := BitVec.ofNat 32 (leNat ((m.drop 4).take 4))
    let w := (w &&& 0xF000FFFF) ||| (BitVec.ofNat 32 ((fieldOf w 16 12 + 16) % 4096) <<< 16)
    m.take 4 ++ leBytes 4 w.toNat ++ m.drop 8

/-- The message as committed: its record word, and the trailer where `AUTH_EN` is 1; the entry is the one that the lookup found, the counter that of the commit cycle. -/
def finalBytes (s : State) (eid : Nat) (x : Sending) (ident : Word) (m : List Byte) : List Byte :=
  let e := x.entry
  let m := match x.path with
    | .queue _ true => putIdent m (identFor e ident)
    | _ => m
  match x.path with
  | .sink => m
  | _ =>
    if e.authEn then
      let id := if e.kind = 2 then e.remote.toNat else eid
      let m := growLen m ++ leBytes 8 ((epOf s eid).txFresh + 1).toNat
      m ++ macOf (slotOf s e.keySlot.toNat).material id m
    else m

/-- The entry to which the sink matches a record: kind 1, with the record's port and bus address, and the sender as its owner (R428). -/
def sinkEntry (s : State) (sender : Nat) (m : List Byte) : Option (Nat × Endpoint) :=
  let port := fieldOf (BitVec.ofNat 32 (leNat ((m.drop 24).take 4))) 0 7
  let addr := leNat (m.take 3)
  s.ep.dir.find? fun x => x.2.kind == 1 && x.2.state != .free && x.2.port.toNat == port
    && x.2.busAddr.toNat == addr && x.2.owner.toNat == sender

/-- Cells that the sink's messages take. -/
def sinkCells (s : State) : Nat := s.ep.sink.foldl (fun n m => n + (m.bytes.length + 63) / 64) 0

/-- A message is committed to the sink, stamped with the number of the entry it matches; one for which the 4,096 cells have no room is lost. -/
def commitSink (s : State) (sender : Nat) (m : List Byte) : State :=
  if 4096 < sinkCells s + (m.length + 63) / 64 then s
  else
    let msg : Message := match sinkEntry s sender m with
      | some (eid, e) => { eid := eid, stamp := e.number, sender := sender, bytes := m }
      | none => { eid := 0x3FFF, stamp := 0, sender := sender, bytes := m }
    { s with ep := { s.ep with sink := s.ep.sink ++ [msg] } }

/-- The packet under production takes other bytes of the same length or longer, within its cells. -/
def setBuilt (s : State) (a : Agent) (qn : Nat) (m : List Byte) : State :=
  match (queueOf s qn).bind fun q => buildingOf q a with
  | none => s
  | some b =>
    let mem := m.zipIdx.foldl (fun t x => memWrite t (64 * b.pkt.cells.getD (x.2 / 64) 0 + x.2 % 64) x.1) s.deck.mem
    modQueue (modDeck s fun d => { d with mem := mem }) qn fun q =>
      setBuilding q { b with pkt := { b.pkt with len := m.length } }

/-- The bytes of an agent's packet under production. -/
def builtBytes (s : State) (a : Agent) (qn : Nat) : List Byte :=
  match (queueOf s qn).bind fun q => buildingOf q a with
  | none => []
  | some b => packetBytes s.deck.mem b.pkt

/-- The packet under production is committed to a link's transmit path, with the entry and the stamp that its lookup gave (R415, R420). -/
def commitPath (s : State) (a : Agent) (n eid sender : Nat) (e : Endpoint) (ident : Word) : State :=
  match (queueOf s (pathNo n)).bind fun q => buildingOf q a with
  | none => s
  | some b =>
    let msg : Message :=
      { eid := eid, stamp := e.number, sender := sender, part := e.part, remote := e.remote,
        ident := ident, bytes := packetBytes s.deck.mem b.pkt }
    modLink (modQueue s (pathNo n) fun q => linkPacket (dropBuilding q a) b.pkt) n fun l =>
      { l with path := l.path ++ [msg] }

/-- How sending comes out. -/
inductive SendOut where
  | done (s : State)
  | stall (s : State) (queue reason : Nat)
  | fail (s : State) (status ext : Nat)

/-- `TXFRESH` takes the value used (R489). -/
def useFresh (s : State) (eid : Nat) (e : Endpoint) : State :=
  if e.authEn then modEp s eid fun e => { e with txFresh := e.txFresh + 1 } else s

/-- The whole message stands in the packet under production: it is completed and committed (R415, R416, R489). -/
def finishSend (s : State) (a : Agent) (p eid : Nat) (x : Sending) (ident : Word) (qn : Nat) : SendOut :=
  let e := x.entry
  match (if e.authEn then authFail s p e (epOf s eid).txFresh else none) with
  | some k => .fail s 0x40 k
  | none =>
    let m := finalBytes s eid x ident (builtBytes s a qn)
    let room := (((queueOf s qn).bind fun q => buildingOf q a).map fun b => 64 * b.pkt.cells.length).getD 0
    let g : Append := if room < m.length then growPacket s a qn else ⟨s, 0, none⟩
    match g.refused with
    | some r => .stall g.state qn r
    | none =>
      let s := useFresh (setBuilt g.state a qn m) eid e
      match x.path with
      | .link n => .done (commitPath s a n eid p e ident)
      | _ => .done (commitPacket s a qn)

end Sys2Proof.Machine
end

