-- ==== Sys2Proof/Machine/ManifestOps.lean ====
section
/-!
DEFINITION. What the data-moving entries of a manifest share: memory ranges, the bytes of a packet, a port's fabric region, and the packets that voyages produce (03_manifests.md R72, R79, R80, R99, R100; 12_port_hardware.md R374; 19_onchip_memories.md R544).
-/
namespace Sys2Proof.Machine

/-! ## Residuals and progress (R99, R100, R111) -/

/-- The capacity K of the chain that the current entry belongs to, as far as the cache holds its entries. -/
def chainTotal (s : State) (x : Voyage) : Nat :=
  (chainFrom s x (entryCount x) x.entry).1.foldl (fun n w => n + countOf w) x.chainK

/-- The chain builds a packet or a message, which nothing receives unless the whole of it is sent (R80, R93). -/
def sendsWhole (w : List Word) : Bool := (opOf w == 0x02 && tgtOf w == 0xF0) || opOf w == 0x11

/-- The residual of an entry or chain that ends with a fault: `COUNT` for a FORWARD, 0 for a chain that has moved nothing (R78, R111). -/
def faultResidual (s : State) (v : Nat) : Nat :=
  match voyOf s v with
  | some x =>
    if opOf x.first = 0x0C then countOf x.first
    else if x.moved = 0 ∨ sendsWhole x.first then 0 else chainTotal s x - x.moved
  | none => 0

/-- OK with a condition. -/
def okCond (c : BitVec 2) : Result := { Result.ok with cond := some c }

/-- The entry ends with a fault. -/
def faultOut (s : State) (v status ext : Nat) : State × Six :=
  (s, .done (Result.fail status ext (faultResidual s v)))

/-- The state in which the chain has moved `n` bytes. -/
def setMoved (s : State) (v n : Nat) : State := modVoy s v fun x => { x with moved := n }

/-- The operation of an entry is done: its chain goes on under `SPAN`, and otherwise ends with the result. -/
def nextOr (s : State) (w : List Word) (r : Result) : State × Six :=
  (s, if fSpan w then .more else .done r)

/-! ## Memory ranges (R72, R538) -/

/-- The address at which the entry's next burst begins (R222). -/
def burstAddr (x : Voyage) (w : List Word) : Nat := addrOf w + x.burst

/-- The bytes of the entry's next burst, of `n` that the entry moves, the other side of the transfer standing at `pos`: a burst covers one aligned 64-byte block of a scratchpad, a queue cell, a general bank or the deck (R132, R222); a host-link request does not cross a multiple of 4 KiB (log 105). -/
def burstLen (s : State) (x : Voyage) (w : List Word) (n pos : Nat) : Nat :=
  let m := min (n - x.burst) (64 - pos % 64)
  match windowAt s x.part (burstAddr x w) with
  | some win =>
    if fSink w then m
    else if win.space = 0 then min m (4096 - placeOf win (burstAddr x w) % 4096)
    else min m (64 - placeOf win (burstAddr x w) % 64)
  | none => m

/-- The entry has moved a burst of `m` of `n` bytes: it comes to `k` where that was the last, and otherwise stands at a break point (R132). -/
def nextBurst (s : State) (v : Nat) (x : Voyage) (n m : Nat) (k : State → State × Six) : State × Six :=
  if x.burst + m < n then (modVoy s v fun y => { y with burst := x.burst + m }, .hold) else k s

/-- The entry's memory range is tested against the windows as a whole when it begins, and what is left of it again at each later burst (R72, R222). -/
def tested (s : State) (v : Nat) (x : Voyage) (w : List Word) (perm : Perm) (k : State → State × Six) : State × Six :=
  match windowFail s x.part (burstAddr x w) (if x.burst = 0 then countOf w else 1) perm with
  | some e => faultOut (countRefused s x.part) v 0x14 e
  | none => k s

/-- A bank in retention is wakened before the burst `k` that accesses it (R538). -/
def wakened (s : State) (x : Voyage) (w : List Word) (k : State → State × Six) : State × Six :=
  match asleepAt s x.part (burstAddr x w) with
  | some b => (wakeBank s b, .hold)
  | none => k s

/-- The window tests, then the waking of a bank in retention. -/
def ranged (s : State) (v : Nat) (x : Voyage) (w : List Word) (perm : Perm) (k : State → State × Six) : State × Six :=
  tested s v x w perm fun s => wakened s x w k

/-- Bytes are stored at the entry's destination, an effect of the entry where that is host memory or a general bank (R144); none under `SINK`. -/
def deliverBytes (s : State) (v : Nat) (x : Voyage) (w : List Word) (l : List Byte) : State :=
  if fSink w || l.isEmpty then s
  else
    match windowAt s x.part (burstAddr x w) with
    | some win => (if win.space = 2 then id else (markEffect · v)) (storeBytes s win (burstAddr x w) l)
    | none => s

/-- The destination of a READ is tested, but under `SINK` (R101). -/
def destined (s : State) (v : Nat) (x : Voyage) (w : List Word) (k : State → State × Six) : State × Six :=
  if fSink w then k s else ranged s v x w .write k

/-- The bytes that an entry's next burst moves from memory, or from an immediate or a register, with the loss that stopped them (R80); the other side of the transfer stands at `pos`. -/
def sourced (s : State) (v : Nat) (x : Voyage) (w : List Word) (pos : Nat) (k : State → List Byte → Option Nat → State × Six) :
    State × Six :=
  if opOf w = 0x02 ∧ tgtOf w ≠ 0xF4 ∧ (wd w 5).getLsbD 0 then k s ((leBytes 4 (wd w 2).toNat).take (countOf w)) none
  else if opOf w = 0x02 ∧ tgtOf w ≠ 0xF4 ∧ (wd w 5).getLsbD 1 then
    k s ((leBytes 4 (vreg x (fieldOf (wd w 5) 4 3)).toNat).take (countOf w)) none
  else
    ranged s v x w .read fun s =>
      match windowAt s x.part (burstAddr x w) with
      | some win => let f := fetchBytes s win (burstAddr x w) (burstLen s x w (countOf w) pos); k f.state f.bytes f.loss
      | none => (s, .gone)

/-! ## Packets that a voyage reads (R254, R257 to R259) -/

/-- The packet that the voyage's current entry has claimed from queue `qn`. -/
def heldPacket (s : State) (v qn : Nat) : Option Packet :=
  (queueOf s qn).bind fun q =>
    (q.reading.find? fun r => r.1 == Agent.voyage v).bind fun r =>
      match packetAt q r.2 with
      | some p => some p
      | none => (q.freed.find? fun f => f.1 == r.2).map Prod.snd

/-- A cell's contents cannot be read. -/
def cellLost (s : State) (c : Nat) : Bool := s.deck.bad.contains c || s.deck.quar.contains c

/-- The deck's words that bytes `pos` to `pos + n - 1` of a packet lie in. -/
def wordsMet (p : Packet) (pos n : Nat) : List Nat :=
  ((List.range n).map fun i => 8 * p.cells.getD ((pos + i) / 64) 0 + (pos + i) % 64 / 8).eraseDups

/-- Bytes `pos` to `pos + n - 1` of a packet, up to the first cell that is lost; errors met are corrected or quarantined. -/
def readPacket (s : State) (qn : Nat) (p : Packet) (pos n : Nat) : Fetch :=
  let n := min n (p.len - pos)
  let cells := (p.cells.drop (pos / 64)).take ((pos + n + 63) / 64 - pos / 64)
  let good := cells.takeWhile fun c => !cellLost s c
  let lost := good.length < cells.length
  let len := if lost then 64 * (pos / 64 + good.length) - pos else n
  let bytes := packetSlice s.deck.mem p pos len
  let s := correctWords s fun k => (wordsMet p pos len).contains k
  ⟨meetCells s qn ((cells.drop good.length).take 1), bytes, if lost then some 1 else none⟩

/-- How a claim by a voyage comes out. -/
inductive Claimed where
  | packet (s : State) (p : Packet)
  | lost (s : State)
  | none

/-- The voyage claims the packet at the read point, or has claimed it before its wait; it sees no packet beyond its bound (R254 to R256, R259). -/
def claimFor (s : State) (v : Nat) (x : Voyage) (qn : Nat) : Claimed :=
  match heldPacket s v qn with
  | some p => .packet s p
  | none =>
    match queueOf s qn with
    | none => .none
    | some q =>
      if visibleTo q (boundFor x q) = 0 then .none
      else
        match packetAt q q.readAt with
        | none => .none
        | some p =>
          let s := markEffect (modQueue s qn fun q => claimPacket q (.voyage v)) v
          if packetLost s p then .lost s else .packet s p

/-! ## Packets that a voyage produces (R245 to R252, R259) -/

/-- The hardware has rewound the voyage's packet under production: the state in which that has been reported. -/
def rewoundBy (s : State) (v qn : Nat) : Option State :=
  match (queueOf s qn).bind fun q => buildingOf q (.voyage v) with
  | some b => if b.rewound then some (modQueue s qn fun q => dropBuilding q (.voyage v)) else none
  | none => none

/-- The bytes already in the voyage's packet under production. -/
def builtLen (s : State) (v qn : Nat) : Nat :=
  (((queueOf s qn).bind fun q => buildingOf q (.voyage v)).map fun b => b.pkt.len).getD 0

/-- The voyage's packet is brought to hold `l` from byte `pos` on; the voyage stalls where a cell is refused (R250). -/
def produce (s : State) (v qn pos : Nat) (l : List Byte) (k : State → State × Six) : State × Six :=
  match rewoundBy s v qn with
  | some t => faultOut t v 0x31 0x01
  | none =>
    let have_ := builtLen s v qn - pos
    let r := appendBytes s (.voyage v) qn (l.drop have_)
    let s := setMoved r.state v (pos + have_ + r.done)
    match r.refused with
    | some reason => (stallProducer s (.voyage v) qn reason, .park (.quota qn))
    | none => k (unstall s (.voyage v))

/-! ## A port's fabric region (R72, R374, R544) -/

/-- The scratchpad byte at which the current entry begins (R99). -/
def spadStart (x : Voyage) : Nat := fieldOf (wd x.first 4) 0 15 + x.chainK

/-- The scratchpad byte at which the entry's next burst begins. -/
def spadBurst (x : Voyage) : Nat := spadStart x + x.burst

/-- A range lies in the fabric region of the port's image. -/
def inFabric (q : Port) (lo n : Nat) : Bool := imageFabBase q ≤ lo && lo + n ≤ imageFabBase q + imageFabLen q

/-- A scratchpad word lies whole within a range. -/
def wholeWord (lo n k : Nat) : Bool := lo ≤ 4 * k && 4 * k + 4 ≤ lo + n

/-- Correctable errors in the scratchpad words that a read meets, or a write in part, are corrected and counted (R544). -/
def correctSpads (s : State) (p lo n : Nat) (write : Bool) : State :=
  modPort s p fun q =>
    let met (k : Nat) : Bool := decide (0 < n) && lo / 4 ≤ k && k ≤ (lo + n - 1) / 4 && !(write && wholeWord lo n k)
    { q with spadSoft := q.spadSoft.filter fun k => !met k
             spadCorrected := BitVec.ofNat 16 (min 0xFFFF (q.spadCorrected.toNat + (q.spadSoft.filter met).length)) }

/-- The least scratchpad word in error that an access of `n` bytes at `lo` fails on: any word that a read meets, a word that a write meets in part. -/
def failingWord (q : Port) (lo n : Nat) (write : Bool) : Option Nat :=
  leastBy id (q.spadBad.filter fun k =>
    4 * k < lo + n && lo < 4 * k + 4 && !(write && wholeWord lo n k))

/-- The bytes of an access before the word it fails on. -/
def goodBytes (lo n : Nat) : Option Nat → Nat
  | none => n
  | some k => 4 * k - lo

/-- The fabric writes bytes into the scratchpad; the doorbell word makes event 15 pending. -/
def fabricWrite (s : State) (p lo : Nat) (l : List Byte) : State :=
  let left (k : Nat) : Bool := !wholeWord lo l.length k
  let s := modPort s p fun q => { q with spad := memPut q.spad lo l, spadBad := q.spadBad.filter left, spadSoft := q.spadSoft.filter left }
  let bell := imageFabBase (portOf s p) + imageFabLen (portOf s p) - 4
  if !l.isEmpty && lo < bell + 4 && bell < lo + l.length then pendEvent s p 15 else s

/-- The transfer fails on a word in error: the port fails and the entry ends with PORT_FAILED. -/
def spadFailed (s : State) (v p word : Nat) : State × Six := faultOut (failByWord s p word) v 0x26 0

end Sys2Proof.Machine
end

