-- ==== Sys2Proof/Machine/VoyageEvents.lean ====
section
/-!
DEFINITION. What happens to voyages beside their entries: manifest-page fills, timeouts, answers of the crypto engine, preemption, the end of a quantum, and the retirement of an engine (03_manifests.md R61, R68; 04_voyages_and_ferry_engines.md R132, R134, R138 to R145; 17_security_and_logbook.md R488).
-/
namespace Sys2Proof.Machine

/-! ## Fills of the manifest cache (R61, R138 to R140) -/

/-- The index of the first entry, from the current one on, that lies in page `a`. -/
def entryIn (x : Voyage) (a : Nat) : Nat :=
  (((List.range (entryCount x - x.entry)).map (x.entry + ·)).find? fun k => pageOf (entryAddr x k) == a).getD x.entry

/-- The timed voyages that have not been dispatched and for which a page is being filled that they pin (R139). -/
def pagers (s : State) (p a : Nat) : List (Nat × Voyage) :=
  s.sch.voy.filter fun x =>
    x.2.part == p && x.2.timed && (x.2.state == .candidate || x.2.state == .admitted) && (pinnedPages x.2).contains a

/-- The voyages for which a page is fetched end with a status, the record naming the entry being fetched (R61). -/
def endMissers (s : State) (p a status ext : Nat) : State :=
  if noEngine s then s
  else (missers s p a ++ pagers s p a).foldl (fun s x => endWith s x.1 status ext (entryIn x.2 a) 0) s

/-- The fill of a page through window `k`, which grants execute-as-manifest. -/
def fillPage (s : State) (p a k : Nat) (w : Window) (poisoned : Bool) : State :=
  let f := fetchBytes s w a 4096
  let loss := if poisoned && w.space = 0 then some 3 else f.loss
  match loss with
  | some e => endMissers (dropFills f.state p a) p a 0x32 e
  | none => wakeMissers (insertPage (dropFills f.state p a) p a k f.bytes) p a

/-- MANIFEST_PAGE_FILL_DONE (R138): the oldest fill of the partition is done, or finds a bank in retention and waits for it. -/
def execManifestPageFillDone (p : Fin 32) (poisoned : Bool) (s : State) : Host.Outcome State Fault Refusal :=
  .next <|
    match (if isRun s then s.sch.fills.find? fun f => f.part == p.val else none) with
    | none => s
    | some f =>
      conclude s <|
        match windowFail s p.val f.addr 4096 .manifest, asleepAt s p.val f.addr, windowOf s p.val f.addr with
        | none, some b, _ => wakeBank s b
        | none, none, some (k, w) => fillPage s p.val f.addr k w poisoned
        | _, _, _ => endMissers (dropFills (countRefused s p.val) p.val f.addr) p.val f.addr 0x14 0x04

/-! ## Timeouts (R68, R252) -/

/-- The extended status of DECK_QUOTA for a stalled voyage (R250). -/
def stallExt (s : State) (v : Nat) : Nat :=
  match s.deck.stalls.find? fun x => x.agent == .voyage v with
  | some x => if x.reason = 1 then 0x01 else 0x02
  | none => 0x02

/-- The wait of a voyage's entry ends at its deadline. -/
def expire (s : State) (v : Nat) (x : Voyage) : State :=
  let w := x.cur
  let n := if opOf w = 0x0C then countOf w else 0
  match x.park with
  | .queue _ =>
    if opOf w = 0x01 then drainWith s v { status := 0x11, ext := 0x01, cond := some 3 }
    else finishEntry s v x.entry w (Result.fail 0x11 0x01 n)
  | .quota _ =>
    finishEntry s v x.entry w (Result.fail 0x30 (stallExt s v) (if opOf w = 0x0C then n else faultResidual s v))
  | .event _ | .landing | .request _ | .shadow _ =>
    finishEntry (abandonWait s v x) v x.entry w (Result.fail 0x11 0x01)
  | _ => s

/-- TMO_EXPIRY (R68): the deadline of a waiting entry has been reached. -/
def execTmoExpiry (v : Fin 4096) (s : State) : Host.Outcome State Fault Refusal :=
  .next <|
    match voyOf s v with
    | some x =>
      if isRun s && !noEngine s && x.state == .parked && x.stage == .waiting && (x.deadline.any fun t => t ≤ s.tb.time)
      then conclude s (expire s v x) else s
    | none => s

/-! ## The crypto engine's answer (R92, R488) -/

/-- The answer to a voyage's AUTH request: what the engine found when it accepted the request. -/
def answerAuth (s : State) (v : Nat) (x : Voyage) (found : AuthFinding) : State :=
  match found with
  | .cond c => finishEntry s v x.entry x.cur (okCond c)
  | .fail k => finishEntry s v x.entry x.cur (Result.fail 0x40 k)

/-- The voyage waits for the crypto engine. -/
def atCrypto (s : State) (v : Nat) : Bool := (voyOf s v).any fun x => x.state == .parked && x.park == .crypto

/-- The voyages whose requests the crypto engine still serves, in order (R485). -/
def cryptoQueue (s : State) : List Nat := s.sec.crypto.filter (atCrypto s)

/-- The head of the engine's requests has been answered. -/
def cryptoDone (s : State) (v : Nat) : State :=
  { s with sec := { s.sec with crypto := s.sec.crypto.filter (· != v) } }

/-- CRYPTO_ANSWER (R485, R488): requests are answered in order. -/
def execCryptoAnswer (v : Fin 4096) (s : State) : Host.Outcome State Fault Refusal :=
  .next <|
    match voyOf s v with
    | some x =>
      match x.auth with
      | some found =>
        if isRun s && !noEngine s && atCrypto s v && (cryptoQueue s).head? == some v.val then
          conclude s (answerAuth (cryptoDone s v) v x found)
        else s
      | none => s
    | none => s

/-! ## Preemption and quanta (R132, R134) -/

/-- The active untimed voyage that has held its slot longest. -/
def longestHeld (s : State) : Option Nat :=
  (leastBy (fun x => x.2.since) (s.sch.voy.filter fun x => x.2.state == .active && !x.2.timed)).map Prod.fst

/-- A voyage gives up its slot and re-enters Ready with its progress kept. -/
def giveUpSlot (s : State) (v : Nat) : State := enterReady (releaseSlot s v) v

/-- VOYAGE_PREEMPTION (R132): at a break point of the voyage while a timed voyage waits for a slot. -/
def execVoyagePreemption (v : Fin 4096) (s : State) : Host.Outcome State Fault Refusal :=
  .next <|
    if gatesOpen s && (firstTimed s).isSome && (freeSlot s).isNone && longestHeld s == some v.val
    then conclude s (giveUpSlot s v) else s

/-- QUANTUM_EXPIRY (R134): the voyage has held its slot for `QUANTUM` and stands at a break point. -/
def execQuantumExpiry (v : Fin 4096) (s : State) : Host.Outcome State Fault Refusal :=
  .next <|
    match voyOf s v with
    | some x =>
      if isRun s && x.state == .active && !x.timed && (s.sch.voy.any fun y => y.2.state == .ready)
      then conclude s (giveUpSlot s v) else s
    | none => s

/-! ## Retirement (R141 to R145) -/

/-- The voyage is set back to its checkpoint. -/
def setBack (x : Voyage) : Voyage :=
  { x with entry := x.ckEntry, regs := x.ckRegs, cond := x.ckCond, stage := .fresh, moved := 0, chainK := 0, cur := [],
           gather := [], answer := none, saw := false, auth := none, path := none, deadline := none, repeated := true }

/-- The voyage may be re-executed (R144). -/
def mayRepeat (x : Voyage) : Bool := flagOf x.first 13 || !x.effect

/-- One voyage of a retired engine: re-queued with its entry marked, or ended with INTERRUPTED. -/
def retireVoy (s : State) (v : Nat) (x : Voyage) : State :=
  if mayRepeat x then
    enterReady (releaseSlot (stopWaiting (rewindAll (modVoy s v setBack) (.voyage v)) (.voyage v)) v) v
  else
    let t := endWith s v 0x22 0 x.ckEntry (tagOf x.first)
    if opOf x.cur = 0x0B ∧ x.stage = .woken then nextLoader t (fieldOf (wd x.cur 4) 0 5) else t

/-- The voyages on engine `e`, in the order of its threads. -/
def onEngine (s : State) (e : Nat) : List (Nat × Voyage) :=
  (List.range 4).filterMap fun k =>
    (tFind s.sch.slots (4 * e + k)).bind fun v => (voyOf s v).map fun x => (v, x)

/-- An engine is retired, until the next reset (R141); the re-fit waits for a running round. -/
def retireEngine (s : State) (e : Nat) : State :=
  let l := onEngine s e
  let running := roundRunning s
  let s := l.foldl (fun s x => retireVoy s x.1 x.2) s
  let s := modSch s fun c => { c with inService := c.inService &&& ~~~ (1#16 <<< e), retired := c.retired ||| (1#16 <<< e) }
  let r := if running then (modSch s fun c => { c with refitDue := true }, 0) else refit s
  let repeated := (l.filter fun x => mayRepeat x.2).length
  let body := leBytes 1 repeated ++ leBytes 1 (l.length - repeated) ++ leBytes 2 r.2
  logDue (setFault (raise r.1 (640 + e)) 0) { kind := 0x06, object := e, body := body, detail := body, details := 1 }

/-- ENGINE_RETIREMENT (R142): a mismatch or an uncorrectable error in engine `e` is detected. -/
def execEngineRetirement (e : Fin 16) (s : State) : Host.Outcome State Fault Refusal :=
  .next <| if isRun s && s.sch.inService.getLsbD e then conclude s (retireEngine s e) else s

end Sys2Proof.Machine
end

