-- ==== Sys2Proof/Machine/Arbiters.lean ====
section
/-!
DEFINITION. The berth arbiters: their requesters, the decision with the share gates, and the cut-off (15_berth_arbitration.md R432 to R450; 07_partitions.md R230).
-/
namespace Sys2Proof.Machine

/-! ## Slots (R433, R449) -/

/-- Arbiters of the deck banks. -/
def isDeckArb (a : Nat) : Bool := decide (a < 32)

/-- The slot holds a requester (R433). -/
def slotPresent (a k : Nat) : Bool :=
  k == 0 ||
    (if a < 32 then decide (k ≤ 48)
     else if a = 32 then decide (k ≤ 32)
     else if a = 33 then decide (k ≤ 19)
     else if a = 34 then decide (k ≤ 18)
     else if a = 35 then decide (k ≤ 19) || (decide (24 ≤ k) && decide (k ≤ 47))
     else decide (k ≤ 33))

/-- The default `BASE` of a slot at the arbiters that are not barge target ports (R433). -/
def defaultBase (a k : Nat) : BitVec 4 :=
  if k = 0 then 0
  else if a = 32 then 8
  else if a = 34 then (if k ≤ 16 then 6 else 7)
  else if k ≤ 16 then 6
  else if k = 17 ∨ k = 19 then 8
  else if k = 18 ∨ k = 20 then 6
  else if k = 21 ∨ k = 22 then 7
  else if k = 23 then 4
  else if k ≤ 47 then 10
  else 0

/-- The default `LIMIT` of a slot (R449). -/
def defaultLimit (a : Nat) : BitVec 8 := if a = 32 ∨ a = 33 then 32 else 4

/-- A slot after reset. -/
def resetSlot (a k : Nat) : Requester := { base := defaultBase a k, limit := defaultLimit a }

/-- Arbiter `a`. -/
def arbOf (s : State) (a : Nat) : Arbiter := tGet s.brt a {}
/-- The state with an arbiter changed. -/
def modArb (s : State) (a : Nat) (f : Arbiter → Arbiter) : State := { s with brt := tUpd s.brt a {} f }
/-- Slot `k` of arbiter `a`. -/
def requesterOf (s : State) (a k : Nat) : Requester := tGet (arbOf s a).slots k (resetSlot a k)
/-- The state with a slot changed. -/
def modRequester (s : State) (a k : Nat) (f : Requester → Requester) : State :=
  modArb s a fun x => { x with slots := tUpd x.slots k (resetSlot a k) f }

/-- `BASE` of a slot: fixed at the barge target ports, where it follows the channel's `PRIO` (R280, R433). -/
def baseOf (s : State) (a k : Nat) : Nat :=
  if 36 ≤ a ∧ 1 ≤ k ∧ k ≤ 32 then 15 - 2 * (chanOf s (k - 1)).prio.toNat
  else if 36 ≤ a ∧ k = 33 then 8
  else (requesterOf s a k).base.toNat

/-- The effective priority E (R436). -/
def effective (s : State) (a k : Nat) : Nat := min 15 (baseOf s a k + (requesterOf s a k).losses.toNat)

/-- The patrol scrubber's slot. -/
def isScrubber (a k : Nat) : Bool := isDeckArb a && k == 48

/-! ## Share gates (R230) -/

/-- A share gate sits ahead of the arbiter. -/
def gated (a : Nat) : Bool := a == 33 || decide (36 ≤ a)

/-- A partition's entitlement in a window, in bytes. -/
def entitlement (s : State) (a p : Nat) : Nat :=
  if a = 33 then (partOf s p).hostNow * 8192 / 256 else (partOf s p).bargeNow * 16384 / 256

/-- The bytes granted to a partition in the current window. -/
def gateCount (s : State) (a p : Nat) : Nat := tGet (partOf s p).gates a 0

/-- The page is one of a timed Candidate, or is pinned (R433). -/
def timedPage (s : State) (p a : Nat) : Bool :=
  (s.sch.voy.any fun x => x.2.part == p && x.2.timed && (pinnedPages x.2).contains a)
    || (cachedPage s p a).any fun g => !g.pins.isEmpty

/-- The class of a request, from what it serves (R266, R433, R443). -/
def classFor (s : State) : Served → TrafficClass
  | .control => .control
  | .voyage v => if (voyOf s v).any (·.timed) then .timed else .bulk
  | .ringOther _ _ => .timed
  | .channel n => if (chanOf s n).active.any fun t => t.desc.timed then .timed else .bulk
  | .fill p a => if timedPage s p a.toNat then .timed else .bulk
  | .port _ => .timed
  | .ring _ _ | .view _ | .frame _ | .sink | .scrub => .bulk

/-- The partition for which a request is made. -/
def partFor (s : State) : Served → Option Nat
  | .voyage v => (voyOf s v).map (·.part)
  | .ring p _ => some p.val
  | .ringOther p _ => some p.val
  | .channel n => (chanOf s n).owner
  | .view p => some p.val
  | .fill p _ => some p.val
  | .port p => (portOf s p).owner
  | _ => none

/-- The slot's requests come through another arbiter: a barge target port's, and the fill port's (R432). -/
def isCarried (a k : Nat) : Bool := a != 32 && a != 34 && a < 36 && (k == 18 || k == 19)

/-- The class of a request at arbiter `a`: one that has come from another arbiter carries that of the burst that won there (R432). -/
def requestClass (s : State) (a : Nat) (r : BerthRequest) : TrafficClass :=
  match (if isCarried a r.slot then tFind (arbOf s a).carried r.slot else none) with
  | some x => x.cls
  | none => classFor s r.work

/-- The partition whose share a BULK request counts against. -/
def bulkPart (s : State) (a : Nat) (r : BerthRequest) : Option Nat := if requestClass s a r = .bulk then partFor s r.work else none

/-- The gate withholds a request: its partition has reached its entitlement, and another one below its own has a BULK request waiting. -/
def withheld (s : State) (a : Nat) (l : List BerthRequest) (r : BerthRequest) : Bool :=
  gated a &&
    (match bulkPart s a r with
     | none => false
     | some p =>
       decide (entitlement s a p ≤ gateCount s a p) &&
         l.any fun x => (bulkPart s a x).any fun y => y != p && decide (gateCount s a y < entitlement s a y))

/-! ## Requests (R432, R433) -/

/-- The voyage holds a slot of a ferry engine. -/
def runsOn (s : State) (v e : Nat) : Bool :=
  (voyOf s v).any fun x => x.state == .active && x.slot.any fun k => k / 4 == e

/-- A request can be that of a slot: the slot's requester does such work, and has it (R433). -/
def fitsSlot (s : State) (a k : Nat) (w : Served) : Bool :=
  if k = 0 then w == .control
  else
    match w with
    | .voyage v => if a < 32 ∧ k = 20 then (voyOf s v).isSome else a != 32 && a < 36 && k ≤ 16 && runsOn s v (k - 1)
    | .ring p n => k == 17 && a != 34 && a < 36 && (sqOf s p n).any fun r => r.job.isSome
    | .ringOther _ _ => k == 17 && a != 34 && a < 36
    | .channel n => 36 ≤ a && k == n.val + 1 && (chanOf s n).active.isSome
    | .view p => 36 ≤ a && k == 33 && (partOf s p).snap.exporting.isSome
    | .fill p a' => a == 32 && k == p.val + 1 && s.sch.fills.any fun f => f.part == p.val && f.addr == a'.toNat
    | .port p => (a < 32 || a == 35) && k == 24 + p.val / 4
    | .frame n => (a < 32 && (k == 21 + n.val || k == 20)) || (a == 34 && k == 17 + n.val)
    | .sink => a < 32 && k == 23
    | .scrub => isScrubber a k
    | .control => false

/-- A stop order has closed the issue gate behind which a request stands (R445, R447, R527; R232): those of the ferry engines' threads, of the barge's channels, and of the snapshot export path. -/
def gateClosed (s : State) (a k : Nat) (w : Served) : Bool :=
  let closed := !gatesOpen s || (partFor s w).any fun p => (partOf s p).reset.isSome
  match w with
  | .voyage _ => decide (k ≤ 16) && closed
  | .channel _ | .view _ => decide (36 ≤ a) && closed
  | _ => false

/-- The requests of slots 18 and 19 that other arbiters have sent on. -/
def carriedRequests (s : State) (a : Nat) : List BerthRequest :=
  [18, 19].filterMap fun k => (tFind (arbOf s a).carried k).map fun x => { x.request with slot := Fin.ofNat 49 k }

/-- The general bank that a request at arbiter 35 reaches: that of a page, or the one that the request tells. -/
def bankFor (s : State) (r : BerthRequest) : Nat :=
  match r.work with
  | .fill p a => ((windowAt s p a.toNat).map fun w => w.bank.toNat).getD 0
  | _ => r.next.val % 16

/-- The bank of a request at arbiter 35 is in retention, or leaving it: the request is withheld (R538). -/
def bankAsleep (s : State) (a : Nat) (r : BerthRequest) : Bool :=
  a == 35 && ((bankOf s (bankFor s r)).ret || (bankOf s (bankFor s r)).leaving)

/-- The requests present in a cycle: those raised that a slot can have and whose gate is open, and those sent on. -/
def presentRequests (s : State) (a : Nat) (l : List BerthRequest) : List BerthRequest :=
  (l.filter fun r => slotPresent a r.slot && !isCarried a r.slot && fitsSlot s a r.slot r.work && !gateClosed s a r.slot r.work)
    ++ carriedRequests s a

/-! ## The decision (R436, R442) -/

/-- The requests that take part. -/
def contenders (s : State) (a : Nat) (l : List BerthRequest) : List BerthRequest :=
  l.filter fun r => !(requesterOf s a r.slot).cutoff && !withheld s a l r && !bankAsleep s a r

/-- A request's place in its slot: within a port group, the engine that follows the one served last comes first (R433). -/
def turnOf (s : State) (a : Nat) (r : BerthRequest) : Nat :=
  match r.work with
  | .port p => (p.val + 3 - (requesterOf s a r.slot).engine.toNat) % 4
  | _ => 0

/-- A contender comes before another: higher E, then larger L, then lower slot, then its place in the slot. -/
def contestKey (s : State) (a : Nat) (r : BerthRequest) : Nat :=
  let x := requesterOf s a r.slot
  ((15 - effective s a r.slot) * 2 ^ 19 + (8191 - x.losses.toNat) * 2 ^ 6 + r.slot.val) * 4 + turnOf s a r

/-- The winner among contenders: CONTROL outranks the others, that of slot 0 and then one that has come from another arbiter (log 129). -/
def winner (s : State) (a : Nat) (c : List BerthRequest) : Option BerthRequest :=
  match leastBy (fun r => r.slot.val) (c.filter fun r => requestClass s a r == .control) with
  | some r => some r
  | none =>
    let timed := c.filter fun r => requestClass s a r == .timed
    leastBy (contestKey s a) (if timed.isEmpty then c else timed)

/-- `STARVE_LIMIT` as it acts (R449). -/
def starveLimit (s : State) (a : Nat) : Nat := max 16 (min 4096 (arbOf s a).starveLimit.toNat)

/-- The requester of a slot loses a decision: it ages, and may be found starved (R442). -/
def ageLoser (a : Nat) (s : State) (k : Nat) : State :=
  if isScrubber a k then s
  else
    let x := requesterOf s a k
    let n := min (x.losses.toNat + 1) 8191
    let starves := decide (starveLimit s a < n)
    let t := modRequester s a k fun x => { x with losses := BitVec.ofNat 13 n, starved := x.starved || starves }
    if starves && !x.starved then raise t (576 + a) else t

/-- The beats of a burst (R434). -/
def beatsOf (bytes : Nat) : Nat := max 1 ((bytes + 15) / 16)

/-- The arbiter to which a winner's burst goes on, and the slot it has there (R432). -/
def onward (a : Nat) (w : BerthRequest) : Option (Nat × Nat) :=
  if a = 36 then some (33, 18)
  else if a = 37 then some (35, 18)
  else if a = 38 then some (w.next.val % 32, 18)
  else if a = 32 then some (if w.next.val < 32 ∨ w.next.val = 35 then w.next.val else 33, 19)
  else none

/-- Arbiter 34 grants a burst of a voyage's AUTH: the crypto engine serves it after those granted before (R485). -/
def grantCrypto (s : State) (v : Nat) : State :=
  if (voyOf s v).any fun x => opOf x.cur == 0x10 then joinCrypto s v else s

/-- A burst of the berth's owner begins: a BULK one counts at the gate (R230), and it may go on to another arbiter (R432). -/
def beginBurst (s : State) (a : Nat) (w : BerthRequest) : State :=
  let o := onward a w
  let cls := requestClass s a w
  let bulk := bulkPart s a w
  let s := modArb s a fun x =>
    { x with work := w.work, left := beatsOf w.bytes.toNat, next := o.map Prod.fst, carried := if isCarried a w.slot then tDel x.carried w.slot else x.carried }
  let s := match o with
    | some (b, k) => modArb s b fun x => { x with carried := tPut x.carried k { request := w, cls := cls } }
    | none => s
  let s := match w.work with
    | .port p => modRequester s a w.slot fun x => { x with engine := BitVec.ofNat 2 p.val }
    | .voyage v => if a = 34 then grantCrypto s v else s
    | _ => s
  match bulk with
  | some p => if gated a then modPart s p fun x => { x with gates := tUpd x.gates a 0 (· + w.bytes.toNat) } else s
  | none => s

/-- The winner's berth begins. -/
def grant (s : State) (a : Nat) (w : BerthRequest) : State :=
  let s := modRequester s a w.slot fun x => { x with losses := 0 }
  beginBurst (modArb s a fun x => { x with owner := BitVec.ofNat 6 w.slot.val, busy := true, beats := 0 }) a w

/-- The slots that lose a decision. -/
def losers (c : List BerthRequest) (w : BerthRequest) : List Nat :=
  ((c.filter fun r => r.slot != w.slot).map fun r => r.slot.val).eraseDups

/-- A decision at arbiter `a` over the requests present. -/
def decideBerth (s : State) (a : Nat) (l : List BerthRequest) : State :=
  let c := contenders s a l
  match winner s a c with
  | none => modArb s a fun x => { x with busy := false }
  | some w => grant ((losers c w).foldl (ageLoser a) s) a w

/-! ## The berth in use (R432, R435, R438, R440) -/

/-- The maximum burst of a slot's requester, in beats (R433). -/
def maxBurst (a k : Nat) : Nat := if a = 33 ∨ k ≠ 0 ∧ (a = 32 ∨ a = 36) then 32 else 4

/-- `LIMIT` as it acts on the berth in progress (R438, R440). -/
def limitOf (s : State) (a k : Nat) : Nat := if 36 ≤ a then 0 else max (requesterOf s a k).limit.toNat (maxBurst a k)

/-- The owner's burst waits for its berth at the arbiter it has gone on to. -/
def waitsOnward (s : State) (a : Nat) : Bool :=
  (arbOf s a).next.any fun b => (tFind (arbOf s b).carried (if a = 32 then 19 else 18)).isSome

/-- The beats after which the owner of a berth is cut off (R441). -/
def cutoffBeats (s : State) (a : Nat) : Nat :=
  let k := (arbOf s a).owner.toNat
  (if 36 ≤ a then maxBurst a k else limitOf s a k) + 16

/-- The owner moves beats of its burst, up to the burst's end or to its cut-off. -/
def moveBeats (s : State) (a n : Nat) : State :=
  let x := arbOf s a
  if !x.busy || waitsOnward s a then s
  else
    let m := min (min n x.left) (cutoffBeats s a - x.beats)
    modArb s a fun x => { x with left := x.left - m, beats := x.beats + m }

/-- The owner's next burst, where it has one: in a port group, by rotation. -/
def ownersNext (s : State) (a : Nat) (l : List BerthRequest) : Option BerthRequest :=
  leastBy (turnOf s a) (l.filter fun r =>
    r.slot.val == (arbOf s a).owner.toNat && !(requesterOf s a r.slot).cutoff && !bankAsleep s a r)

/-- A CONTROL request waits beside the owner in slot `k`. -/
def controlWaits (s : State) (a k : Nat) (l : List BerthRequest) : Bool :=
  l.any fun r => r.slot.val != k && requestClass s a r == .control && !(requesterOf s a r.slot).cutoff && !bankAsleep s a r

/-- The berth ends at the break point that the owner has come to (R440). -/
def berthEnds (s : State) (a : Nat) (l : List BerthRequest) : Bool :=
  let k := (arbOf s a).owner.toNat
  (ownersNext s a l).isNone || decide (limitOf s a k ≤ (arbOf s a).beats) || (k != 0 && controlWaits s a k l)

/-- A cycle at arbiter `a` with the requests present: a decision where the resource is idle or the berth ends, and otherwise the berth goes on (R435, R440). -/
def berthCycle (s : State) (a : Nat) (l : List BerthRequest) : State :=
  let x := arbOf s a
  if !x.busy then decideBerth s a l
  else if waitsOnward s a || x.left != 0 then s
  else if berthEnds s a l then decideBerth s a l
  else
    match ownersNext s a l with
    | some r => beginBurst s a r
    | none => s

/-- Requests for banks in retention make them leave, and wait (R538). -/
def wakeBanks (s : State) (a : Nat) (l : List BerthRequest) : State :=
  l.foldl (fun s r => if bankAsleep s a r then wakeBank s (bankFor s r) else s) s

/-- BERTH_DECISION (R435, R436). -/
def execBerthDecision (a : Fin 39) (cycle : BerthCycle) (s : State) : Host.Outcome State Fault Refusal :=
  .next <|
    if isRun s then
      let t := moveBeats s a cycle.beats.toNat
      let l := presentRequests t a cycle.requests
      settle t (berthCycle (wakeBanks t a l) a l)
    else s

/-! ## The cut-off (R441) -/

/-- The slot's requester is a ferry engine. -/
def engineSlot (a k : Nat) : Bool := (a < 32 || a == 33 || a == 34 || a == 35) && 1 ≤ k && k ≤ 16

/-- The slot's requester is a port group. -/
def groupSlot (a k : Nat) : Bool := (a < 32 || a == 35) && 24 ≤ k && k ≤ 47

/-- A port engine fails through its group's cut-off; the code of the cause is not stated and is a free value. -/
def failByCutoff (s : State) (p : Nat) : State :=
  if (portOf s p).eng.state = .failed then s
  else
    let c := (freeOf s).toNat % 256
    failPort (drawn s) p (failDetail (portOf s p).eng c (portOf s p).eng.pc.toNat)

/-- The extended status of the resource that an arbiter guards; that of the fill port and the crypto engine is not stated, and is a free one of the three that R112 lists (log 69). -/
def resourceExt (s : State) (a : Nat) : State × Nat :=
  if a < 32 ∨ a = 38 then (s, 1)
  else if a = 35 ∨ a = 37 then (s, 2)
  else if a = 33 ∨ a = 36 then (s, 3)
  else (drawn s, 1 + (freeOf s).toNat % 3)

/-- A ring job loses its data: it is consumed to its last entry, and its packet is rewound. -/
def loseJob (s : State) (p n : Nat) : State :=
  match sqOf s p n with
  | some r =>
    match (r.job.filter fun j => !j.refused && !j.rewound).map (·.queue) with
    | some q =>
      let b := ((queueOf s q).bind fun y => buildingOf y (.ring p n)).getD { agent := .ring p n }
      let s := modQueue (freeCellsOf (unstall s (.ring p n)) b.pkt.cells) q fun y =>
        { setBuilding y { b with pkt := ⟨[], 0⟩, rewound := true } with cnt := bump y.cnt 3 }
      goOn (runRing s p n)
    | none => s
  | none => s

/-- What the cut-off requester's burst served ends: of the ring unit's other work, the fetch of entries, which fails (R175, log 69). -/
def endServed (s : State) (a : Nat) : Served → State
  | .channel n => modChan s n fun c => if c.active.isSome && c.ended.isNone then { c with ended := some (.error 7) } else c
  | .ring p n => loseJob s p n
  | .ringOther p n => if (sqOf s p n).any fun r => !r.fault && r.fetched != r.p then faultSq s p n else s
  | .fill p g =>
    let r := resourceExt s a
    endMissers (dropFills r.1 p g.toNat) p g.toNat 0x32 r.2
  | .voyage v =>
    match voyOf s v with
    | some x =>
      if x.state = .active ∨ x.state = .parked then
        let r := resourceExt s a
        finishEntry r.1 v x.entry x.cur (Result.fail 0x32 r.2 (faultResidual r.1 v))
      else s
    | none => s
  | _ => s

/-- How the work of a cut-off requester fares. -/
def cutOffWork (s : State) (a k : Nat) (w : Served) : State :=
  if engineSlot a k then (if s.sch.inService.getLsbD (k - 1) then retireEngine s (k - 1) else s)
  else if groupSlot a k then (List.range 4).foldl (fun s i => failByCutoff s (4 * (k - 24) + i)) s
  else endServed s a w

/-- The owner of the berth is cut off. -/
def cutOff (s : State) (a : Nat) : State :=
  let k := (arbOf s a).owner.toNat
  let w := (arbOf s a).work
  let was := (requesterOf s a k).cutoff
  let s := modArb (modRequester s a k fun x => { x with cutoff := true }) a fun x => { x with busy := false, left := 0 }
  let s := setFault (if was then s else raise s (576 + a)) 2
  cutOffWork (logDue s { kind := 0x09, object := a + k * 2 ^ 8 }) a k w

/-- The owner has reached its cut-off without a break point (R441). -/
def overLimit (s : State) (a : Nat) : Bool :=
  let x := arbOf s a
  x.busy && decide (0 < x.left) && decide (cutoffBeats s a ≤ x.beats)

/-- BERTH_CUTOFF (R441): the owner of the berth in use at arbiter `a`, whose burst serves what the row tells, has reached its cut-off. -/
def execBerthCutoff (a : Fin 39) (served : Served) (s : State) : Host.Outcome State Fault Refusal :=
  .next (if isRun s && overLimit s a && (arbOf s a).work == served then conclude s (cutOff s a) else s)

end Sys2Proof.Machine
end

