-- ==== Sys2Proof/Machine/CommissionOps.lean ====
section
/-!
DEFINITION. Commissions and role images: what follows a change of a commission number, taking a commission, the checks of an image, and the swap of a port's banks (06_control_interface.md R196; 07_partitions.md R225; 10_rorid_architecture.md R314 to R320; 12_port_hardware.md R382 to R384; 14_endpoints_and_identity.md R413, R427).
-/
namespace Sys2Proof.Machine

/-! ## Endpoint entries (R413, R427) -/

/-- The identity memory that belongs to port `p`, as 16 times its bus plus its place (R423). -/
def memoryOf (p : Nat) : Nat := 16 * (p / 12) + p % 12

/-- The verified record of port `p`'s identity memory. -/
def identOf (s : State) (p : Nat) : Option Identity :=
  match tFind s.ep.ident (memoryOf p) with
  | some i => if i.reason = 0 then some i else none
  | none => none

/-- The conditions of R427 hold for an entry of kind 1 on a port. -/
def epConditions (s : State) (e : Endpoint) : Bool :=
  (portOf s e.port.toNat).owner == some e.owner.toNat &&
    (if e.busAddr = 0 then (identOf s e.port.toNat).isSome else e.proven)

/-- An entry becomes READY, or is bound afresh: its number increments (R413, R427). -/
def epReady (s : State) (e : Endpoint) : Endpoint :=
  { e with state := .ready, number := e.number + 1, portCom := (portOf s e.port.toNat).number,
           neg := if e.busAddr = 0 then ((identOf s e.port.toNat).map (·.neg)).getD 0 else e.neg }

/-- An entry becomes PENDING, its sink verification consumed (R427). -/
def epPending (e : Endpoint) : Endpoint :=
  { e with state := .pending, number := e.number + 1, proven := false, neg := 0, portCom := 0 }

/-- An entry after an event that R427 names: it stays READY, becomes READY or becomes PENDING. -/
def epReview (s : State) (e : Endpoint) : Endpoint :=
  if e.state = .free then e
  else if epConditions s e then epReady s e
  else if e.state = .ready then epPending e
  else e

/-- The entries of kind 1 on port `p` are re-evaluated (R427). -/
def reviewPort (s : State) (p : Nat) : State :=
  let review (x : Nat × Endpoint) : Nat × Endpoint :=
    if x.2.kind == 1 && x.2.port.toNat == p then (x.1, epReview s x.2) else x
  { s with ep := { s.ep with dir := s.ep.dir.map review } }

/-- The entries on a queue that has been removed, or whose owner has changed, become PENDING (R413). -/
def reviewQueue (s : State) (q : Nat) : State :=
  let gone (e : Endpoint) : Bool :=
    e.kind == 1 && e.port == 127 && e.busAddr.toNat == q && e.state == .ready
      && ((queueOf s q).map (·.owner)) != some e.owner.toNat
  { s with ep := { s.ep with dir := s.ep.dir.map fun x => if gone x.2 then (x.1, epPending x.2) else x } }

/-! ## Commissions (R196, R225) -/

/-- The commission number increments (R196), and the entries bound to it are re-evaluated. -/
def nextNumber (s : State) (p : Nat) : State := reviewPort (modPort s p fun q => { q with number := q.number + 1 }) p

/-- An owner change (R225): the interrupt state of the port's sources is cleared and every queue attached to the port is detached. -/
def changeOwner (s : State) (p : Nat) : State :=
  let s := clearSource (clearSource s p) (96 + p)
  let detach (x : Nat × Queue) : Nat × Queue := if x.2.port == some p then (x.1, { x.2 with port := none }) else x
  modDeck s fun d => { d with queues := d.queues.map detach }

/-- A commission is made or changed (R196): a pending swap is cancelled, and the number increments. -/
def takeCommission (s : State) (p owner : Nat) (xclass : BitVec 2) (txq : BitVec 13) : State :=
  let q := portOf s p
  let s := if q.owner.isNone && q.lastOwner != some owner then changeOwner s p else s
  let s := modPort s p fun q =>
    { q with owner := some owner, lastOwner := some owner, xclass := xclass, txq := txq, swap := none }
  deliverNext (nextNumber s p) p

/-- A commission is removed (R196): the port's safe state follows at the next landing of the class it held. Its source has no target from then on and so is never pending (R454); its `PRIO` and `VEC` stay until the owner changes (R225). -/
def dropCommission (s : State) (p : Nat) : State :=
  let s := modIcu s fun i => { i with pend := i.pend.filter (· != p) }
  let s := modPort s p fun q =>
    { q with owner := none, swap := none, safeDue := q.safeDue ++ [.classLanding q.xclass.toNat] }
  nextNumber s p

/-! ## Role images (R314 to R316, R478) -/

/-- The header of an image, as 16 words. -/
def imageWords (l : List Byte) : List Word := (List.range 16).map (wordAt l)

/-- `CODE_WORDS` (R314). -/
def codeWords (h : List Word) : Nat := fieldOf (wd h 2) 0 13

/-- The stack range and the fabric region share a byte (R316). -/
def rangesMeet (lo1 hi1 lo2 hi2 : Nat) : Bool := decide (lo1 < hi1) && decide (lo2 < hi2) && decide (lo1 < hi2) && decide (lo2 < hi1)

/-- A test of R316 over the header's fields fails. -/
def headerBad (h : List Word) : Bool :=
  let w := wd h
  let cw := codeWords h
  let top := fieldOf (w 5) 0 16
  let lim := fieldOf (w 5) 16 16
  let fb := fieldOf (w 6) 0 15
  let fl := fieldOf (w 6) 16 16
  let inw := fieldOf (w 7) 0 7
  fieldOf (w 0) 0 16 != 0x5249 || fieldOf (w 0) 16 8 != 1 || fieldOf (w 0) 24 8 != 0
    || fieldOf (w 1) 5 27 != 0 || fieldOf (w 2) 13 19 != 0 || cw == 0 || decide (4096 < cw)
    || fieldOf (w 3) 12 4 != 0 || fieldOf (w 3) 28 4 != 0 || fieldOf (w 4) 12 20 != 0
    || (w 6).getLsbD 15 || fieldOf (w 7) 7 9 != 0 || fieldOf (w 7) 23 9 != 0 || fieldOf (w 8) 12 20 != 0
    || (List.range 6).any (fun i => w (10 + i) != 0)
    || decide (cw ≤ fieldOf (w 3) 0 12) || decide (cw ≤ fieldOf (w 3) 16 12) || decide (cw < fieldOf (w 4) 0 12 + 32)
    || top % 4 != 0 || lim % 4 != 0 || decide (top < lim) || decide (32768 < top)
    || fb % 64 != 0 || fl % 64 != 0 || decide (32768 < fb + fl) || rangesMeet lim top fb (fb + fl)
    || inw == 0 || decide (64 < inw) || decide (64 < fieldOf (w 7) 16 7)
    || (List.range 6).any (fun k => fieldOf (w 8) (2 * k) 2 == 3)
    || (!(w 1).getLsbD 0 && ((w 1).getLsbD 1 || (w 1).getLsbD 2))

/-- An event-table word is bad (R316). -/
def eventBad (cw : Nat) (w : Word) : Bool :=
  fieldOf w 12 19 != 0 || (w.getLsbD 31 && decide (cw ≤ fieldOf w 0 12))

/-- The signature block of an image (R478). -/
def signBlock (l : List Byte) : List Byte := l.drop (64 + 4 * codeWords (imageWords l))

/-- A reserved field of the signature block is not 0 (R478). -/
def signBad (b : List Byte) : Bool := fieldOf (wordAt b 0) 6 26 != 0 || ((b.drop 4).take 0x44).any (· != 0)

/-- The message word that BAD_FIELD names for an image of a command (R316): 5 for its length, 3 otherwise; none where every test passes. -/
def imageFail (l : List Byte) : Option Nat :=
  let h := imageWords l
  let cw := codeWords h
  let tab := fieldOf (wd h 4) 0 12
  if l.length < 64 then some 5
  else if headerBad h then some 3
  else if l.length ≠ 64 + 4 * cw + 136 then some 5
  else if (List.range 32).any (fun k => eventBad cw (wordAt l (16 + tab + k))) || signBad (signBlock l) then some 3
  else none

/-- The digest that the signature of an image signs, and that ROLE_IMAGE_LOAD returns (R195, R478). -/
def imageDigest (l : List Byte) : List Byte :=
  sha256 (l.take (64 + 4 * codeWords (imageWords l)) ++ (signBlock l).take 0x48)

/-- The signature of an image passes for a partition (R478). -/
def imageSigned (s : State) (p : Nat) (l : List Byte) : Bool :=
  let b := signBlock l
  let n := fieldOf (wordAt b 0) 0 6
  let k := slotOf s n
  k.kind == 6 && (n == 2 || maySlot s p n)
    && ecdsaVerify k.material (imageDigest l) ((b.drop 0x48).take 64)

/-- The bank that a load fills (R318). -/
def loadedBank (l : List Byte) : IBank :=
  let h := imageWords l
  { words := ((List.range (codeWords h)).map fun k => (k, wordAt l (16 + k))).filter fun x => x.2 != 0
    hdr := h.zipIdx.map fun x => (x.2, x.1)
    st := .verified
    digest := BitVec.ofNat 256 (leNat (imageDigest l)) }

/-- The inactive bank takes an image, or holds none. -/
def setInactive (s : State) (p : Nat) (b : IBank) : State := modPort s p fun q => modInactive q fun _ => b

/-- A load ends, and the bank that it wrote holds no image (R197, R318). -/
def endLoad (s : State) (n : Nat) : State := setInactive (modPort s n fun q => { q with loading := none }) n {}

/-! ## The swap (R317, R382 to R384) -/

/-- The engine as an image starts (R317). -/
def startEngine (q : Port) : Engine :=
  let entry := fieldOf (imageHdr q 3) 0 12
  let top := BitVec.ofNat 32 (fieldOf (imageHdr q 5) 0 16)
  { state := .running, pc := BitVec.ofNat 12 entry, fetched := bankWord q entry, mark := bankMark q entry, scrub := q.eng.scrub,
    regs := if top = 0 then [] else [((spCode q).toNat, top)] }

/-- The port's hardware across a swap (R383). -/
def swapHardware (q : Port) : Port :=
  let reset := (imageHdr q 1).getLsbD 3
  let q := if reset then { q with timers := [], evPend := q.evPend &&& 0xFFFFFFF0 } else q
  { q with evPend := (q.evPend &&& 0x00009FFF) ||| 0x00004000, reqView := none, ansVal := 0, qev := [], netl := [],
           imgInvalid := true, stg := [], omap := [], fresh := [] }

/-- The banks exchange, and the new image starts (R320). -/
def exchangeBanks (q : Port) : Port :=
  let q := modActive q fun _ => {}
  let q := swapHardware { q with active := !q.active, swap := none }
  { q with eng := startEngine q }

/-- The requests that a swap ends (R382): the delivered one with SHIFT_ABORTED where a shift unit was aborted, the others with STALE_ROLE. -/
def swapRequests (s : State) (p : Nat) (aborted : Bool) : State :=
  let s := match aborted, (portOf s p).delivered with
    | true, some (r, _) =>
      let s := modPort s p fun q => { q with delivered := none }
      if r.orphan then s else answerVoy (bumpPort s p 5) r { status := 0x25 }
    | _, _ => s
  endRequests s p 0x12 0x01

/-- A swap takes effect (R382). -/
def takeSwap (s : State) (p : Nat) (aborted : Bool) : State :=
  let s := if (portOf s p).eng.state == .failed then modPort s p holdPins else s
  let s := nextNumber (swapRequests s p aborted) p
  let s := modPort s p exchangeBanks
  setPortFlag (bumpPort s p 0) p 0

/-- The record of a swap (R382 step 6): `old` and `new` are the commission numbers, `lsn` the landing's, `aborted` the units aborted. -/
def swapRecord (s : State) (p old lsn aborted : Nat) : LogDraft :=
  let q := portOf s p
  let l := leBytes 1 p ++ leBytes 2 old ++ leBytes 2 q.number.toNat ++ leBytes 8 lsn ++ leBytes 4 (imageHdr q 9).toNat
    ++ leBytes 32 (activeBank q).digest.toNat ++ leBytes 2 q.holds.toNat ++ leBytes 1 aborted
  { kind := 0x07, object := p, body := l, detail := l, details := 3 }

end Sys2Proof.Machine
end

