-- ==== Sys2Proof/Machine/IdentityOps.lean ====
section
/-!
DEFINITION. Identity records: their layout and their verification (14_endpoints_and_identity.md R424, R425).
-/
namespace Sys2Proof.Machine

/-- `CLASS`. -/
def idClass (l : List Byte) : Nat := fieldOf (wordAt l 1) 0 16
/-- `MAKER`. -/
def idMaker (l : List Byte) : Nat := fieldOf (wordAt l 1) 16 16
/-- `HW_REV`. -/
def idHwRev (l : List Byte) : Nat := fieldOf (wordAt l 2) 0 16
/-- `NVER`. -/
def idNver (l : List Byte) : Nat := fieldOf (wordAt l 2) 16 4
/-- `CAL_LEN`. -/
def idCalLen (l : List Byte) : Nat := fieldOf (wordAt l 3) 0 10
/-- `SERIAL`. -/
def idSerial (l : List Byte) : BitVec 64 := BitVec.ofNat 64 (leNat ((l.drop 0x10).take 8))
/-- `VERn`. -/
def idVer (l : List Byte) (n : Nat) : Nat := fieldOf (wordAt l (6 + n / 2)) (16 * (n % 2)) 16
/-- The calibration block. -/
def idCal (l : List Byte) : List Byte := (l.drop 0x40).take (idCalLen l)

/-- The record is laid out as R424. -/
def idFormOk (l : List Byte) : Bool :=
  let n := 0x40 + idCalLen l
  fieldOf (wordAt l 0) 0 16 == 0x4944 && fieldOf (wordAt l 0) 16 8 == 1 && fieldOf (wordAt l 0) 24 8 == 0
    && decide (1 ≤ idNver l) && decide (idNver l ≤ 8) && fieldOf (wordAt l 2) 20 12 == 0
    && decide (idCalLen l ≤ 512) && fieldOf (wordAt l 3) 10 22 == 0
    && ((List.range 8).all fun k => decide (k < idNver l) || idVer l k == 0)
    && ((l.drop 0x28).take 0x18).all (· == 0) && decide (n + 64 ≤ l.length)

/-- The public key that an `IDB_MAKERm` in use gives for a maker. -/
def makerKey (s : State) (maker : Nat) : Option KeySlot :=
  let hits := s.ep.makers.filter fun x => x.2.getLsbD 31 && fieldOf x.2 0 16 == maker
  (hits.map fun x => slotOf s (fieldOf x.2 16 6)).find? fun k => k.kind == 6

/-- The highest version that both the record and this part know, 0 for none (R425). -/
def agreedOf (vers : List Nat) : Nat := if vers.contains 0x0200 then 0x0200 else if vers.contains 0x0100 then 0x0100 else 0

/-- The agreed version of a record. -/
def idAgreed (l : List Byte) : Nat := agreedOf ((List.range (idNver l)).map (idVer l))

/-- The reason for which a record is not verified, 0 for a verified one (R425). -/
def idReason (s : State) (complete : Bool) (l : List Byte) : Nat :=
  if !complete then 0x01
  else if !idFormOk l then 0x02
  else
    match makerKey s (idMaker l) with
    | none => 0x03
    | some k =>
      let n := 0x40 + idCalLen l
      if !ecdsaVerify k.material (sha256 (l.take n)) ((l.drop n).take 64) then 0x04
      else if idAgreed l = 0 then 0x05
      else 0

end Sys2Proof.Machine
end

