-- ==== Sys2Proof/Machine/LinkOps.lean ====
section
/-!
DEFINITION. The receive path of a backbone port: messages assembled from fragments and delivered to their endpoints' queues (14_endpoints_and_identity.md R416, R417, R421; 08_deck_memory.md R252, R259).
-/
namespace Sys2Proof.Machine

/-- The message being assembled from a source part. -/
def assemblyOf (s : State) (n part : Nat) : Option Assembly := tFind (linkOf s n).rx part

/-- The state with that message changed. -/
def modAssembly (s : State) (n part : Nat) (f : Assembly → Assembly) : State :=
  match assemblyOf s n part with
  | some x => modLink s n fun l => { l with rx := tPut l.rx part (f x) }
  | none => s

/-- The message is no longer being assembled; its packet under production, if any, is rewound. -/
def closeAssembly (s : State) (n part : Nat) : State :=
  modLink (rewindAll s (.rx n part)) n fun l => { l with rx := tDel l.rx part }

/-- A message dropped at reception: counter 3 (R421). -/
def dropAssembly (s : State) (n part : Nat) : State := bumpEp (closeAssembly s n part) 3

/-- The bytes of the message already in its packet under production. -/
def takenLen (s : State) (n part q : Nat) : Nat :=
  (((queueOf s q).bind fun y => buildingOf y (.rx n part)).map fun b => b.pkt.len).getD 0

/-- The queue to which a READY entry of kind 1 delivers, and whether it is a port's. -/
def deliveryQueue (s : State) (e : Endpoint) : Option (Nat × Bool) :=
  if e.port = 127 then some (fieldOf (e.busAddr.setWidth 32) 0 13, false)
  else
    let q := (portOf s e.port.toNat).txq
    if q = 0x1FFF ∨ (queueOf s q.toNat).isNone then none else some (q.toNat, true)

/-- A first fragment opens a message, if its entry is READY, of kind 1 and not the sink (R421). -/
def openAssembly (s : State) (n : Nat) (h : CrossingHeader) (at_ : Int) : State :=
  let e := epOf s h.dstEid.toNat
  if h.dstEid = 0x3FFF ∨ e.state ≠ .ready ∨ e.kind ≠ 1 then bumpEp s 3
  else
    match deliveryQueue s e with
    | none => bumpEp s 3
    | some (q, onPort) =>
      let x : Assembly :=
        { seq := h.seq, eid := h.dstEid.toNat, stamp := e.number, owner := e.owner.toNat, word := identFor e h.ident, queue := q,
          onPort := onPort, last := at_ }
      modLink s n fun l => { l with rx := tPut l.rx h.srcPart.val x }

/-- The whole message stands in its packet: it is committed (R416, R421). -/
def commitAssembly (s : State) (n part : Nat) (x : Assembly) : State :=
  let a : Agent := .rx n part
  let s := if x.onPort then setBuilt s a x.queue (putIdent (builtBytes s a x.queue) x.word) else s
  let s := bumpEp (commitPacket s a x.queue) 1
  modLink s n fun l => { l with rx := tDel l.rx part }

/-- A message whose stamp no longer matches is discarded, and counted for the owner of the entry that addressed it (R417). -/
def discardStale (s : State) (n part : Nat) (x : Assembly) : State := countStale (bumpEp (closeAssembly s n part) 4) x.owner

/-- The received bytes go to the message's queue; the path stalls where a cell is refused (R252). -/
def deliverRx (s : State) (n part : Nat) : State :=
  match assemblyOf s n part with
  | none => s
  | some x =>
    if takenLen s n part x.queue = 0 ∧ (epOf s x.eid).number ≠ x.stamp then discardStale s n part x
    else
      let a : Agent := .rx n part
      let r := appendBytes s a x.queue x.left
      let s := modAssembly r.state n part fun y => { y with left := y.left.drop r.done }
      match r.refused with
      | some reason => stallProducer s a x.queue reason
      | none =>
        let s := unstall s a
        if x.complete then commitAssembly s n part x else s

/-- The receive path of a source part stands still: its message waits for a cell. -/
def rxStalled (s : State) (n part : Nat) : Bool := s.deck.stalls.any fun x => x.agent == .rx n part

/-- A fragment's bytes, which came at time `at_`, join its message, or are found not to fit it (R421). -/
def joinFragment (s : State) (n : Nat) (h : CrossingHeader) (payload : List Byte) (at_ : Int) : State :=
  let part := h.srcPart.val
  match assemblyOf s n part with
  | none => s
  | some x =>
    let got := takenLen s n part x.queue
    let bad := x.seq != h.seq || got != h.fragOff.toNat
      || (h.last && (h.msgLen == 0 || h.fragOff.toNat + payload.length != h.msgLen.toNat))
    if bad then dropAssembly s n part
    else deliverRx (modAssembly s n part fun y => { y with left := payload, complete := h.last, last := at_ }) n part

/-- More than 10 ms lie between a message's last fragment and the time `at_` (R421). -/
def gapBefore (x : Assembly) (at_ : Int) : Bool := decide (x.last + 10000000 < at_)

/-- A fragment whose turn has come, and which came at time `at_`: one that comes too late finds its message given up (R421). -/
def takeFragment (s : State) (n : Nat) (h : CrossingHeader) (payload : List Byte) (at_ : Int) : State :=
  let part := h.srcPart.val
  match h.first, assemblyOf s n part with
  | true, x => joinFragment (openAssembly (if x.isSome then dropAssembly s n part else s) n h at_) n h payload at_
  | false, some x => if gapBefore x at_ then bumpEp (dropAssembly s n part) 3 else joinFragment s n h payload at_
  | false, none => bumpEp s 3

/-- The fragments of a source part that wait in the receive buffer are taken in order, until its path stalls again. -/
def takeFrames : Nat → State → Nat → Nat → State
  | 0, s, _, _ => s
  | k + 1, s, n, part =>
    if rxStalled s n part then s
    else
      match (linkOf s n).frames.find? fun x => x.1.srcPart.val == part with
      | none => s
      | some f =>
        let s := modLink s n fun l => { l with frames := l.frames.eraseP fun x => x.1.srcPart.val == part }
        takeFrames k (takeFragment s n f.1 f.2.1 f.2.2) n part

/-- A stalled path goes on. -/
def resumeRx (s : State) (n part : Nat) : State :=
  let s := deliverRx s n part
  takeFrames ((linkOf s n).frames.length) s n part

/-- The message of a source part is given up with its packet, and the fragments behind it are taken. -/
def abandonRx (s : State) (n part : Nat) : State :=
  takeFrames ((linkOf s n).frames.length) (dropAssembly s n part) n part

/-- The bytes of a frame in the receive buffer: its header with the rest. -/
def frameBytes : CrossingFrame → Nat
  | .data _ l => 24 + l.length
  | .announce _ v => 28 + 2 * v.length

/-- Bytes that a link's receive buffer holds: the frames not yet handled, those that wait, and what stalled messages have left. -/
def rxHeld (l : Link) : Nat :=
  l.inbox.foldl (fun k f => k + frameBytes f) 0 + l.frames.foldl (fun k f => k + frameBytes (.data f.1 f.2.1)) 0
    + l.rx.foldl (fun k x => k + x.2.left.length) 0

/-- A frame enters the receive buffer (R421): 64 KiB, a frame that does not fit being dropped whole. -/
def bufferFrame (s : State) (n : Nat) (f : CrossingFrame) : State :=
  if 65536 < rxHeld (linkOf s n) + frameBytes f then bumpEp s 3 else modLink s n fun l => { l with inbox := l.inbox ++ [f] }

/-- A fragment from the receive buffer: it joins its message, or waits behind that where it stands still (R252, R421). -/
def receiveFragment (s : State) (n : Nat) (h : CrossingHeader) (payload : List Byte) : State :=
  if rxStalled s n h.srcPart.val then modLink s n fun l => { l with frames := l.frames ++ [(h, payload, (s.tb.time : Int))] }
  else takeFragment s n h payload s.tb.time

end Sys2Proof.Machine
end

