-- ==== Sys2Proof/Machine/Backbone.lean ====
section
/-!
DEFINITION. The backbone ports: frames and MACsec, the crossing protocol, peers, the discovery sink and gPTP (13_bus_roles.md R406 to R410; 14_endpoints_and_identity.md R417 to R422, R428; 17_security_and_logbook.md R491, R492; 02_crossings_and_landings.md R44).
-/
namespace Sys2Proof.Machine

/-! ## The ports -/

/-- Backbone port `n` runs and its link is up (R406, R508). -/
def bbLive (s : State) (n : Nat) : Bool := isRun s && domainOn s (57 + n) && (bbOf s n).en && (bbOf s n).link

/-- Counter `k` of backbone port `n` (R410). -/
def bumpBb (s : State) (n k : Nat) : State := modBb s n fun b => { b with cnt := bump b.cnt k }

/-- BACKBONE_LINK_CHANGE (R406): a port that runs follows its link, and with auto-negotiation its rate follows the PHY. -/
def execBackboneLinkChange (n : Fin 2) (up : Bool) (speed : BitVec 2) (s : State) : Host.Outcome State Fault Refusal :=
  .next <|
    if isRun s && domainOn s (57 + n.val) && (bbOf s n).en then
      let t := modBb s n fun b => { b with link := up, speed := if b.an then speed else b.rate }
      if (bbOf s n).link && !up then bumpBb t n 7 else t
    else s

/-! ## MACsec (R409, R491, R492) -/

/-- The MACsec registers of port `n`. -/
def macOfPort (s : State) (n : Nat) : MacPort := tGet s.sec.mac n {}

/-- The state with them changed. -/
def modMac (s : State) (n : Nat) (f : MacPort → MacPort) : State :=
  { s with sec := { s.sec with mac := tUpd s.sec.mac n {} f } }

/-- The key of an association that is enabled with a usable slot (R492). -/
def saKey (s : State) (a : MacSa) : Option (List Byte) :=
  let k := slotOf s a.slot.toNat
  if a.en && (k.kind == 4 || k.kind == 5) && maySlot s 0 a.slot.toNat then some k.material else none

/-- Big-endian bytes of an SCI. -/
def sciBytes (sci : BitVec 64) : List Byte := beBytes 8 sci.toNat

/-- `SL`: the length of short secured data. -/
def shortLen (n : Nat) : Nat := if n < 48 then n else 0

/-- The octets of a SecTAG with its EtherType. -/
def tagBytes (t : SecTag) : List Byte :=
  [0x88, 0xE5, BitVec.ofNat 8 (4 * t.tci.toNat + t.an.toNat), t.sl] ++ beBytes 4 t.pn.toNat
    ++ (if t.tci.getLsbD 3 then sciBytes t.sci else [])

/-- The addresses at the head of a frame. -/
def addrBytes (dst src : BitVec 48) : List Byte := beBytes 6 dst.toNat ++ beBytes 6 src.toNat

/-- The SCI of receive channel `c`. -/
def rxSci (m : MacPort) (c : Nat) : BitVec 64 := tGet m.rxSciHi c 0 ++ tGet m.rxSciLo c 0

/-- The enabled receive association whose SCI and AN match a tag: its number, 2 for each channel (R492). -/
def rxSa (m : MacPort) (t : SecTag) : Option (Nat × MacSa) :=
  ((List.range 8).map fun k => (k, tGet m.rx k {})).find? fun x => x.2.en && x.2.an == t.an && rxSci m (x.1 / 2) == t.sci

/-- The secured data in clear, if the frame validates; strict validation takes only data with E and C alike. -/
def openFrame (key : List Byte) (f : EthFrame) (t : SecTag) : Option (List Byte) :=
  let iv := sciBytes t.sci ++ beBytes 4 t.pn.toNat
  let aad := addrBytes f.dst f.src ++ tagBytes t
  let formOk := !t.tci.getLsbD 5 && t.tci.getLsbD 1 == t.tci.getLsbD 0 && t.sl.toNat == shortLen f.payload.length
  if !formOk then none
  else if t.tci.getLsbD 1 then
    if gcmTag key iv aad f.payload == f.icv then some (gcmCrypt key iv f.payload) else none
  else if gcmTag key iv (aad ++ f.payload) [] == f.icv then some f.payload
  else none

/-- The lowest acceptable PN after a frame that validated (R492). -/
def nextLpn (m : MacPort) (lpn pn : BitVec 32) : BitVec 32 :=
  BitVec.ofNat 32 (min (2 ^ 32 - 1) (max lpn.toNat (pn.toNat + 1 - m.replayWin.toNat)))

/-- A frame with a SecTAG is validated: the state after it, and the secured data in clear. -/
def validate (s : State) (n : Nat) (f : EthFrame) (t : SecTag) : State × Option (List Byte) :=
  let m := macOfPort s n
  let failed := (bumpBb s n 4, none)
  match rxSa m t with
  | none => failed
  | some (k, a) =>
    match saKey s a with
    | none => failed
    | some key =>
      if t.pn.toNat < a.pn.toNat then failed
      else
        match openFrame key f t with
        | none => failed
        | some l => (modMac s n fun m => { m with rx := tPut m.rx k { a with pn := nextLpn m a.pn t.pn } }, some l)

/-! ## BACKBONE_FRAME_RECEIVED (R407, R410, R418) -/

/-- The address of a part (R418). -/
def partAddress (part : Nat) : BitVec 48 := BitVec.ofNat 48 (0x024451000000 + part)

/-- Some reserved field of a crossing header is not 0 (R419). -/
def crossingReserved (w : Nat → Word) : Bool :=
  fieldOf (w 0) 26 6 != 0 || fieldOf (w 1) 6 2 != 0 || fieldOf (w 1) 14 2 != 0 || fieldOf (w 2) 14 18 != 0 || w 5 != 0

/-- A part ID at bit `lo` of a word. -/
def partAt (w : Word) (lo : Nat) : Fin 64 := Fin.ofNat 64 (w.toNat / 2 ^ lo)

/-- The header of a DATA frame in its 24 bytes. -/
def headerOf (l : List Byte) : CrossingHeader :=
  let w := wordAt l
  { version := (w 0).setWidth 16, first := (w 0).getLsbD 24, last := (w 0).getLsbD 25, srcPart := partAt (w 1) 0,
    dstPart := partAt (w 1) 8, seq := (w 1 >>> 16).setWidth 16, dstEid := (w 2).setWidth 14, msgLen := (w 3).setWidth 16,
    fragOff := (w 3 >>> 16).setWidth 16, ident := w 4, reserved := crossingReserved w }

/-- The payload of a fragment; a frame of the least size carries padding behind it (IEEE 802.3). -/
def fragmentData (h : CrossingHeader) (l : List Byte) : List Byte :=
  if l.length ≤ 22 then l.take (h.msgLen.toNat - h.fragOff.toNat) else l

/-- The crossing frame that follows EtherType 0x88B5, or none where it is short or its `TYPE` is reserved. -/
def crossingOf (l : List Byte) : Option CrossingFrame :=
  if l.length < 24 then none
  else
    match fieldOf (wordAt l 0) 16 8 with
    | 0x01 => some (.data (headerOf l) (fragmentData (headerOf l) (l.drop 24)))
    | 0x02 => some (.announce (partAt (wordAt l 1) 0)
        ((List.range (fieldOf (wordAt l 6) 0 4)).map fun k => leNat ((l.drop (28 + 2 * k)).take 2)))
    | _ => none

/-- The kind of a gPTP message, from its first octet, its flags and `logMessageInterval`; the device accepts Sync intervals from 31.25 ms to 1 s (R408, IEEE 802.1AS). -/
def gptpKind (type flags interval : Nat) : GptpKind :=
  match type % 16 with
  | 0x0 => if interval = 0 then .sync (flags / 2 % 2 == 1) 1000000000
      else if 0xFB ≤ interval then .sync (flags / 2 % 2 == 1) (1000000000 / 2 ^ (256 - interval)) else .other
  | 0x8 => .followUp
  | 0x2 => .pdelayReq
  | 0x3 => .pdelayResp
  | 0xA => .pdelayResp
  | _ => .other

/-- The gPTP message that follows EtherType 0x88F7, time-stamped with the port's receive latency (R406, R408). -/
def gptpOf (s : State) (n : Nat) (l : List Byte) : GptpFrame :=
  let b (k : Nat) : Nat := (l.getD k 0).toNat
  { domain := b 4, kind := gptpKind (b 0) (b 6) (b 33), seq := BitVec.ofNat 16 (beNat ((l.drop 30).take 2)),
    sender := BitVec.ofNat 80 (beNat ((l.drop 20).take 10)), stamp := s.tb.time + fieldOf (bbOf s n).lat 0 16 }

/-- A frame is for this part (R418). -/
def forUs (s : State) (dst : BitVec 48) : Bool := dst == partAddress s.ep.selfId.toNat || dst == BitVec.allOnes 48

/-- A frame in clear is routed by its EtherType: to the gPTP function, to the receive buffer of the crossing-protocol path, or dropped (R407, R418). -/
def routeFrame (s : State) (n : Nat) (dst : BitVec 48) (etype : Nat) (l : List Byte) : State :=
  if etype = 0x88F7 then modBb s n fun b => { b with gptp := b.gptp ++ [gptpOf s n l] }
  else if etype = 0x88B5 ∧ forUs s dst then
    match crossingOf l with
    | some f => bufferFrame s n f
    | none => bumpEp s 3
  else bumpBb s n 2

/-- Secured data in clear are routed by their EtherType, a VLAN tag before it being ignored (R418). -/
def routeSecured (s : State) (n : Nat) (dst : BitVec 48) (l : List Byte) : State :=
  if beNat (l.take 2) = 0x8100 then routeFrame s n dst (beNat ((l.drop 4).take 2)) (l.drop 6)
  else routeFrame s n dst (beNat (l.take 2)) (l.drop 2)

/-- A good frame. -/
def takeFrame (s : State) (n : Nat) (f : EthFrame) : State :=
  let s := bumpBb s n 0
  match (bbOf s n).macsec, f.tag with
  | true, some t =>
    let r := validate s n f t
    match r.2 with
    | some l => routeSecured r.1 n f.dst l
    | none => r.1
  | true, none => if f.etype = 0x88F7 then routeFrame s n f.dst f.etype.toNat f.payload else bumpBb s n 2
  | false, some _ => bumpBb s n 2
  | false, none => routeFrame s n f.dst f.etype.toNat f.payload

/-- The bytes of a frame, its FCS among them. -/
def frameLen (f : EthFrame) : Nat :=
  18 + (if f.vlan.isSome then 4 else 0) + f.payload.length
    + (match f.tag with | some t => 6 + (if t.tci.getLsbD 3 then 8 else 0) + f.icv.length | none => 0)

/-- A frame is longer than the port accepts (R406). -/
def oversize (s : State) (n : Nat) (f : EthFrame) : Bool := decide (1522 + (if (bbOf s n).macsec then 32 else 0) < frameLen f)

/-- BACKBONE_FRAME_RECEIVED (R406, R407). -/
def execBackboneFrameReceived (n : Fin 2) (f : EthFrame) (s : State) : Host.Outcome State Fault Refusal :=
  .next (if bbLive s n then (if f.good && !oversize s n f then conclude s (takeFrame s n f) else bumpBb s n 3) else s)

/-! ## Sending (R407, R409, R492) -/

/-- A frame is put on the wire of port `n`. -/
def putFrame (s : State) (n : Nat) (l : List Byte) : State :=
  bumpBb { s with out := { s.out with frames := s.out.frames ++ [(n, l)] } } n 1

/-- The selected transmit association. -/
def txSa (m : MacPort) : MacSa := tGet m.tx (if m.txsel then 1 else 0) {}

/-- The port can send a protected frame, or needs not to (R492). -/
def canSend (s : State) (n : Nat) : Bool :=
  let a := txSa (macOfPort s n)
  bbLive s n && (!(bbOf s n).macsec || ((saKey s a).isSome && a.pn != BitVec.allOnes 32))

/-- The frame under the transmit association, confidentiality offset 0 (R409). -/
def sealFrame (key : List Byte) (m : MacPort) (a : MacSa) (dst src : BitVec 48) (data : List Byte) : List Byte :=
  let sci : BitVec 64 := m.txSciHi ++ m.txSciLo
  let t : SecTag := { tci := 0x0B, an := a.an, sl := BitVec.ofNat 8 (shortLen data.length), pn := a.pn, sci := sci }
  let iv := sciBytes sci ++ beBytes 4 a.pn.toNat
  let head := addrBytes dst src ++ tagBytes t
  let ct := gcmCrypt key iv data
  head ++ ct ++ gcmTag key iv head ct

/-- The packet number of the sending association advances; when it reaches its end the security source is raised (R409). -/
def advancePn (s : State) (n : Nat) : State :=
  let a := txSa (macOfPort s n)
  let s := modMac s n fun m => { m with tx := tPut m.tx (if m.txsel then 1 else 0) { a with pn := a.pn + 1 } }
  if a.pn + 1 = BitVec.allOnes 32 then raise s 707 else s

/-- A frame is sent, protected where MACsec is on; one that an exhausted association cannot send is dropped and counted (R409, R410). -/
def sendFrame (s : State) (n : Nat) (dst : BitVec 48) (data : List Byte) : State :=
  let src := partAddress s.ep.selfId.toNat
  let m := macOfPort s n
  let a := txSa m
  if !bbLive s n then s
  else if !(bbOf s n).macsec then putFrame s n (addrBytes dst src ++ data)
  else
    match saKey s a with
    | none => s
    | some key =>
      if a.pn = BitVec.allOnes 32 then bumpBb s n 5
      else putFrame (advancePn s n) n (sealFrame key m a dst src data)

/-- The EtherType and the crossing header (R418, R419). -/
def crossingHead (version type : Nat) (first last : Bool) (src dst seq eid len off : Nat) (ident : Word) : List Byte :=
  [0x88, 0xB5] ++ leBytes 4 (version + type * 2 ^ 16 + (if first then 2 ^ 24 else 0) + (if last then 2 ^ 25 else 0))
    ++ leBytes 4 (src + dst * 2 ^ 8 + seq * 2 ^ 16) ++ leBytes 4 eid ++ leBytes 4 (len + off * 2 ^ 16)
    ++ leBytes 4 ident.toNat ++ leBytes 4 0

/-! ## CROSSING_FRAGMENT_SENT (R417, R420) -/

/-- The first message of a link's transmit path leaves it, its cells freed. -/
def popPath (s : State) (n : Nat) : State :=
  let s := match queueOf s (pathNo n) with
    | some q =>
      match q.packets with
      | p :: l => freeCellsOf (modQueue s (pathNo n) fun q => { q with packets := l, first := q.first + 1, readAt := q.first + 1 }) p.cells
      | [] => s
    | none => s
  modLink s n fun l => { l with path := l.path.drop 1 }

/-- The transmit association that would send has used up its packet numbers (R409). -/
def exhausted (s : State) (n : Nat) : Bool :=
  let a := txSa (macOfPort s n)
  bbLive s n && (bbOf s n).macsec && (saKey s a).isSome && a.pn == BitVec.allOnes 32

/-- A message dropped at transmission (R420); where packet numbers have run out, the frame whose turn it is counts as dropped as well (R409, R410). -/
def dropMessage (s : State) (n : Nat) : State :=
  let t := bumpEp (popPath s n) 2
  if exhausted s n then bumpBb t n 5 else t

/-- The cells of the path's first message. -/
def pathCells (s : State) (n : Nat) : List Nat :=
  match queueOf s (pathNo n) with
  | some q => (q.packets.head?.map (·.cells)).getD []
  | none => []

/-- The cells of the first message that are found to hold an uncorrectable error, quarantined (R258). -/
def checkCells (s : State) (n : Nat) : State :=
  ((pathCells s n).filter fun c => s.deck.bad.contains c && !s.deck.quar.contains c).foldl
    (fun s c => quarantineCell s c (some (pathNo n))) s

/-- The agreed version with the part that an entry of kind 2 names (R422). -/
def peerVersion (s : State) (n part : Nat) : Nat := ((tFind (linkOf s n).peers part).map (·.version.toNat)).getD 0

/-- The path's first message is dropped before its first fragment (R420, R492); a lost cell drops it too. -/
def mustDrop (s : State) (n : Nat) (m : Message) (v : Nat) : Bool :=
  v == 0 || !canSend s n || (v == 0x0100 && decide (1476 < m.bytes.length))
    || (pathCells s n).any fun c => s.deck.bad.contains c || s.deck.quar.contains c

/-- One fragment of the path's first message, at the version with which its transmission began. -/
def sendFragment (s : State) (n : Nat) (m : Message) (v : Nat) : State :=
  let part := m.part.toNat
  let l := (m.bytes.drop m.sent).take 1476
  let last := decide (m.bytes.length ≤ m.sent + l.length)
  let head := crossingHead v 1 (m.sent == 0) last s.ep.selfId.toNat part (linkOf s n).seq.toNat m.remote.toNat
    m.bytes.length m.sent m.ident
  let s := sendFrame s n (partAddress part) (head ++ l)
  if last then bumpEp (popPath (modLink s n fun y => { y with seq := y.seq + 1 }) n) 0
  else
    let m' : Message := { m with sent := m.sent + l.length, version := BitVec.ofNat 16 v }
    modLink s n fun y => { y with path := m' :: y.path.drop 1 }

/-- The path's first message: its stamp compared, with a mismatch counted for the partition whose entry addressed it (R417); dropped; or a fragment sent. -/
def servePath (s : State) (n : Nat) (m : Message) : State :=
  if m.sent = 0 then
    if (epOf s m.eid).number ≠ m.stamp then countStale (bumpEp (popPath s n) 4) m.sender
    else
      let s := checkCells s n
      let v := peerVersion s n m.part.toNat
      if mustDrop s n m v then dropMessage s n else sendFragment s n m v
  else if !canSend s n then dropMessage s n
  else sendFragment s n m m.version.toNat

/-- CROSSING_FRAGMENT_SENT (R420). -/
def execCrossingFragmentSent (n : Fin 2) (s : State) : Host.Outcome State Fault Refusal :=
  .next <|
    match (if isRun s then (linkOf s n).path.head? else none) with
    | some m => conclude s (servePath s n m)
    | none => s

/-! ## Reception (R421, R422) -/

/-- The fragment is for this part, at the version agreed with its sender (R421). -/
def fragmentOk (s : State) (n : Nat) (h : CrossingHeader) : Bool :=
  let v := peerVersion s n h.srcPart.val
  v != 0 && h.version.toNat == v && h.dstPart.val == s.ep.selfId.toNat && !h.reserved

/-- The first frame of the receive buffer leaves it. -/
def takeInbox (s : State) (n : Nat) : State := modLink s n fun l => { l with inbox := l.inbox.drop 1 }

/-- The crossing-protocol path of a backbone port is clocked. -/
def bbOn (s : State) (n : Nat) : Bool := isRun s && domainOn s (57 + n)

/-- CROSSING_FRAGMENT_RECEIVED (R421): the DATA frame that is the first of the receive buffer, whose header and payload the row tells; it acts where that frame stands there. -/
def execCrossingFragmentReceived (n : Fin 2) (h : CrossingHeader) (payload : List (BitVec 8)) (s : State) :
    Host.Outcome State Fault Refusal :=
  .next <|
    if bbOn s n && (linkOf s n).inbox.head? == some (.data h payload) then
      let t := takeInbox s n
      conclude s (if fragmentOk s n h then receiveFragment t n h payload else bumpEp t 3)
    else s

/-- The fragments of a part that wait in the receive buffer, with their times. -/
def waitingFragments (s : State) (n part : Nat) : List (CrossingHeader × Int) :=
  ((linkOf s n).frames.filter fun f => f.1.srcPart.val == part).map fun f => (f.1, f.2.2)

/-- A gap of more than 10 ms follows the last fragment of an open message, one that still waits included; with its last fragment, or the first of another, waiting the message has no gap any more (R421). -/
def gapOver (s : State) (n part : Nat) (x : Assembly) : Bool :=
  let l := waitingFragments s n part
  !x.complete && !(l.any fun f => f.1.first || f.1.last)
    && gapBefore { x with last := ((l.getLast?).map Prod.snd).getD x.last } s.tb.time

/-- FRAGMENT_GAP_TIMEOUT (R421). -/
def execFragmentGapTimeout (n : Fin 2) (part : Fin 64) (s : State) : Host.Outcome State Fault Refusal :=
  .next <|
    match assemblyOf s n part with
    | some x => if isRun s && gapOver s n part x then conclude s (abandonRx s n part) else s
    | none => s

/-- An ANNOUNCE of a part that lists versions (R422). -/
def takeAnnounce (s : State) (n part : Nat) (versions : List Nat) : State :=
  if part = s.ep.selfId.toNat then raise { s with ep := { s.ep with idConflict := true } } 707
  else modLink s n fun l => { l with peers := tPut l.peers part ⟨BitVec.ofNat 16 (agreedOf versions), s.tb.time⟩ }

/-- ANNOUNCE_RECEIVED (R422): the ANNOUNCE that is the first frame of the receive buffer, whose part and versions the row tells. -/
def execAnnounceReceived (n : Fin 2) (part : Fin 64) (versions : List Nat) (s : State) : Host.Outcome State Fault Refusal :=
  .next <|
    if bbOn s n && (linkOf s n).inbox.head? == some (.announce part versions) then
      conclude s (takeAnnounce (takeInbox s n) n part versions)
    else s

/-- An ANNOUNCE on link `n`: the two versions of this part (R419, R422). -/
def sendAnnounce (s : State) (n : Nat) : State :=
  let head := crossingHead 0x0100 2 false false s.ep.selfId.toNat 0 0 0 0 0 0
  sendFrame s n (BitVec.allOnes 48) (head ++ leBytes 4 2 ++ leBytes 2 0x0100 ++ leBytes 2 0x0200)

/-- The ANNOUNCE of a multiple of 100 ms is sent on a link that is up, once. -/
def announceOn (k : Nat) (s : State) (n : Nat) : State :=
  if (linkOf s n).announced = some k then s
  else
    let s := modLink s n fun l => { l with announced := some k }
    if s.ep.announce && bbLive s n then sendAnnounce s n else s

/-- ANNOUNCE_TIMER (R422): device time is at a multiple of 100 ms. -/
def execAnnounceTimer (s : State) : Host.Outcome State Fault Refusal :=
  .next <|
    if isRun s && decide (s.tb.time % 100000000 < 20)
    then conclude s ((List.range 2).foldl (announceOn (s.tb.time / 100000000)) s) else s

/-- PEER_TIMEOUT (R422): no ANNOUNCE for 350 ms. -/
def execPeerTimeout (n : Fin 2) (part : Fin 64) (s : State) : Host.Outcome State Fault Refusal :=
  .next <|
    match tFind (linkOf s n).peers part.val with
    | some x =>
      if isRun s && decide (x.seen + 350000000 ≤ s.tb.time) then modLink s n fun l => { l with peers := tDel l.peers part.val } else s
    | none => s

/-! ## The discovery sink (R428) -/

/-- The identity record in a message to the sink. -/
def sinkRecord (m : List Byte) : List Byte := (m.drop 64).take (fieldOf (wordAt m 1) 16 12)

/-- The decision's record: accepted, or refused for a reason (R497). -/
def sinkLog (s : State) (m : Message) (reason : Nat) : State :=
  let l := sinkRecord m.bytes
  let w := wordAt m.bytes 6
  let b := leBytes 1 (fieldOf w 0 7) ++ leBytes 2 (fieldOf w 16 16) ++ leBytes 2 (idMaker l) ++ leBytes 8 (idSerial l).toNat
  logNormal s { kind := 0x0E, object := m.eid + reason * 2 ^ 24, body := b, detail := b, details := 1 }

/-- A rejection, counted and logged; the reason of one that R425 does not name is a free value. -/
def rejectSink (s : State) (m : Message) (reason : Option Nat) : State :=
  let s := bumpEp s 5
  match reason with
  | some r => sinkLog s m r
  | none => sinkLog (drawn s) m (fieldOf (freeOf s) 0 8)

/-- An acceptance: the agreed version is recorded and the entry re-evaluated. -/
def acceptSink (s : State) (m : Message) : State :=
  let v := BitVec.ofNat 16 (idAgreed (sinkRecord m.bytes))
  let s := modEp s m.eid fun e => epReview s { e with proven := true, neg := v }
  sinkLog s m 0

/-- The decision on a message; it is discarded where the entry's number has changed since the commit (R428, R429). -/
def decideSink (s : State) (m : Message) : State :=
  let e := epOf s m.eid
  let port := portOf s e.port.toNat
  if m.eid ≠ 0x3FFF ∧ e.number ≠ m.stamp then s
  else if m.eid = 0x3FFF ∨ e.state ≠ .pending ∨ fieldOf (wordAt m.bytes 6) 16 16 ≠ port.number.toNat then rejectSink s m none
  else
    match idReason s true (sinkRecord m.bytes) with
    | 0 => acceptSink s m
    | r => rejectSink s m (some r)

/-- SINK_DECISION (R428): the sink decides its first message. -/
def execSinkDecision (s : State) : Host.Outcome State Fault Refusal :=
  .next <|
    match (if isRun s then s.ep.sink else []) with
    | m :: l => conclude s (decideSink { s with ep := { s.ep with sink := l } } m)
    | [] => s

/-! ## gPTP (R44, R408) -/

/-- gPTP is the sync source and port `n` its slave port. -/
def gptpSlave (s : State) (n : Nat) : Bool := s.tb.source == 2 && decide (n = if s.tb.gptpPort then 1 else 0)

/-- A gPTP timestamp: seconds and nanoseconds (IEEE 802.1AS). -/
def stampBytes (t : Nat) : List Byte := beBytes 6 (t / 1000000000) ++ beBytes 4 (t % 1000000000)

/-- The port identity of port `n`: the part's address as an EUI-64, and the port's number (IEEE 802.1AS). -/
def clockBytes (part n : Nat) : List Byte := [0x02, 0x44, 0x51, 0xFF, 0xFE, 0x00, 0x00] ++ beBytes 1 part ++ beBytes 2 (n + 1)

/-- A peer-delay message: the header of IEEE 802.1AS, and a body of 20 bytes. -/
def pdelayBytes (part n type flags : Nat) (seq : BitVec 16) (body : List Byte) : List Byte :=
  beBytes 1 (0x10 + type) ++ [0x12] ++ beBytes 2 54 ++ [0, 0] ++ beBytes 1 flags ++ [0] ++ List.replicate 12 0
    ++ clockBytes part n ++ beBytes 2 seq.toNat ++ [0] ++ (if type = 2 then [0] else [0x7F]) ++ body

/-- Firmware writes `LSY_RATE_ADJ` within its range (R28, R44). -/
def servoRate (s : State) (rate : BitVec 32) : State :=
  modTb s fun t => { t with rate := BitVec.ofInt 32 (max (-200000) (min 200000 rate.toInt)) }

/-- A Sync with its interval is accepted: the servo is synchronised, and an indicated loss ends (R44). -/
def servoSync (s : State) (interval : Nat) : State :=
  let t := modTb s fun t => { t with gptpSync := true, holdover := false, syncAt := t.time, syncIv := interval }
  if s.tb.holdover then raise t 661 else t

/-- A gPTP frame that carries an answer leaves port `n`; gPTP frames pass unprotected (R407). -/
def sendGptp (s : State) (n : Nat) (l : List Byte) : State :=
  if bbLive s n then putFrame s n (addrBytes 0x0180C200000E (partAddress s.ep.selfId.toNat) ++ [0x88, 0xF7] ++ l) else s

/-- Pdelay_Req is answered with Pdelay_Resp and its Follow_Up, which carry the timestamps of the request and of the answer (R408). -/
def answerPdelay (s : State) (n : Nat) (f : GptpFrame) : State :=
  let out := s.tb.time + fieldOf (bbOf s n).lat 16 16
  let s := sendGptp s n (pdelayBytes s.ep.selfId.toNat n 0x3 0x02 f.seq (stampBytes f.stamp ++ beBytes 10 f.sender.toNat))
  sendGptp s n (pdelayBytes s.ep.selfId.toNat n 0xA 0x00 f.seq (stampBytes out ++ beBytes 10 f.sender.toNat))

/-- A gPTP frame of domain 0 at the servo and the peer-delay function; `rate` is the correction that firmware's servo makes of it. One-step Sync corrects the rate itself, two-step Sync by its Follow_Up, and the rate is held while the servo reports a loss (R44); firmware that has stopped runs no servo. -/
def takeGptp (s : State) (n : Nat) (f : GptpFrame) (rate : BitVec 32) : State :=
  let slave := gptpSlave s n && s.fw.running
  if f.domain ≠ 0 then s
  else
    match f.kind with
    | .sync twoStep interval =>
      if slave then
        let s := servoSync (bumpBb s n 6) interval
        if twoStep then s else servoRate s rate
      else s
    | .followUp => if slave && s.tb.gptpSync then servoRate s rate else s
    | .pdelayReq => answerPdelay s n f
    | .pdelayResp => s
    | .other => s

/-- GPTP_FRAME_RECEIVED (R408): the first frame handed to the gPTP function. -/
def execGptpFrameReceived (n : Fin 2) (rate : BitVec 32) (s : State) : Host.Outcome State Fault Refusal :=
  .next <|
    match (if bbOn s n then (bbOf s n).gptp.head? else none) with
    | some f => conclude s (takeGptp (modBb s n fun b => { b with gptp := b.gptp.drop 1 }) n f rate)
    | none => s

/-- GPTP_SYNC_LOSS (R408, R44): three Sync intervals have passed without a Sync. -/
def execGptpSyncLoss (s : State) : Host.Outcome State Fault Refusal :=
  .next <|
    if isRun s && s.tb.source == 2 && !s.tb.holdover && decide (s.tb.syncAt + 3 * s.tb.syncIv ≤ s.tb.time) then
      conclude s (raise (modTb s fun t => { t with gptpSync := false, holdover := true, cnt := bump t.cnt 4 }) 661)
    else s

end Sys2Proof.Machine
end

