-- ==== Sys2Proof/Machine/GciOps.lean ====
section
/-!
DEFINITION. The Gliny Control Interface: mailboxes, tokens, requests and responses, and how a command runs (06_control_interface.md R179 to R193).
-/
namespace Sys2Proof.Machine

/-! ## Doors and requests -/

/-- The partition that a door acts for (R11, R214): its own, or the one that the safety port is bound to. -/
def doorPart (s : State) (d : Nat) : Option Nat := if d = 32 then s.fw.bound else some d

/-- `DOOR` of a record for a command of a door (R496). -/
def doorKind (d : Nat) : Nat := if d = 32 then 1 else 0

/-- The request that a door's command was submitted with: that taken up, where firmware has it in hand. -/
def requestOf (s : State) (d : Nat) : List Word := ((mbxOf s d).taken.map Prod.fst).getD (mbxOf s d).locked

/-- Word `k` of the request. -/
def reqWord (s : State) (d k : Nat) : Word := (requestOf s d).getD k 0

/-- `OPCODE` of the locked request. -/
def reqOp (s : State) (d : Nat) : Nat := fieldOf (reqWord s d 0) 0 16

/-- `LEN` of the locked request. -/
def reqLen (s : State) (d : Nat) : Nat := fieldOf (reqWord s d 1) 16 6

/-- Payload word p`k` of the locked request; a word beyond its `LEN` is ignored (R181). -/
def pay (s : State) (d k : Nat) : Word := if k < reqLen s d then reqWord s d (k + 2) else 0

/-- A 64-bit value in two payload words, low word first. -/
def pay64 (s : State) (d k : Nat) : Nat := (pay s d k).toNat + 2 ^ 32 * (pay s d (k + 1)).toNat

/-- The negotiated version of a door's session, 0 where there is none. -/
def sessionOf (s : State) (d : Nat) : Nat := ((mbxOf s d).version.map (·.toNat)).getD 0

/-- The version under which a door's command was taken up. -/
def versionOf (s : State) (d : Nat) : Nat := (((((mbxOf s d).taken.map Prod.snd).getD (mbxOf s d).version)).map (·.toNat)).getD 0

/-- The partition is being reset: its fence is raised (R232). -/
def fenced (s : State) (p : Nat) : Bool := (partOf s p).reset.isSome

/-- The partition of a door is being reset. -/
def doorFenced (s : State) (d : Nat) : Bool := (doorPart s d).any (fenced s)

/-! ## Responses (R180, R181, R192) -/

/-- The 64 words of a response; the words beyond its `LEN` are undefined. -/
def responseWords (s : State) (d result : Nat) (l : List Word) : List Word :=
  let w1 := BitVec.ofNat 32 (sessionOf s d + l.length * 2 ^ 16 + result * 2 ^ 24)
  let head := reqWord s d 0 :: w1 :: l
  head ++ (List.range (64 - head.length)).map fun i => Config.freeWord (s.freeCtr + i)

/-- The mailbox has a command outstanding. -/
def outstanding (m : Mailbox) : Bool := m.state == .pending || m.state == .busy

/-- The door's command is no longer in firmware's hands. -/
def leaveHands (s : State) (d : Nat) : State :=
  let s := modMbx s d fun m => { m with taken := none }
  { s with fw := { s.fw with current := if s.fw.current = some d then none else s.fw.current,
                             long := s.fw.long.filter (· != d) } }

/-- The command of a door finishes: the response is written, the mailbox is DONE and its source is raised; the response of a partition under reset is discarded. -/
def respond (s : State) (d result : Nat) (l : List Word) : State :=
  let rsp := (responseWords s d result l).zipIdx.map fun x => (x.2, x.1)
  let s := leaveHands s d
  if doorFenced s d then modMbx s d fun m => { m with state := .idle, locked := [] }
  else
    let s := modMbx (drawnBy s 62) d fun m => { m with state := .done, locked := [], rsp := rsp }
    if d < 32 then raise s (512 + d) else s

/-- A command in firmware's hands is answered: where a reset of its partition has emptied the mailbox since, the response is discarded (R192). -/
def answer (s : State) (d result : Nat) (l : List Word) : State :=
  if (mbxOf s d).state == .busy then respond s d result l else leaveHands s d

/-- The mailbox hardware answers BUSY (R191). -/
def answerBusy (s : State) (d : Nat) : State := respond s d 0x0A []

/-- A command that waited for its effect to complete is answered, where it still waits. -/
def answerLate (s : State) (d result : Nat) (l : List Word) : State :=
  if (mbxOf s d).state == .busy && (mbxOf s d).taken.isNone then respond s d result l else s

/-- What firmware carried out for mailboxes that a reset has emptied since is given up. -/
def dropOrphans (s : State) : State :=
  { s with mbx := s.mbx.map fun x => (x.1, if x.2.state == .busy then x.2 else { x.2 with taken := none }) }

/-- Every command outstanding at a mailbox is answered BUSY (R191). -/
def answerAllBusy (s : State) : State :=
  let s := dropOrphans s
  (s.mbx.filter fun x => x.2.state == .pending || x.2.state == .busy).foldl (fun s x => answerBusy s x.1) s

/-! ## Tokens (R188) -/

/-- Tokens per millisecond of a door. -/
def tokenRate (s : State) (d : Nat) : Nat := if d = 32 then 8 else (partOf s d).mbxRate

/-- The content of a door's bucket now, in millionths of a token. -/
def tokensOf (s : State) (d : Nat) : Nat :=
  let m := mbxOf s d
  min 8000000 (m.tokens + tokenRate s d * (s.tb.time - m.since))

/-- The bucket accrues up to now and holds what it then holds. -/
def accrue (s : State) (d : Nat) : State :=
  let n := tokensOf s d
  modMbx s d fun m => { m with tokens := n, since := s.tb.time }

/-! ## Running a command (R185, R186) -/

/-- How a command comes out: refused with a result and a payload, refused with an effect that the refusal itself has, committed with its response payload, committed with the response written later, or carried out in full, its record included, with the response written later. -/
inductive GciOut where
  | refuse (code : Nat) (l : List Word)
  | fail (s : State) (code : Nat) (l : List Word)
  | done (s : State) (l : List Word)
  | wait (s : State)
  | ran (s : State)

/-- A refusal without payload. -/
def GciOut.no (code : Nat) : GciOut := .refuse code []

/-- BAD_FIELD naming a message word (R185). -/
def GciOut.badField (k : Nat) : GciOut := .refuse 0x05 [BitVec.ofNat 32 k]

/-- The record of a logged command (R497). -/
def commandRecord (s : State) (d : Nat) : LogDraft :=
  { part := (doorPart s d).getD 0, door := doorKind d, kind := 0x03,
    object := reqOp s d + fieldOf (pay s d 0) 0 16 * 2 ^ 16,
    body := ((requestOf s d).take (reqLen s d + 2)).flatMap fun w => leBytes 4 w.toNat }

/-- The record of a committed command is appended in its commit cycle. -/
def logCommand (logged : Bool) (s t : State) (d : Nat) : State :=
  if logged then logNormal t (commandRecord s d) else t

/-- The outcome of a command's checks and effect is carried out. -/
def finishCommand (logged : Bool) (s : State) (d : Nat) : GciOut → State
  | .refuse c l => answer s d c l
  | .fail t c l => answer t d c l
  | .done t l => if logged && logFull s then answer s d 0x41 [] else answer (logCommand logged s t d) d 0x00 l
  | .wait t =>
    if logged && logFull s then answer s d 0x41 []
    else
      let t := logCommand logged s t d
      leaveHands t d
  | .ran t => leaveHands t d

/-- Firmware has taken up this command of this door and carries it out. -/
def serves (s : State) (d op : Nat) : Bool :=
  isRun s && s.fw.running && (s.fw.current == some d || s.fw.long.contains d) && (mbxOf s d).taken.isSome && reqOp s d == op

/-- Bits [31:22] of header word 1 of a request, `RESULT` and a reserved field, are 0 (R181). -/
def headerClean (s : State) (d : Nat) : Bool := fieldOf (reqWord s d 1) 22 10 == 0

/-- A command whose header has a bit set that must be 0 fails check 5 of R185 where checks 0 to 4 pass; the word index that the response names, which is to lie from 2 to 63, is free (log 52). -/
def headerChecked (s : State) (d : Nat) (out : GciOut) : GciOut :=
  if headerClean s d then out
  else
    match out with
    | .refuse 0x06 l => .refuse 0x06 l
    | _ => .fail (drawn s) 0x05 [BitVec.ofNat 32 (2 + (freeOf s).toNat % 62)]

/-! ## What the commands define (R193 to R209) -/

/-- A command of R193: its opcode, the version since which it exists, and its payload words. -/
structure GciCommand where
  op : Nat
  since : Nat
  words : Nat

/-- The commands, `HELLO` apart. -/
def gciCommands : List GciCommand :=
  [⟨0x0010, 0x0200, 2⟩, ⟨0x0011, 0x0200, 2⟩, ⟨0x0012, 0x0200, 4⟩, ⟨0x0013, 0x0200, 2⟩, ⟨0x0020, 0x0200, 7⟩,
   ⟨0x0021, 0x0200, 3⟩, ⟨0x0030, 0x0200, 5⟩, ⟨0x0031, 0x0200, 7⟩, ⟨0x0032, 0x0200, 3⟩, ⟨0x0033, 0x0200, 1⟩,
   ⟨0x0040, 0x0200, 6⟩, ⟨0x0041, 0x0200, 1⟩, ⟨0x0042, 0x0200, 3⟩]
  ++ [⟨0x0050, 0x0200, 4⟩, ⟨0x0051, 0x0300, 9⟩, ⟨0x0060, 0x0200, 6⟩, ⟨0x0061, 0x0200, 0⟩, ⟨0x0070, 0x0200, 4⟩,
   ⟨0x0080, 0x0201, 4⟩, ⟨0x0081, 0x0201, 3⟩, ⟨0x0090, 0x0200, 1⟩, ⟨0x00A0, 0x0200, 2⟩, ⟨0x00A1, 0x0200, 4⟩,
   ⟨0x00A2, 0x0200, 1⟩, ⟨0x00B0, 0x0301, 1⟩]

/-- The command of an opcode. -/
def gciCommand (op : Nat) : Option GciCommand := gciCommands.find? fun c => c.op == op

/-- A command whose p1 exists only from version 3.0 (R195). -/
def expectsFrom30 (op : Nat) : Bool := op == 0x10 || op == 0x11 || op == 0x13

/-- The payload words that a request must have: for HELLO as many as hold the versions it counts (R194). -/
def wordsNeeded (s : State) (d : Nat) : Nat :=
  let op := reqOp s d
  if op = 1 then (if reqLen s d = 0 then 1 else 1 + (min 8 (fieldOf (pay s d 0) 0 4) + 1) / 2)
  else
    match gciCommand op with
    | none => 0
    | some c => if expectsFrom30 op && versionOf s d < 0x0300 then 1 else c.words

/-- The first payload word within `LEN` that lies beyond the command's layout and is not 0: such a word is reserved (R10, R185, R193). -/
def wordBeyond (s : State) (d : Nat) : Option Nat :=
  (((List.range (reqLen s d)).drop (wordsNeeded s d)).find? fun k => pay s d k != 0)

/-- Header and length of a request hold no reserved bit that is set. -/
def requestClean (s : State) (d : Nat) : Bool := headerClean s d && (wordBeyond s d).isNone

/-- A word beyond the layout is the last that check 5 of R185 comes to: DENIED and a bad field of the message itself stand before it. -/
def tailChecked (s : State) (d : Nat) (out : GciOut) : GciOut :=
  match wordBeyond s d, out with
  | some _, .refuse 0x06 l => .refuse 0x06 l
  | some _, .refuse 0x05 l => .refuse 0x05 l
  | some k, _ => .badField (k + 2)
  | none, _ => out

/-- A command's row: `steward` and `logged` as R193 gives, `accept` telling the forms that are rows of their own. -/
def gciRow (op : Nat) (steward logged : Bool) (accept : State → Nat → Bool) (f : State → Nat → Nat → GciOut) (d : Door) (s : State) :
    Host.Outcome State Fault Refusal :=
  .next <|
    let n := doorNo d
    if serves s n op && accept s n then
      match doorPart s n with
      | none => answer s n 0x06 []
      | some p => conclude s (finishCommand logged s n (headerChecked s n (tailChecked s n (if steward && p != 0 then .no 0x06 else f s n p))))
    else s

/-- Every form of the command. -/
def anyForm (_ : State) (_ : Nat) : Bool := true

/-! ## Checks -/

/-- The first of a list of checks that fails. -/
def firstFail : List (Bool × GciOut) → Option GciOut
  | [] => none
  | (b, o) :: l => if b then some o else firstFail l

/-- The command's outcome: that of the first check that fails, or its effect. -/
def checked (l : List (Bool × GciOut)) (f : Unit → GciOut) : GciOut :=
  match firstFail l with
  | some o => o
  | none => f ()

/-- Bits of payload word p`k` outside a mask are not 0: BAD_FIELD for its message word. -/
def reserved (s : State) (d k : Nat) (mask : Word) : Bool × GciOut := (pay s d k &&& ~~~ mask != 0, .badField (k + 2))

/-- A payload word is bad (R185): a bit outside a mask is not 0, or a field is out of range. -/
def badWord (s : State) (d k : Nat) (mask : Word) (out : Bool) : Bool × GciOut :=
  ((pay s d k &&& ~~~ mask != 0) || out, .badField (k + 2))

/-- A field of payload word p`k`. -/
def payField (s : State) (d k lo n : Nat) : Nat := fieldOf (pay s d k) lo n

/-- The partition was being reset when the command was taken up: a command that names it, or an object of it, answers RESETTING (R192). -/
def named (s : State) (p : Nat) : Bool := s.fw.fences.getLsbD p

/-- The sessions' versions (R182). -/
def v30 : Nat := 0x0300
/-- GCI 3.2. -/
def v32 : Nat := 0x0302

/-- The port is within range and the partition does not own it (R185 order 4, R193). -/
def portDenied (s : State) (n p : Nat) : Bool := decide (n < 96) && (portOf s n).owner != some p

/-- The refusal of memory that check 8 of R185 finds unreachable, the refused access counted (R222). -/
def windowRefused (s : State) (p : Nat) : GciOut := .fail (countRefused s p) 0x0F []

/-- `n` bytes at a partition address, reachable with a permission through the partition's windows (R185 check 8). -/
def reachable (s : State) (p a n : Nat) (perm : Perm) : Bool := n = 0 || (windowFail s p a n perm).isNone

end Sys2Proof.Machine
end

