-- ==== Sys2Proof/Machine/RegOps.lean ====
section
/-!
DEFINITION. Writes of the global space: what refuses them and what records them (00_scope.md R8; 18_power_reset_startup.md R529; 20_register_map.md R547 to R551), and the removal of a window (06_control_interface.md R201; 04_voyages_and_ferry_engines.md R140).
-/
namespace Sys2Proof.Machine

/-- The state with the global registers changed. -/
def modGlb (s : State) (f : GlobalRegs → GlobalRegs) : State := { s with glb := f s.glb }

/-- `GLB_WRADDR` latches the offset of the first refused write (R550). -/
def latchAddr (s : State) (off : Nat) : State :=
  modGlb s fun g => if g.wraddrValid then g else { g with wraddr := BitVec.ofNat 24 off, wraddrValid := true }

/-- A write is refused with a bit of `GLB_WRERR`: 0 `WIDTH`, 1 `UNMAPPED`, 2 `LOGFULL` (R550, R556). -/
def refuseWrite (s : State) (off bit : Nat) : State :=
  latchAddr (modGlb s fun g => { g with wrerr := g.wrerr ||| (1#3 <<< bit) }) off

/-- Something refuses every configuration change now (R550). -/
def changesBarred (s : State) : Bool := s.pwr.hold || logFull s

/-- A configuration change is refused: for autonomous hold, for a full logbook, or for both (R529, R550). -/
def refuseChange (s : State) (off : Nat) : State :=
  let s := if logFull s then refuseWrite s off 2 else s
  if s.pwr.hold then latchAddr { s with pwr := { s.pwr with holdRefused := true } } off else s

/-- The REGISTER record of a configuration change (R497). -/
def registerRecord (off : Nat) (old new : Word) : LogDraft :=
  { part := 0, door := 0, kind := 0x04, object := off, body := leBytes 4 old.toNat ++ leBytes 4 new.toNat }

/-- A configuration change by a write at a BAR2 offset: refused, or recorded with the state it leads to (R550). -/
def configChange (s : State) (off : Nat) (old new : Word) (t : State) : State :=
  if changesBarred s then refuseChange s off else logNormal t (registerRecord off old new)

/-- The pages of a partition that were filled through window `k` become invalid, a pinned one when it is unpinned (R140). -/
def invalidatePages (s : State) (p k : Nat) : State :=
  let mark (x : CachePage) : CachePage := if x.part == p && x.window == k then { x with window := goneWindow } else x
  modSch s fun c => { c with pages := (c.pages.map mark).filter fun x => !(x.pins.isEmpty && x.window == goneWindow) }

/-- Window `k` of a partition is removed (R201). -/
def removeWindow (s : State) (p k : Nat) : State :=
  invalidatePages (modPart s p fun x => { x with wins := tDel x.wins k }) p k

/-- The windows of a partition on general bank `n`. -/
def windowsOn (s : State) (p n : Nat) : List Nat :=
  ((partOf s p).wins.filter fun x => x.2.space == 1 && x.2.bank.toNat == n).map Prod.fst

/-- The windows of a partition on a bank are removed (R223). -/
def removeBankWindows (s : State) (p n : Nat) : State := (windowsOn s p n).foldl (fun s k => removeWindow s p k) s

/-- Some window of some partition satisfies a test. -/
def anyWindow (s : State) (f : Window → Bool) : Bool := s.part.any fun x => x.2.wins.any fun y => f y.2

end Sys2Proof.Machine
end

