-- ==== Sys2Proof/Machine/Banks.lean ====
section
/-!
DEFINITION. General banks and the flat area: handovers, retention, `DCK_FLAT` and `GLB_LOCK` (00_scope.md R8; 07_partitions.md R223; 08_deck_memory.md R260, R263; 19_onchip_memories.md R535 to R538, R545, R546; 20_register_map.md R556).
-/
namespace Sys2Proof.Machine

/-! ## Handovers (R535, R536) -/

/-- The power domain of general bank `n` is on (R508). -/
def bankPowered (s : State) (n : Nat) : Bool := domainOn s (24 + n)

/-- `KIND` and `OWNER` name no owner (R535). -/
def ownerBad (kind : BitVec 2) (owner : BitVec 5) : Bool :=
  kind == 3 || (kind == 1 && decide (23 < owner.toNat)) || (kind == 2 && owner != 0)

/-- The general bank in which firmware stages an image for a port (R534): the first that the port's group owns and that has power. -/
def stagingBank (s : State) (n : Nat) : Option Nat :=
  (List.range 16).find? fun b =>
    let x := bankOf s b
    x.kind == 1 && x.owner.toNat == n / 4 && x.handover.isNone && bankPowered s b

/-- A port whose image is being staged in bank `b` loses its load: the command is to answer AGAIN, and the inactive bank is EMPTY (R537). -/
def loseLoad (b : Nat) (s : State) (n : Nat) : State :=
  if (portOf s n).loading.isSome && stagingBank s n == some b
  then modPort s n fun q => modInactive { q with loading := none } fun _ => {} else s

/-- A port group's bank is lost to the loads that stage their images in it. -/
def loseStaging (s : State) (b : Nat) : State :=
  if (bankOf s b).kind = 1 then (List.range 4).foldl (fun s i => loseLoad b s (4 * (bankOf s b).owner.toNat + i)) s else s

/-- A handover starts in its commit cycle (R536 step 1): one to the current owner with `KEEP` changes nothing. -/
def startHandover (s : State) (n : Nat) (h : Handover) : State :=
  let b := bankOf s n
  if h.keep && b.kind == h.kind && b.owner == h.owner then s
  else
    let s := if b.kind = 0 then removeBankWindows s b.owner.toNat n else loseStaging s n
    modBank s n fun b => { b with handover := some h, waiting := false }

/-- The bank's contents are written to zero with valid ECC (R536 step 3). -/
def scrubBank (s : State) (n : Nat) : State :=
  { modBank s n fun b => { b with bad := [], soft := [] } with bankMem := memClear s.bankMem (2 ^ 18 * n) (2 ^ 18) }

/-- The new owner takes effect (R536 step 4). -/
def endHandover (s : State) (n : Nat) (h : Handover) : State :=
  let s := if h.keep || !bankPowered s n then s else scrubBank s n
  let s := modBank s n fun b =>
    { b with kind := h.kind, owner := h.owner, handover := none, ret := false, leaving := false, waiting := false }
  match h.door with
  | some d => answerLate s d 0x00 []
  | none => s

/-- BANK_HANDOVER_DONE (R536): nothing where no handover is running. -/
def execBankHandoverDone (n : Fin 16) (s : State) : Host.Outcome State Fault Refusal :=
  .next <|
    match (if isRun s then (bankOf s n.val).handover else none) with
    | none => s
    | some h => conclude s (endHandover s n.val h)

/-! ## Registers of the banks (R545) -/

/-- `KIND` and `OWNER` as `GBK_n_OWN` shows them. -/
def ownFields (kind : BitVec 2) (owner : BitVec 5) : Word := BitVec.ofNat 32 (kind.toNat + owner.toNat * 2 ^ 8)

/-- `GBK_n_OWN`. -/
def ownWord (b : Bank) : Word := ownFields b.kind b.owner ||| (if b.handover.isSome then 0x80000000 else 0)

/-- The offset in BAR2 of a register of bank `n`. -/
def gbkOff (n k : Nat) : Nat := 0x60000 + 0x20 * n + k

/-- A write of `GBK_n_OWN` (R535): ignored under the lock and while the bank is off (R507), and with `OWN_REFUSED` where it starts no handover. -/
def writeOwn (s : State) (n : Nat) (w : Word) : State :=
  let kind := w.setWidth 2
  let owner := (w >>> 8).setWidth 5
  if s.glb.lock || !bankPowered s n then s
  else if (bankOf s n).handover.isSome || ownerBad kind owner then modBank s n fun b => { b with ownRefused := true }
  else
    configChange s (gbkOff n 0) (ownWord (bankOf s n)) (ownFields kind owner)
      (startHandover s n { kind := kind, owner := owner, keep := w.getLsbD 16, door := none })

/-- GBK_OWN_WRITE (R535). -/
def execGbkOwnWrite (n : Fin 16) (w : BitVec 32) (s : State) : Host.Outcome State Fault Refusal :=
  .next (whenRun s (conclude s (writeOwn s n.val w)))

/-! ## Retention (R537, R538) -/

/-- `GBK_n_CTL`. -/
def retWord (b : Bank) : Word := if b.ret then 1 else 0

/-- A write of `RET` 1: an on bank enters retention; none does while a handover runs or while it leaves retention, and the write is recorded all the same (R546). -/
def enterRetention (s : State) (n : Nat) : State :=
  let b := bankOf s n
  if !bankPowered s n then s
  else if b.handover.isSome || b.leaving then configChange s (gbkOff n 4) (retWord b) (retWord b) s
  else configChange s (gbkOff n 4) (retWord b) 1 (modBank s n fun b => { b with ret := true })

/-- A write of `RET` 0: a bank in retention leaves it. -/
def leaveRetention (s : State) (n : Nat) : State :=
  let b := bankOf s n
  configChange s (gbkOff n 4) (retWord b) 0 (if b.ret then modBank s n fun b => { b with ret := false, leaving := true } else s)

/-- RETENTION_ENTRY (R538). -/
def execRetentionEntry (n : Fin 16) (s : State) : Host.Outcome State Fault Refusal :=
  .next (whenRun s (settle s (enterRetention s n.val)))

/-- RETENTION_EXIT_DONE (R538): the bank is on; the row of the withheld request follows it. -/
def execRetentionExitDone (n : Fin 16) (s : State) : Host.Outcome State Fault Refusal :=
  .next <|
    if isRun s && (bankOf s n.val).leaving then modBank s n.val fun b => { b with leaving := false, waiting := false } else s

/-! ## The flat area (R260, R263) -/

/-- `DCK_FLAT`. -/
def flatWord (s : State) : Word :=
  BitVec.ofNat 32 (s.deck.flatPages + if s.deck.flatRefused then 2 ^ 16 else 0)

/-- Every deck quad is on: the flat area takes cells of each (R260, R507). -/
def quadsOn (s : State) : Bool := (List.range 8).all fun q => domainOn s (40 + q)

/-- A write of `n` to `FLAT_PAGES` is accepted (R260, R507). -/
def flatFree (s : State) (n : Nat) : Bool :=
  (s.deck.queues.all fun x => decide (8192 ≤ x.1)) && !(anyWindow s fun w => w.space == 2) && (n == 0 || quadsOn s)

/-- A write of `DCK_FLAT` (R260): one that leaves `FLAT_PAGES` unchanged, or finds it locked, acts only on `FLAT_REFUSED`. -/
def writeFlat (s : State) (w : Word) : State :=
  let n := min 4096 (fieldOf w 0 13)
  let cleared := if w.getLsbD 16 then modDeck s fun d => { d with flatRefused := false } else s
  if n = s.deck.flatPages || s.glb.lock then cleared
  else if flatFree s n then
    configChange s 0x4004 (flatWord s) (BitVec.ofNat 32 (n + if cleared.deck.flatRefused then 2 ^ 16 else 0))
      (modDeck cleared fun d => { d with flatPages := n })
  else modDeck s fun d => { d with flatRefused := true }

/-- DCK_FLAT_WRITE (R260). -/
def execDckFlatWrite (w : BitVec 32) (s : State) : Host.Outcome State Fault Refusal :=
  .next (whenRun s (settle s (writeFlat s w)))

/-! ## The lock (R8, R556) -/

/-- `LOCK` is written 1. -/
def setLock (s : State) : State :=
  if s.glb.lock then s else configChange s 0x4 0 1 (modGlb s fun g => { g with lock := true })

/-- GLB_LOCK_SET (R556). -/
def execGlbLockSet (s : State) : Host.Outcome State Fault Refusal := .next (whenRun s (settle s (setLock s)))

end Sys2Proof.Machine
end

