-- ==== Sys2Proof/Machine/Barge.lean ====
section
/-!
DEFINITION. Barge transfers: the steward's load, bursts, the end of a transfer, and the gate window (09_barge_dma.md R264 to R284; 07_partitions.md R230).
-/
namespace Sys2Proof.Machine

/-! ## The steward's load (R265, R269, R270) -/

/-- The channel with a status bit of a steward load set. -/
def loadOutcome (s : State) (n : Nat) : LoadOut → State
  | .loaded s _ => s
  | .rejected s => modChan s n fun c => { c with descBad := true }
  | .full => modChan s n fun c => { c with loadRefused := true }
  | .window s _ | .lost s _ => modChan s n fun c => { c with descBad := true }
  | .budget => s

/-- BARGE_LOAD (R265): GO of `BRG_n_LOAD`. -/
def execBargeLoad (n : Fin 32) (s : State) : Host.Outcome State Fault Refusal :=
  .next <|
    let c := chanOf s n
    if isRun s && c.owner == some 0 then
      if c.shadow.isSome then modChan s n fun c => { c with loadRefused := true }
      else
        let a := (c.addrHi ++ c.addrLo : BitVec 64).toNat
        match asleepAt s 0 a with
        | some b => if (windowFail s 0 a 32 .read).isNone then wakeBank s b else conclude s (loadOutcome s n (loadDesc s 0 n a false none))
        | none => conclude s (loadOutcome s n (loadDesc s 0 n a false none))
    else s

/-! ## Operands (R267, R268, R278) -/

/-- Why a burst cannot be issued: an error of R278, or a bank in retention for which it waits. -/
inductive Stop where
  | error (code : BitVec 4)
  | asleep (b : Nat)

/-- What a transfer finds at its place in an operand: the piece, with the place that now stands in it, or a stop. -/
inductive Found where
  | piece (s : State) (c : Cursor) (x : Piece)
  | stop (s : State) (why : Stop)

/-- A failure of R72 as a code of R278. -/
def windowCode (e : Nat) : BitVec 4 := BitVec.ofNat 4 e

/-- The length of a list entry, where its fields are good (R278). -/
def entryLen (w : Nat → Word) : Option Nat :=
  let n := fieldOf (w 2) 0 25
  if n = 0 ∨ 16777216 < n ∨ fieldOf (w 2) 25 7 ≠ 0 ∨ w 3 ≠ 0 then none else some n

/-- The next entry of a list is read, once, and gives the next piece (R268). -/
def nextPiece (s : State) (p base count len : Nat) (c : Cursor) : Found :=
  let a := base + 16 * c.entry
  if count ≤ c.entry then .stop s (.error 5)
  else if base % 16 ≠ 0 then .stop s (.error 4)
  else
    match windowFail s p a 16 .read, asleepAt s p a with
    | some e, _ => .stop (countRefused s p) (.error (windowCode e))
    | none, some b => .stop s (.asleep b)
    | none, none =>
      let r := readFor s p a 16 .read
      let w := wordAt r.1.bytes
      match r.1.loss, entryLen w with
      | some _, _ => .stop r.1.state (.error 7)
      | none, none => .stop r.1.state (.error 4)
      | none, some n =>
        if len < c.pos + n then .stop r.1.state (.error 5)
        else
          let x : Piece := ⟨c.pos, (w 1 ++ w 0 : BitVec 64).toNat, n⟩
          .piece r.1.state { c with entry := c.entry + 1, used := c.used ++ [x] } x

/-- The piece of an operand at a place in it. -/
def pieceAt (s : State) (p : Nat) (isList : Bool) (addr count len : Nat) (c : Cursor) : Found :=
  match c.used.getLast? with
  | some x => if c.pos < x.start + x.len then .piece s c x else nextPiece s p addr count len c
  | none =>
    if isList then nextPiece s p addr count len c else .piece s { c with used := [⟨0, addr, len⟩] } ⟨0, addr, len⟩

/-- The source, or first operand. -/
def sourceAt (s : State) (p : Nat) (d : Descriptor) (c : Cursor) : Found := pieceAt s p d.slist d.src d.scount d.length c

/-- The destination, or second operand. -/
def destAt (s : State) (p : Nat) (d : Descriptor) (c : Cursor) : Found := pieceAt s p d.dlist d.dst d.dcount d.length c

/-- The address at an offset of the transfer. -/
def Piece.at (x : Piece) (pos : Nat) : Nat := x.addr + (pos - x.start)

/-- Bytes from an offset to the end of a piece. -/
def Piece.left (x : Piece) (pos : Nat) : Nat := x.start + x.len - pos

/-- The size of the aligned block that a burst covers in a space (R275). -/
def blockOf (w : Window) : Nat := if w.space = 0 then 512 else 64

/-- Bytes from an address to the end of its block. -/
def blockLeft (w : Window) (a : Nat) : Nat := blockOf w - placeOf w a % blockOf w

/-- The bytes of a burst at an offset of a piece. -/
def burstOf (w : Window) (x : Piece) (pos : Nat) : Nat := min (x.left pos) (blockLeft w (x.at pos))

/-- The beats of a burst, in bytes (R276). -/
def roundedLen (w : Window) (a n : Nat) : Nat :=
  let lo := placeOf w a / 16 * 16
  (placeOf w a + n + 15) / 16 * 16 - lo

/-- The burst falls in a BAR of the device's own functions (R278). -/
def inOwnBar (s : State) (w : Window) (a n : Nat) : Bool :=
  w.space == 0 && s.hostBars.any fun r => decide (placeOf w a < r.1 + r.2) && decide (r.1 < placeOf w a + n)

/-- How a burst's range fares. -/
inductive Ranged where
  | ok (w : Window)
  | stop (s : State) (why : Stop)

/-- The checks of the burst at offset `pos` of a piece, made when it is issued (R222, R275, R278). -/
def checkBurst (s : State) (p : Nat) (x : Piece) (pos : Nat) (perm : Perm) : Ranged :=
  match windowFail s p (x.at pos) (x.left pos) perm, windowAt s p (x.at pos), asleepAt s p (x.at pos) with
  | some e, _, _ => .stop (countRefused s p) (.error (windowCode e))
  | none, some w, none => if inOwnBar s w (x.at pos) (burstOf w x pos) then .stop s (.error 6) else .ok w
  | none, _, some b => .stop s (.asleep b)
  | none, none, none => .stop (countRefused s p) (.error 1)

/-! ## Reading (R272, R276, R278) -/

/-- `n` bytes read for a burst in whole beats; what lies outside the operand is discarded, and a loss anywhere in the beats makes the data uncorrectable (R276, R278; log 107). -/
def fetchBeats (s : State) (w : Window) (a n : Nat) : Fetch :=
  let pad := placeOf w a % 16
  let f := fetchBytes s w (a - pad) (roundedLen w a n)
  ⟨f.state, (f.bytes.drop pad).take n, f.loss⟩

/-- A source byte as it stood before the transfer wrote over it. -/
def original (kept : List (Nat × Byte)) (a : Nat) (b : Byte) : Byte := ((kept.find? fun x => x.1 == a).map Prod.snd).getD b

/-- What reading ahead in the source comes to: the transfer with the bytes read, and the bank in retention that it waits for, if there is one. -/
structure Ahead where
  state : State
  transfer : Transfer
  asleep : Option Nat

/-- The source cannot be read on: a failure is kept (R278), a bank in retention is waited for. -/
def stopReading (s : State) (t : Transfer) : Stop → Ahead
  | .error e => ⟨s, { t with failed := some e }, none⟩
  | .asleep b => ⟨s, t, some b⟩

/-- One source-side burst: the whole of its block, as far as the piece has it (R275). -/
def sourceBurst (s : State) (p : Nat) (t : Transfer) : Ahead :=
  match sourceAt s p t.desc t.src with
  | .stop s why => stopReading s t why
  | .piece s c x =>
    let t := { t with src := c }
    match checkBurst s p x c.pos .read with
    | .stop s why => stopReading s t why
    | .ok w =>
      let a := x.at c.pos
      let f := fetchBeats s w a (burstOf w x c.pos)
      let l := f.bytes.zipIdx.map fun y => original t.kept (a + y.2) y.1
      ⟨f.state, { t with src := { c with pos := c.pos + l.length }, ahead := t.ahead ++ l, failed := f.loss.map fun _ => 7 }, none⟩

/-- Source-side bursts until `n` bytes stand ready, or the source cannot be read on. -/
def readAhead (p n : Nat) : Nat → Ahead → Ahead
  | 0, r => r
  | k + 1, r =>
    if r.asleep.isSome || r.transfer.failed.isSome || n ≤ r.transfer.ahead.length then r
    else readAhead p n k (sourceBurst r.state p r.transfer)

/-! ## Overlap (R272) -/

/-- The pieces of a list that are still to be used, as memory holds them now. -/
def comingPieces (s : State) (p base count : Nat) : Nat → Nat → Nat → List Piece
  | 0, _, _ => []
  | k + 1, i, start =>
    if count ≤ i then []
    else
      let w := wordAt (readFor s p (base + 16 * i) 16 .read).1.bytes
      match entryLen w with
      | some n => ⟨start, (w 1 ++ w 0 : BitVec 64).toNat, n⟩ :: comingPieces s p base count k (i + 1) (start + n)
      | none => []

/-- Every piece of an operand: those used, and those still to come. -/
def piecesOf (s : State) (p : Nat) (isList : Bool) (addr count len : Nat) (c : Cursor) : List Piece :=
  if isList then c.used ++ comingPieces s p addr count 4096 c.entry (((c.used.getLast?).map fun x => x.start + x.len).getD 0)
  else [⟨0, addr, len⟩]

/-- An address lies in one of the pieces. -/
def inPieces (l : List Piece) (a : Nat) : Bool := l.any fun x => decide (x.addr ≤ a) && decide (a < x.addr + x.len)

/-- Two pieces share addresses. -/
def meets (x y : Piece) : Bool := decide (x.addr < y.addr + y.len) && decide (y.addr < x.addr + x.len)

/-- The offsets that two pieces share, where the destination address is above that of its source byte. -/
def risesIn (x y : Piece) : Bool :=
  decide (max x.start y.start < min (x.start + x.len) (y.start + y.len)) && decide ((x.addr : Int) - x.start < (y.addr : Int) - y.start)

/-- The ranges of a copy overlap in a way that leaves the overlapping destination bytes undefined. -/
def clashes (src dst : List Piece) : Bool :=
  (src.any fun x => dst.any fun y => meets x y) && (src.any fun x => dst.any fun y => risesIn x y)

/-! ## A burst (R272 to R278, R281, R282) -/

/-- The channel's allowance for a gate window (R282). -/
def allowance (c : Channel) : Nat := (if c.rate = 0 then 256 else c.rate.toNat) * 64

/-- The transfer has ended; its end is carried out by BARGE_TRANSFER_END. -/
def endTransfer (s : State) (n : Nat) (e : BargeEnd) : State := modChan s n fun c => { c with ended := some e }

/-- The channel's active set as a burst has left it. -/
def keepTransfer (s : State) (n : Nat) (t : Transfer) : State := modChan s n fun c => { c with active := some t }

/-- A burst cannot be issued: the transfer ends with the error, or waits for the bank. -/
def stopAt (s : State) (n : Nat) (t : Transfer) : Stop → State
  | .error e => endTransfer (keepTransfer s n t) n (.error e)
  | .asleep b => wakeBank (keepTransfer s n t) b

/-- A target-side burst of `m` bytes has been issued, its bytes after rounding counted (R282): `moved` of them count as moved (R284). -/
def afterBurst (s : State) (n : Nat) (t : Transfer) (m rounded moved : Nat) : State :=
  modChan s n fun c =>
    { c with count := c.count + rounded, cnt := bumpBy c.cnt 1 moved,
             active := some { t with dst := { t.dst with pos := t.dst.pos + m }, ahead := t.ahead.drop m } }

/-- The lists of a transfer that stands at its end must end there too (R268, R278). -/
def listsEnd (t : Transfer) : Bool :=
  (!t.desc.slist || t.src.entry == t.desc.scount) && (!t.desc.dlist || t.dst.entry == t.desc.dcount)

/-- The transfer ends if all of it has been issued (R277). -/
def finishIfDone (s : State) (n : Nat) : State :=
  match (chanOf s n).active with
  | some t => if t.desc.length ≤ t.dst.pos then endTransfer s n (if listsEnd t then .clean else .error 5) else s
  | none => s

/-- Bytes of a fill: the byte at address `a` is byte a mod 4 of `FILL` (R273). -/
def fillBytes (fill a n : Nat) : List Byte :=
  (List.range n).map fun i => BitVec.ofNat 8 (fill / 2 ^ (8 * ((a + i) % 4)))

/-- The offsets of a burst of `m` bytes at `a` whose destination is also a source (R272). -/
def sharedWith (src : List Piece) (a m : Nat) : List Nat := (List.range m).filter fun i => inPieces src (a + i)

/-- The bytes that a copy writes, with those its overlap leaves undefined free. -/
def copyBytes (s : State) (p : Nat) (t : Transfer) (a m : Nat) : State × List Byte :=
  let d := t.desc
  let src := piecesOf s p d.slist d.src d.scount d.length t.src
  let l := t.ahead.take m
  if clashes src (piecesOf s p d.dlist d.dst d.dcount d.length t.dst) then
    let free := freeBytes s m
    (drawnBy s m, l.zipIdx.map fun x => if (sharedWith src a m).contains x.2 then free.getD x.2 0 else x.1)
  else (s, l)

/-- The transfer with the original of every source byte that a burst of a copy is about to write over. -/
def keepOriginals (s : State) (p : Nat) (t : Transfer) (w : Window) (a m : Nat) : Transfer :=
  let d := t.desc
  let src := piecesOf s p d.slist d.src d.scount d.length t.src
  let l := (sharedWith src a m).filter fun i => !(t.kept.any fun x => x.1 == a + i)
  { t with kept := t.kept ++ l.map fun i => (a + i, byteAt s w (a + i)) }

/-- One target-side burst of a fill or copy. -/
def writeBurst (s : State) (n p : Nat) (t : Transfer) (w : Window) (a m : Nat) : State :=
  let r := if t.desc.mode = 1 then (s, fillBytes t.desc.src a m) else copyBytes s p t a m
  let t := if t.desc.mode = 1 then t else keepOriginals s p t w a m
  finishIfDone (afterBurst (storeBytes r.1 w a r.2) n t m (roundedLen w a m) m) n

/-- The first offset at which two byte strings differ, as far as both go. -/
def firstDiff (l r : List Byte) : Option Nat :=
  (List.range (min l.length r.length)).find? fun i => l.getD i 0 != r.getD i 0

/-- One burst of a compare (R274): the lowest difference ends it, whatever failed beyond; else the first failure does. -/
def compareBurst (s : State) (n : Nat) (t : Transfer) (w : Window) (a m : Nat) : State :=
  let f := fetchBeats s w a m
  let s := afterBurst f.state n t m (roundedLen w a m) 0
  match firstDiff (t.ahead.take m) f.bytes, (if t.ahead.length < m then t.failed else none), f.loss with
  | some i, _, _ => endTransfer s n (.mismatch (BitVec.ofNat 32 (t.dst.pos + i)))
  | none, some e, _ => endTransfer s n (.error e)
  | none, none, some _ => endTransfer s n (.error 7)
  | none, none, none => finishIfDone s n

/-- What the source stands at ends the transfer: a copy at any failure, a compare where no byte is left to compare (R274, R278). -/
def sourceEnds (t : Transfer) : Option (BitVec 4) := if t.desc.mode = 0 || t.ahead.isEmpty then t.failed else none

/-- The source is read until `n` bytes stand ready, for a transfer that reads one; `k` goes on where it can. -/
def withSource (s : State) (n p : Nat) (t : Transfer) (m : Nat) (k : State → Transfer → State) : State :=
  if t.desc.mode = 1 then k s t
  else
    let r := readAhead p m (m + 1) ⟨s, t, none⟩
    match sourceEnds r.transfer, r.asleep with
    | some e, _ => stopAt r.state n r.transfer (.error e)
    | none, some b => stopAt r.state n r.transfer (.asleep b)
    | none, none => k r.state r.transfer

/-- The target-side burst of `m` bytes in piece `y`. -/
def targetBurst (s : State) (n p : Nat) (t : Transfer) (y : Piece) (m : Nat) : State :=
  match checkBurst s p y t.dst.pos (if t.desc.mode = 2 then .read else .write) with
  | .stop s why => stopAt s n t (match t.failed with | some e => .error e | none => why)
  | .ok w =>
    let a := y.at t.dst.pos
    if t.desc.mode = 2 then compareBurst s n t w a m else writeBurst s n p t w a m

/-- The next target-side burst of a transfer: the source is read first, then the destination's list entry, then what the burst still needs of the source (R275; log 107). -/
def issueBurst (s : State) (n p : Nat) (t : Transfer) : State :=
  withSource s n p t 1 fun s t =>
    match destAt s p t.desc t.dst with
    | .stop s why => stopAt s n t why
    | .piece s c y =>
      let m := match windowAt s p (y.at c.pos) with
        | some w => burstOf w y c.pos
        | none => 1
      withSource s n p { t with dst := c } m fun s t => targetBurst s n p t y m

/-- The issue gates of the barge are open (R283, R447, R527). -/
def bargeGate (s : State) : Bool := isRun s && !s.pwr.quiesce && !s.pwr.thermal

/-- BARGE_BURST (R275): the channel's next target-side burst, with the source-side bursts that feed it. -/
def execBargeBurst (n : Fin 32) (s : State) : Host.Outcome State Fault Refusal :=
  .next <|
    let c := chanOf s n
    match (if bargeGate s && c.ended.isNone then c.active else none), c.owner with
    | some t, some p =>
      if allowance c ≤ c.count then modChan s n fun c => { c with withheld := true }
      else conclude s (issueBurst s n p t)
    | _, _ => s

/-! ## The end of a transfer (R271, R274, R278) -/

/-- The channel once its transfer is over: latch, error and counters, then the takeover or the discarding of the shadow set. -/
def closeChannel (c : Channel) (e : BargeEnd) : Channel :=
  match e with
  | .clean => takeOver { c with active := none, ended := none, err := 0, cnt := bump c.cnt 0 }
  | .mismatch k =>
    let t := bump c.cnt 2
    { c with active := none, ended := none, latch := some k, shadow := none, cnt := if c.shadow.isSome then bump t 4 else t }
  | .error k =>
    let t := bump c.cnt 3
    { c with active := none, ended := none, latch := some 0xFFFFFFFF, err := k, shadow := none,
             cnt := if c.shadow.isSome then bump t 4 else t }

/-- The end was not clean. -/
def BargeEnd.failed : BargeEnd → Bool
  | .clean => false
  | _ => true

/-- A transfer's end is carried out: the latch, the pulses, the takeover, and the entry that waits for the shadow set. -/
def carryEnd (s : State) (n : Nat) (e : BargeEnd) : State :=
  let c := closeChannel (chanOf s n) e
  let s := modChan s n fun x => { x with latch := if e.failed then c.latch else x.latch }
  let s := if e.failed then pulse s (416 + n) none else s
  let s := modChan (pulse s (384 + n) none) n fun x => closeChannel x e
  wakeLoader s n

/-- BARGE_TRANSFER_END (R271). -/
def execBargeTransferEnd (n : Fin 32) (s : State) : Host.Outcome State Fault Refusal :=
  .next <|
    match (if isRun s then (chanOf s n).ended else none) with
    | some e => conclude s (carryEnd s n e)
    | none => s

/-! ## The gate window (R230, R282) -/

/-- A channel at the start of a gate window. -/
def nextWindow (c : Channel) : Channel :=
  { c with count := c.count - allowance c, withheld := false, cnt := if c.withheld then bump c.cnt 5 else c.cnt }

/-- A partition at the start of a gate window: counts of 0, and the shares that QUOTA_SET has given (R229, R230). -/
def freshGates (x : Partition) : Partition := { x with gates := [], hostNow := x.hostShare, bargeNow := x.bargeShare }

/-- SHARE_GATE_WINDOW (R230). -/
def execShareGateWindow (s : State) : Host.Outcome State Fault Refusal :=
  .next <|
    if isRun s then
      { s with brg := s.brg.map (fun x => (x.1, nextWindow x.2)), part := s.part.map fun x => (x.1, freshGates x.2) }
    else s

end Sys2Proof.Machine
end

