-- ==== Sys2Proof/Machine/DeckEvents.lean ====
section
/-!
DEFINITION. What happens in the deck on its own: the end of a producer's stall and the patrol scrubber (08_deck_memory.md R240, R250, R252, R258, R259).
-/
namespace Sys2Proof.Machine

/-! ## The end of a stall (R250, R252) -/

/-- A producer that is served by this command: not a role image, whose QPUT completes by its own. -/
def stallServed : Agent → Bool
  | .port _ => false
  | _ => true

/-- The stalled producer has taken its cell. -/
def stallOver (x : Stall) : Bool := stallServed x.agent && x.granted

/-- The producer goes on: a voyage returns to Ready, the ring unit and a receive path continue. -/
def goOnProducing (s : State) : Agent → State
  | .voyage v => wakeVoy s v .woken
  | .ring p m => goOn (runRing s p m)
  | .rx n part => resumeRx s n part
  | .port _ => s

/-- PRODUCER_STALL_END (R250): the first stalled producer that has its cell goes on. -/
def execProducerStallEnd (s : State) : Host.Outcome State Fault Refusal :=
  .next <|
    if isRun s then
      let t := serveStalls s
      match t.deck.stalls.find? stallOver with
      | some x => conclude s (goOnProducing (unstall t x.agent) x.agent)
      | none => t
    else s

/-! ## The patrol scrubber (R240, R258, R259) -/

/-- The packet under production that holds a cell, with its queue. -/
def buildingWith (s : State) (c : Nat) : Option (Nat × Building) :=
  s.deck.queues.findSome? fun x => (x.2.building.find? fun b => b.pkt.cells.contains c).map fun b => (x.1, b)

/-- The queue that holds a cell. -/
def queueWith (s : State) (c : Nat) : Option Nat :=
  (s.deck.queues.find? fun x => (queueHeld x.2).any (·.cells.contains c)).map Prod.fst
where
  queueHeld (q : Queue) : List Packet := q.packets ++ q.freed.map Prod.snd ++ q.building.map Building.pkt

/-- The hardware rewinds a packet under production; its producer learns of it at its next access (R248, R259). -/
def hardwareRewind (s : State) (qn : Nat) (b : Building) : State :=
  let s := freeCellsOf (unstall s b.agent) b.pkt.cells
  modQueue s qn fun q =>
    { setBuilding q { b with pkt := ⟨[], 0⟩, rewound := true } with cnt := bump q.cnt 3 }

/-- The producer that was stalled over the rewound packet goes on. -/
def tellProducer (s : State) (stalled : Bool) : Agent → State
  | .rx n part => abandonRx s n part
  | .voyage v => if stalled then wakeVoy s v .woken else s
  | .ring p m => if stalled then goOn (runRing s p m) else s
  | .port _ => s

/-- An uncorrectable error in a cell has been detected (R258, R259). -/
def loseCell (s : State) (c : Nat) : State :=
  match buildingWith s c with
  | some (qn, b) =>
    let stalled := s.deck.stalls.any fun x => x.agent == b.agent
    tellProducer (hardwareRewind (quarantineCell s c (some qn)) qn b) stalled b.agent
  | none => quarantineCell s c (queueWith s c)

/-- The scrubber reads a cell. -/
def scrubCell (s : State) (c : Nat) : State :=
  if !bankOn s (c % 32) then s
  else if s.deck.quar.contains c then s
  else if s.deck.bad.contains c then loseCell s c
  else if s.deck.soft.any (· / 8 == c) then correctCell s c
  else s

/-- PATROL_SCRUB (R258): the next cell in rotation. -/
def execPatrolScrub (s : State) : Host.Outcome State Fault Refusal :=
  .next <|
    if isRun s then
      let c := s.deck.scrubAt
      conclude s (scrubCell (modDeck s fun d => { d with scrubAt := (c + 1) % 262144 }) c)
    else s

end Sys2Proof.Machine
end

