-- ==== Sys2Proof/Machine/PortEvents.lean ====
section
/-!
DEFINITION. What happens in a port's hardware on its own: timers, edges, shift units, the bus controller, and the end of a scratchpad's scrub (12_port_hardware.md R367 to R380, 13_bus_roles.md R392 to R400).
-/
namespace Sys2Proof.Machine

/-- Port `p`'s hardware is clocked (R363, R508, R510). -/
def portLive (s : State) (p : Nat) : Bool := isRun s && domainOn s (p / 4)

/-- A match makes the channel's event pending, but for PERIODIC with `EVWRAP` (R368). -/
def matchEvent (t : Timer) : Bool := timerMode t != 1 || !t.ctl.getLsbD 6

/-- TIMER_MATCH (R368): the event of a match. -/
def execTimerMatch (p : Fin 96) (c : Fin 4) (s : State) : Host.Outcome State Fault Refusal :=
  .next <|
    let t := timerOf (portOf s p) c
    if portLive s p && 0 < t.hits then
      let s := modTimer s p c fun t => { t with hits := t.hits - 1 }
      if matchEvent t then pendEvent s p c else s
    else s

/-- TIMER_WRAP (R368): the event of a wrap. -/
def execTimerWrap (p : Fin 96) (c : Fin 4) (s : State) : Host.Outcome State Fault Refusal :=
  .next <|
    let t := timerOf (portOf s p) c
    if portLive s p && 0 < t.wraps then
      let s := modTimer s p c fun t => { t with wraps := t.wraps - 1 }
      if t.ctl.getLsbD 6 then pendEvent s p c else s
    else s

/-- The port with pin `k`'s level at the ball set. -/
def setBall (q : Port) (k : Nat) (level : Bool) : Port :=
  { q with pins := tUpd q.pins k {} fun x => { x with ball := level } }

/-- EDGE_CAPTURE (R369): the filtered level at the ball of pin `k` has become `level`. -/
def execEdgeCapture (p : Fin 96) (k : Fin 6) (level : Bool) (s : State) : Host.Outcome State Fault Refusal :=
  .next <|
    if portLive s p then changeInput s p k (setBall · k level) else s

/-- TIMER_CAPTURE (R368): `AUX` takes the count of a selected edge of the channel's capture pin. -/
def execTimerCapture (p : Fin 96) (c : Fin 4) (s : State) : Host.Outcome State Fault Refusal :=
  .next <|
    match (if portLive s p then (timerOf (portOf s p) c).caught else none) with
    | some n => pendEvent (modTimer s p c fun t => { t with aux := n, caught := none }) p c
    | none => s

/-- A word that shifts out has left with this row (R380). -/
def wordSent (x : Shift) (line : ShiftLine) : Bool :=
  x.sr.isSome && hasClock x &&
    match shiftDir x with
    | 1 => true
    | 3 => if shiftCoupled x then x.done.isNone else line.sent
    | _ => false

/-- A word has been received with this row (R380): beside the one that shifts out where the transmitter's clock runs the receiver, by itself otherwise; receive alone runs only with an external clock or a coding that carries the clock. -/
def wordReceived (x : Shift) (line : ShiftLine) : Bool :=
  hasClock x &&
  match shiftDir x with
  | 2 => !shiftCoupled x && line.received.isSome
  | 3 => if shiftCoupled x then x.sr.isSome && x.done.isNone else line.received.isSome
  | _ => false

/-- The unit stalls where a received word finds no room: `DIR` 3 on the internal clock (R380). -/
def stallsFull (x : Shift) : Bool := shiftDir x == 3 && shiftCoupled x

/-- A received word goes to the RX FIFO, stalls the unit, or is lost (R379, R380). -/
def shiftReceive (x : Shift) (w : Word) : Shift :=
  if x.rx.length < 8 then { x with rx := x.rx ++ [w] }
  else if stallsFull x then { x with done := some w, stall := true }
  else { x with rxovr := true }

/-- The word that was shifting has left; the frame closes, the next word starts, or the unit stalls (R380). -/
def shiftSent (x : Shift) : Shift :=
  match x.sr with
  | none => x
  | some (w, last) =>
    shiftStarve (shiftFeed { x with sr := none, lastBit := (shiftBits x w).getLastD false, isOpen := x.isOpen && !last })

/-- The unit after a row: what it received, bits not stated being those of `free`, and what it sends next. -/
def shiftWord (x : Shift) (line : ShiftLine) (stops : List (List Bool)) (free : Word) : Shift :=
  let l := line.received.getD []
  let y :=
    if wordReceived x line then
      shiftReceive { x with ferr := x.ferr || framingBad x l stops } (lineWord x free (receivedBits x l))
    else x
  if wordSent x line then shiftSent y else y

/-- Some bit of the word received is not stated. -/
def bitsOpen (x : Shift) (line : ShiftLine) : Bool :=
  wordReceived x line && (receivedBits x (line.received.getD [])).any (·.isNone)

/-- The received word is lost to a full RX FIFO (R379). -/
def wordLost (x : Shift) (line : ShiftLine) : Bool := wordReceived x line && decide (8 ≤ x.rx.length) && !stallsFull x

/-- What a unit has seen, as its data input shows it (R362, R379). -/
def seenLine (q : Port) (x : Shift) (line : ShiftLine) : ShiftLine :=
  { line with received := line.received.map fun l => l.map (inputSamples q x) }

/-- SHIFT_WORD_COMPLETE (R379, R380): the units of a failed port stand still (R373). -/
def execShiftWordComplete (p : Fin 96) (u : Fin 2) (line : ShiftLine) (stops : List (List Bool)) (s : State) :
    Host.Outcome State Fault Refusal :=
  .next <|
    let x := shiftOf (portOf s p) u
    let line := seenLine (portOf s p) x line
    let stops := stops.map (inputSamples (portOf s p) x)
    if portLive s p && (portOf s p).eng.state != .failed && (wordSent x line || wordReceived x line) then
      let t := if bitsOpen x line then drawn s else s
      let t := changeShift t p u fun x => shiftWord x line stops (freeOf s)
      if wordLost x line then bumpPort t p 3 else t
    else s

/-- The error state that the counters give (ISO 11898-1, R394). -/
def errStateOf (b : BusCtl) : BitVec 2 :=
  if 256 ≤ b.tec.toNat then 2 else if 128 ≤ b.tec.toNat || 128 ≤ b.recv.toNat then 1 else 0

/-- The error state follows the counters; entries are counted (R404). -/
def followErrors (s : State) (p : Nat) : State :=
  let b := (portOf s p).bc
  let e := errStateOf b
  if busMode b = 4 ∨ b.errState = e ∨ 2 ≤ b.errState.toNat then s
  else
    let s := if e = 2 then bumpPort s p 15 else if e = 1 then bumpPort s p 16 else s
    setErrState s p e

/-- The record of a received frame (R390): reserved fields 0, `LEN`, the device time of the first edge under R370, the port and its commission number, `RXSTAT` 0. -/
def busRecord (s : State) (p : Nat) (f : BusFrame) : List Byte :=
  let w (k : Nat) : Word := f.head.getD k 0
  let time := captureTime s (tGet (portOf s p).pins 1 {}).cfg - f.age.setWidth 64
  leBytes 4 (w 0 &&& 0x7FFFFFFF).toNat ++ leBytes 4 ((w 1 &&& 0xFF3F).toNat + f.data.length % 2 ^ 12 * 2 ^ 16) ++ leBytes 4 (w 2 &&& 0xFF).toNat
    ++ leBytes 4 (w 3).toNat ++ leBytes 8 time.toNat ++ leBytes 4 (p + (portOf s p).number.toNat * 2 ^ 16) ++ List.replicate 36 0 ++ f.data

/-- REC after a received frame (ISO 11898-1, R394): 10BASE-T1S has no error counters, and restricted operation leaves them (log 32). -/
def receiveCount (f : BusFrame) (good : Bool) (b : BusCtl) : BusCtl :=
  if busMode b = 4 ∨ b.cfg.getLsbD 3 then b
  else if good then { b with recv := if 128 ≤ b.recv.toNat then 127 else if b.recv = 0 then 0 else b.recv - 1 }
  else { b with recv := BitVec.ofNat 8 (min 255 (b.recv.toNat + 1 + 8 * f.eights)) }

/-- A frame of the bus in the mode of this controller: one that passed its checks and is of a format that the mode receives. -/
def busGood (b : BusCtl) (f : BusFrame) : Bool := f.good && modeCarries (busMode b) (fieldOf (f.head.getD 1 0) 0 3)

/-- A frame of another format is no error under `PROTEXC`, the protocol exception handling of ISO 11898-1. -/
def frameIgnored (b : BusCtl) (f : BusFrame) : Bool :=
  f.good && !modeCarries (busMode b) (fieldOf (f.head.getD 1 0) 0 3) && b.cfg.getLsbD 7

/-- A frame has ended on the bus (R253, R390, R392 to R394, R400, R404): a record enters the receive buffer, is dropped whole, or a receive error is counted. -/
def busReceive (s : State) (p : Nat) (f : BusFrame) : State :=
  let b := (portOf s p).bc
  let t := modBus s p fun b => { b with busy := false, xlData := false }
  if frameIgnored b f then t
  else
    let r := busRecord s p f
    let t := followErrors (modBus t p (receiveCount f (busGood b f))) p
    if !busGood b f then bumpPort t p 11
    else if rxBytes b + r.length ≤ 4096 then busEvent (modBus t p fun b => { b with rx := b.rx ++ [r] }) p 0
    else busEvent (bumpPort t p 10) p 4

/-- The controller of port `p` takes part in its bus. -/
def busLive (s : State) (p : Nat) : Bool :=
  portLive s p && busOn (portOf s p) && decide ((portOf s p).bc.errState.toNat < 2)

/-- BUS_FRAME_RECEIVED (R253, R392, R393). -/
def execBusFrameReceived (p : Fin 96) (frame : BusFrame) (s : State) : Host.Outcome State Fault Refusal :=
  .next (if busLive s p then settle s (busReceive s p frame) else s)

/-- The transmit buffer without the frame on the wire. -/
def offWire (b : BusCtl) : BusCtl := { b with tx := b.tx.filter fun f => !f.onWire }

/-- The frame on the wire waits for an idle bus again (R398). -/
def retryWire (b : BusCtl) : BusCtl := { b with tx := b.tx.map fun f => { f with onWire := false } }

/-- A transmit error raises TEC by 8, and by 8 more for each further rise that ISO 11898-1 gives it (log 32). -/
def txError (eights : Nat) (b : BusCtl) : BusCtl :=
  if busMode b = 4 then b else { b with tec := BitVec.ofNat 9 (min 511 (b.tec.toNat + 8 + 8 * eights)) }

/-- A frame without acknowledgement leaves TEC alone where the sender is error passive (ISO 11898-1; log 32). -/
def txNoAck (b : BusCtl) : BusCtl := if b.errState = 1 then b else txError 0 b

/-- A frame that did not get through is given up under `ONESHOT`, with `TXFAIL`, or retried (R398). -/
def giveUp (s : State) (p : Nat) : State :=
  if (portOf s p).bc.cfg.getLsbD 6 then busEvent (modBus s p offWire) p 2 else modBus s p retryWire

/-- The frame on the wire has met an error, which changes TEC by `f` (R394, R398, R404). -/
def sendError (s : State) (p : Nat) (f : BusCtl → BusCtl) : State := giveUp (followErrors (modBus (bumpPort s p 12) p f) p) p

/-- How the frame on the wire has come out (R398, R404). -/
def endSending (s : State) (p : Nat) : SendResult → State
  | .sent =>
    let t := modBus s p fun b => { offWire b with tec := if b.tec = 0 then 0 else b.tec - 1 }
    followErrors (busEvent (bumpPort t p 9) p 1) p
  | .lostArbitration =>
    let t := modBus (bumpPort s p 14) p fun b => { b with busy := busMode b != 4 }
    giveUp (if (portOf s p).bc.cfg.getLsbD 6 then bumpPort t p 12 else t) p
  | .error n => sendError s p (txError n)
  | .unacknowledged => sendError s p txNoAck
  | .arbitrationStuff => sendError s p id
  | _ => s

/-- A transmit opportunity passes on: the coordinator sends a beacon after the last (R400). -/
def nextTurn (b : BusCtl) : BusCtl :=
  let n := b.turn + 1
  { b with burst := 0, turn := if fieldOf b.plca 8 8 = 0 ∧ fieldOf b.plca 16 8 ≤ n then 0 else n }

/-- BUS_FRAME_SENT (R393, R398, R400): what happens on the bus to the frames that this node sends. -/
def busSend (s : State) (p : Nat) (how : SendResult) : State :=
  let mine := (portOf s p).bc.tx.any (·.onWire)
  match how with
  | .began => modBus s p wireNext
  | .otherBegan => if mine then s else modBus s p fun b => { b with busy := true }
  | .dataPhase on => modBus s p fun b => { b with xlData := on && busMode b == 3 }
  | .idle => modBus s p fun b => { b with busy := false, xlData := false }
  | .beacon => modBus s p fun b => if usesPlca b then { b with turn := 0, burst := 0 } else b
  | .opportunity => modBus s p fun b => if usesPlca b then nextTurn b else b
  | how => if mine then endSending (modBus s p fun b => { b with xlData := false }) p how else s

/-- BUS_FRAME_SENT (R398). -/
def execBusFrameSent (p : Fin 96) (how : SendResult) (s : State) : Host.Outcome State Fault Refusal :=
  .next (if busLive s p then settle s (busSend s p how) else s)

/-- BUS_OFF_RECOVERY (R393): with `BOFF_AUTO`. -/
def execBusOffRecovery (p : Fin 96) (s : State) : Host.Outcome State Fault Refusal :=
  .next <|
    let b := (portOf s p).bc
    if portLive s p && busOn (portOf s p) && b.errState == 2 && b.cfg.getLsbD 5 then
      settle s (modBus (setErrState (modBus s p fun b => { b with tec := 0, recv := 0 }) p 0) p fun b => { b with busy := false })
    else s

/-- PLCA_STATUS_CHANGE (R400): beacons begin or cease to be seen or sent; a loss is counted (R404). -/
def execPlcaStatusChange (p : Fin 96) (active : Bool) (s : State) : Host.Outcome State Fault Refusal :=
  .next <|
    let b := (portOf s p).bc
    if portLive s p && busMode b == 4 && b.plca.getLsbD 0 && b.plcaActive != active then
      let s := busEvent (modBus s p fun b => { b with plcaActive := active, turn := 0, burst := 0 }) p 5
      if active then s else bumpPort s p 15
    else s

/-- SCRATCHPAD_SCRUB_DONE (R288). -/
def execScratchpadScrubDone (p : Fin 96) (s : State) : Host.Outcome State Fault Refusal :=
  .next <|
    if isRun s && (portOf s p).eng.scrub then
      modPort s p fun q => { q with spad := [], spadBad := [], spadSoft := [], eng := { q.eng with scrub := false } }
    else s

end Sys2Proof.Machine
end

