-- ==== Sys2Proof/Machine/DeviceTime.lean ====
section
/-!
DEFINITION. One CLK_TB cycle: device time with its rate correction, the port timers, and the hold-off timers (02_crossings_and_landings.md R26, R28; 12_port_hardware.md R367, R368; 16_events_and_interrupts.md R461).
-/
namespace Sys2Proof.Machine

/-- The rate correction in force: `LSY_RATE_ADJ` as a signed number of parts per billion (R28). -/
def rateOf (s : State) : Int := s.tb.rate.toInt

/-- 10 ns in the accumulator's unit: each edge adds 10 ns × `RATE_ADJ` / 10^9, so that the unit is 10^-8 ns. -/
def rateUnit : Int := 1000000000

/-- The advance of device time in ns and the accumulator after it, from the accumulator with this edge's part added (R28). -/
def advanceBy (acc : Int) : Nat × Int :=
  if rateUnit ≤ acc then (20, acc - rateUnit)
  else if acc ≤ -rateUnit then (0, acc + rateUnit)
  else (10, acc)

/-- Device time after an edge, kept to its 64 bits; it is 0 at the first edge (R26). -/
def tickTime (s : State) : State :=
  if s.tb.running then
    let a := advanceBy (s.tb.rateAcc + rateOf s)
    modTb s fun t => { t with time := (t.time + a.1) % 2 ^ 64, rateAcc := a.2, atLanding := false }
  else modTb s fun t => { t with running := true }

/-- Buffered values take effect at a wrap (R367, R368). -/
def takeBuffered (t : Timer) : Timer :=
  { t with cmp := t.nextCmp.getD t.cmp, aux := t.nextAux.getD t.aux, nextCmp := none, nextAux := none }

/-- What a match changes at once (R368): the output of a FREE channel toggles, and a ONESHOT channel stops. -/
def timerMatched (t : Timer) : Timer :=
  match timerMode t with
  | 0 => { t with toggle := !t.toggle }
  | 3 => { t with ctl := t.ctl &&& ~~~ 1 }
  | _ => t

/-- One advance of a counter (R368): a wrap takes the buffered values; a match or a wrap has its event to come. -/
def countOnce (t : Timer) : Timer :=
  let wrap := timerMode t == 1 && t.cnt == t.aux
  let n := if wrap then 0 else t.cnt + 1
  let t := if wrap then takeBuffered { t with wraps := t.wraps + 1 } else t
  let t := { t with cnt := n }
  if timerMode t != 2 && n == t.cmp then timerMatched { t with hits := t.hits + 1 } else t

/-- `n` advances, while the channel counts. -/
def countTimer : Nat → Timer → Timer
  | 0, t => t
  | n + 1, t => if t.ctl.getLsbD 0 then countTimer n (countOnce t) else t

/-- The clock edges of one CLK_TB cycle: one of CLK_TB or four of CLK_PORT (R13, R14). -/
def timerEdges (t : Timer) : Nat := if t.ctl.getLsbD 1 then 4 else 1

/-- A timer over one CLK_TB cycle. -/
def tickTimer (t : Timer) : Timer :=
  if t.ctl.getLsbD 0 then
    let n := t.pre.toNat + timerEdges t
    let d := fieldOf t.ctl 16 8 + 1
    countTimer (n / d) { t with pre := BitVec.ofNat 8 (n % d) }
  else t

/-- The timers of the ports that are clocked. -/
def tickPorts (s : State) : State :=
  let tick (x : Nat × Port) : Nat × Port :=
    if domainOn s (x.1 / 4) then (x.1, { x.2 with timers := x.2.timers.map fun y => (y.1, tickTimer y.2) }) else x
  { s with port := s.port.map tick }

/-- The hold-off timers (R461). -/
def tickHolds (s : State) : State :=
  modIcu s fun i => { i with group := i.group.map fun x => (x.1, { x.2 with left := x.2.left - 1, claimed := none }) }

/-- The slave port measures the peer delay once in each second of device time, device time having been `before` (R408; the interval is that of IEEE 802.1AS). -/
def tickPdelay (before : Nat) (s : State) : State :=
  let n := if s.tb.gptpPort then 1 else 0
  if s.tb.source == 2 && before / 1000000000 != s.tb.time / 1000000000 && bbLive s n then
    modBb (sendGptp s n (pdelayBytes s.ep.selfId.toNat n 0x2 0 (bbOf s n).pdelaySeq (List.replicate 20 0))) n fun b =>
      { b with pdelaySeq := b.pdelaySeq + 1 }
  else s

/-- DEVICE_TIME_ADVANCE (R26): one rising edge of CLK_TB. -/
def execDeviceTimeAdvance (s : State) : Host.Outcome State Fault Refusal :=
  .next (if isRun s then tickPdelay s.tb.time (tickHolds (tickPorts (tickTime s))) else s)

end Sys2Proof.Machine
end

