-- ==== Sys2Proof/Machine/Interrupts.lean ====
section
/-!
DEFINITION. The commands of the interrupt controller: claim, end of service, the acknowledgement at T33, unmasking a vector, and the expiry of a hold-off (16_events_and_interrupts.md).
-/
namespace Sys2Proof.Machine

/-- A register read is completed with these words. -/
def completeRead (s : State) (l : List Word) : State := { s with out := { s.out with readData := l } }

/-- The word of a register read is put where the reader finds it. -/
def answerRead (s : State) (w : Word) : State := completeRead s [w]

/-- The effect of a claim at target `t` (R458, R466). -/
def claimAt (s : State) (t : Nat) : State :=
  let choice := claimChoice s t
  let s := if claimsMeet s t then drawn s else s
  match choice with
  | none => answerRead s 0
  | some n =>
    let w := claimWord s n
    let g := (srcOf s n).group.toNat
    let s := modIcu s fun i => { i with pend := i.pend.filter (· != n), serv := insertNat i.serv n }
    answerRead (loadHold s g t) w

/-- ICU_CLAIM (R458). -/
def execIcuClaim (t : Fin 32) (s : State) : Host.Outcome State Fault Refusal :=
  .next (if isRun s then settle s (claimAt s t) else s)

/-- The effect of an EOI naming source `n` at target `t` (R459). -/
def eoiAt (s : State) (t n : Nat) : State :=
  if inService s n && servTarget s n == some t then
    modIcu s fun i => { i with serv := i.serv.filter (· != n) }
  else modTarget s t fun g => { g with eoiBad := true }

/-- ICU_EOI (R459). -/
def execIcuEoi (t : Fin 32) (w : BitVec 32) (s : State) : Host.Outcome State Fault Refusal :=
  .next (if isRun s then settle s (eoiAt s t (fieldOf w 0 10)) else s)

/-- ICU_T33_ACK (R465). -/
def execIcuT33Ack (w : BitVec 32) (s : State) : Host.Outcome State Fault Refusal :=
  .next (if isRun s then modIcu s fun i => { i with pend33 := i.pend33.filter (· != fieldOf w 0 10) } else s)

/-- Some source on vector `v` of function `t` is eligible. -/
def vectorElig (s : State) (t v : Nat) : Bool :=
  (pendCandidates s).any fun n => eligible s n t && (srcOf s n).vec.toNat == v

/-- The pending bit of a vector that is no longer masked (R463): one message if a source on it is still eligible. -/
def releaseVector (s : State) (t v : Nat) : State :=
  if (targetOf s t).pba.contains v then
    let s := modTarget s t fun g => { g with pba := g.pba.filter (· != v) }
    if vectorElig s t v then sendVector s t v else s
  else s

/-- MSIX_VECTOR_UNMASK (R463): the Mask bit of the vector is cleared. -/
def execMsixVectorUnmask (t : Fin 32) (v : Fin 64) (s : State) : Host.Outcome State Fault Refusal :=
  .next <|
    if isRun s then
      let s := modTarget s t fun g =>
        { g with msix := tUpd g.msix v {} fun e => { e with ctl := e.ctl &&& ~~~ 1 } }
      if (targetOf s t).functionMask then s else releaseVector s t v
    else s

/-- The hold-off of group `g` has run out (R461). -/
def endHold (s : State) (g : Nat) : State :=
  modIcu s fun i => { i with group := tUpd i.group g {} fun x => { x with running := false, left := 0, claimed := none } }

/-- HOLD_OFF_EXPIRY (R461). -/
def execHoldOffExpiry (g : Fin 64) (s : State) : Host.Outcome State Fault Refusal :=
  .next <|
    let x := tGet s.icu.group g.val {}
    if isRun s && x.running && x.left == 0 then settle s (endHold s g) else s

end Sys2Proof.Machine
end

