-- ==== Sys2Proof/Machine/Mailbox.lean ====
section
/-!
DEFINITION. The mailbox: `GO`, and the taking up of commands with the checks that come before a command's own (06_control_interface.md R179 to R193).
-/
namespace Sys2Proof.Machine

/-! ## GO (R180, R191) -/

/-- The request buffer as 64 words. -/
def requestWords (m : Mailbox) : List Word := (List.range 64).map fun k => tGet m.req k 0

/-- The request is locked and the mailbox is PENDING (R180). -/
def submit (s : State) (d : Nat) : State := modMbx s d fun m => { m with state := .pending, locked := requestWords m }

/-- The mailbox hardware answers a doorbell in autonomous hold (R191). -/
def submitInHold (s : State) (d : Nat) : State := answerBusy (submit s d) d

/-- A doorbell at a door's mailbox: accepted, or ignored (R180). -/
def doorbell (s : State) (d : Nat) (count : State → State) : State :=
  let m := mbxOf s d
  if m.state = .pending ∨ m.state = .busy then count (modMbx s d fun m => { m with dbIgnored := true })
  else if s.pwr.hold then submitInHold s d
  else if !s.fw.ready then count s
  else submit s d

/-- An ignored `GO` is counted (R237). -/
def countGo (p : Nat) (s : State) : State := bumpPart s p 2

/-- MBX_GO (R180): refused behind the fence of a partition reset (R232), and, counted, during entry to moored (R511). -/
def execMbxGo (p : Fin 32) (w : BitVec 32) (s : State) : Host.Outcome State Fault Refusal :=
  .next <|
    if !isRun s || !w.getLsbD 0 || fenced s p.val then s
    else if s.pwr.mooring.isSome then countGo p.val s
    else settle s (doorbell s p.val (countGo p.val))

/-- The first of the checks 0 to 3 of R185 that a request fails. -/
def generalFail (s : State) (d : Nat) : Option Nat :=
  let op := reqOp s d
  if (doorPart s d).isNone then some 0x06
  else if 62 < reqLen s d || decide (reqLen s d < wordsNeeded s d) then some 0x04
  else if op = 1 then none
  else
    match (mbxOf s d).version with
    | none => some 0x02
    | some v =>
      if fieldOf (reqWord s d 1) 0 16 ≠ v.toNat then some 0x01
      else
        match gciCommand op with
        | none => some 0x03
        | some c => if v.toNat < c.since then some 0x03 else none

/-! ## Taking up (R188, R189) -/

/-- The doors in the order of R189. -/
def doorOrder (s : State) : List Nat := [0, 32] ++ (List.range 31).map fun i => 1 + (s.fw.lastPart + i) % 31

/-- The door has a command that is eligible; a door whose earlier command firmware still carries out after a reset of its partition waits (log 104). -/
def doorEligible (s : State) (d : Nat) : Bool :=
  (mbxOf s d).state == .pending && (mbxOf s d).taken.isNone && decide (1000000 ≤ tokensOf s d)

/-- `HELD`: the pending command waits for the rate cap. -/
def doorHeld (s : State) (d : Nat) : Bool := (mbxOf s d).state == .pending && decide (tokensOf s d < 1000000)

/-- The partitions that are being reset. -/
def fenceMask (s : State) : BitVec 32 :=
  (List.range 32).foldl (fun m p => if fenced s p then m ||| (1#32 <<< p) else m) 0

/-- A token is spent, and the command is in firmware's hands (R188, R189). -/
def spendToken (s : State) (d : Nat) : State :=
  let s := modMbx (accrue s d) d fun m =>
    { m with tokens := m.tokens - 1000000, state := .busy, taken := some (m.locked, m.version) }
  { s with fw := { s.fw with current := some d, fences := fenceMask s, lastPart := if 1 ≤ d ∧ d ≤ 31 then d else s.fw.lastPart } }

/-- IDENTITY_SCAN and FW_UPDATE_COMMIT, during which firmware serves other doors (R190). -/
def runsLong (op : Nat) : Bool := op == 0x80 || op == 0xA2

/-- `PORT` of p0 (R195). -/
def payPort (s : State) (d : Nat) : Nat := payField s d 0 0 7

/-- The checks of ROLE_IMAGE_LOAD before AGAIN (R185, R195). -/
def loadChecks (s : State) (d p : Nat) : List (Bool × GciOut) :=
  [(portDenied s (payPort s d) p, .no 0x06), badWord s d 0 0x7F (decide (95 < payPort s d)), badWord s d 3 0x3FFFF false]

/-- A ROLE_IMAGE_LOAD that is taken up begins to write the inactive bank, unless it is refused: a swap is pending, or the scratchpad's scrub runs (R197, R288, R318, R319). -/
def beginLoad (s : State) (d : Nat) : State :=
  let n := payPort s d
  match doorPart s d with
  | none => s
  | some p =>
    if !requestClean s d || (loadChecks s d p).any (·.1) || (portOf s n).swap.isSome || (portOf s n).eng.scrub then s
    else setInactive (modPort s n fun q => { q with loading := some d }) n { st := .loading }

/-- The command of door `d` is taken up; one that fails a check before its own is answered at once. -/
def takeUp (s : State) (d : Nat) : State :=
  let s := spendToken s d
  match generalFail s d with
  | some c => respond s d c []
  | none =>
    if reqOp s d = 0x12 then beginLoad s d
    else if runsLong (reqOp s d) then { s with fw := { s.fw with current := none, long := s.fw.long ++ [d] } } else s

/-- COMMAND_TAKE_UP (R189): firmware, running and free, takes up the first eligible command. -/
def execCommandTakeUp (s : State) : Host.Outcome State Fault Refusal :=
  .next <|
    if isRun s && s.fw.running && s.fw.ready && s.fw.current.isNone then
      match (doorOrder s).find? (doorEligible s) with
      | some d => settle s (takeUp s d)
      | none => s
    else s

end Sys2Proof.Machine
end

