-- ==== Sys2Proof/Machine/PowerOps.lean ====
section
/-!
DEFINITION. Cold and warm reset, the boot chain with its early ports, moored retention and cast-off (17_security_and_logbook.md R475 to R479; 18_power_reset_startup.md R510 to R523).
-/
namespace Sys2Proof.Machine

/-- The state with power changed. -/
def modPwr (s : State) (f : Power → Power) : State := { s with pwr := f s.pwr }
/-- The state with firmware changed. -/
def modFw (s : State) (f : Firmware → Firmware) : State := { s with fw := f s.fw }

/-! ## Resets (R518, R519) -/

/-- What a port keeps of its pins through a reset: the levels that the outside drives. -/
def outsidePins (q : Port) : Port := { pins := q.pins.map fun x => (x.1, { ball := x.2.ball }) }

/-- The device in cold reset (R518): what lies outside it, fuses, key fuses and flash stay. -/
def coldOf (s : State) : State :=
  { pending := s.pending, freeCtr := s.freeCtr, hostMem := s.hostMem, hostBad := s.hostBad, out := s.out,
    pwr := { porstLow := s.pwr.porstLow, railsLow := s.pwr.railsLow, vddioLow := s.pwr.vddioLow, vddio := s.pwr.vddio, quiesce := s.pwr.quiesce },
    fw := { flash := s.fw.flash, permanent := s.fw.permanent, trial := s.fw.trial, trialTried := s.fw.trialTried },
    sec := { keys := s.sec.keys.filter fun x => x.1 < 2, kekSet := s.sec.kekSet, svnFuse := s.sec.svnFuse },
    port := s.port.map fun x => (x.1, outsidePins x.2) }

/-- The logbook as a reset keeps it: ring, chain, sequence numbers and export mark (R519). -/
def keptLog (l : Logbook) : Logbook :=
  { ring := l.ring, next := l.next, mark := l.mark, h := l.h, sinceSeal := l.sinceSeal, due := l.due,
    seals := l.seals.map fun x => { x with doors := [] } }

/-- Power after a warm reset of a cause (R519): `PWR_FAULT` is kept whole, with what its level bits follow (R524, R525). -/
def warmPower (s : State) (c : Power) (cause : Nat) : Power :=
  { c with phase := .locking, sticky := s.pwr.sticky, nofw := s.pwr.nofw, railsWarn := s.pwr.railsWarn, critOn := s.pwr.critOn,
           lastReset := BitVec.ofNat 4 (cause + 1),
           refsel := s.pwr.refsel, linkUp := s.pwr.linkUp, coldBoot := false, cause := BitVec.ofNat 4 cause }

/-- A warm reset (R519). -/
def warmOf (s : State) (cause : Nat) : State :=
  let c := coldOf s
  { c with pwr := warmPower s c.pwr cause, log := keptLog s.log,
           sec := { c.sec with keys := s.sec.keys.filter fun x => x.1 < 3, dbgFails := s.sec.dbgFails } }

/-- The FAULT record of the end of autonomous hold (R528, R529). -/
def holdLeft : LogDraft := { kind := 0x0B, object := 2 }

/-- A warm-reset trigger in RUN (R518, R529): it ends autonomous hold. -/
def warmReset (s : State) (cause : Nat) : State := warmOf (if s.pwr.hold then logAlways s holdLeft else s) cause

/-! ## Firmware images (R475, R476) -/

/-- Flash offset of a slot: A, or B. -/
def slotBase (b : Bool) : Nat := if b then 0x200000 else 0x100000

/-- Word `k` of a slot's header. -/
def fwWord (s : State) (b : Bool) (k : Nat) : Word := memWord s.fw.flash (slotBase b + 4 * k)

/-- `SVN` of a slot's image. -/
def fwSvn (s : State) (b : Bool) : Nat := fieldOf (fwWord s b 1) 0 7

/-- `LENGTH` of a slot's image. -/
def fwLength (s : State) (b : Bool) : Nat := (fwWord s b 2).toNat

/-- `XSPI_DIV` is 0 or an even number from 4 on (R475). -/
def divOk (n : Nat) : Bool := n == 0 || (n % 2 == 0 && decide (4 ≤ n))

/-- The header's fields are as R475 gives. -/
def fwHeaderOk (s : State) (b : Bool) : Bool :=
  let w := fwWord s b
  let n := fwLength s b
  fieldOf (w 0) 0 16 == 0x4657 && fieldOf (w 0) 16 8 == 1 && fieldOf (w 0) 24 8 == 0 && fieldOf (w 1) 7 25 == 0
    && decide (4096 ≤ n) && decide (n ≤ 1048576) && n % 4096 == 0
    && divOk (fieldOf (w 4) 0 6) && fieldOf (w 4) 6 26 == 0 && w 5 == 0 && w 6 == 0 && w 7 == 0

/-- The signature of a slot's image verifies under the root (R475, R476). -/
def fwSigned (s : State) (b : Bool) : Bool :=
  let l := memBytes s.fw.flash (slotBase b) (fwLength s b)
  let key := (l.drop 0x20).take 64
  sha256v key == Config.fwRoot && ecdsaVerify key (sha256 (l.take 0x60 ++ l.drop 0xA0)) ((l.drop 0x60).take 64)

/-- Step 3 of R476 passes for a slot. -/
def fwPasses (s : State) (b : Bool) : Bool := fwHeaderOk s b && decide (s.sec.svnFuse ≤ fwSvn s b) && fwSigned s b

/-- The running slot is on trial (R212). -/
def onTrial (s : State) : Bool := s.fw.trial == some s.fw.slot

/-! ## Early ports (R522, R523) -/

/-- An entry of the early-port table. -/
structure EarlyEntry where
  port : Nat
  xclass : BitVec 2
  off : Nat
  length : Nat
  start : Bool
  config : List Byte

/-- An entry as its 80 bytes spell it, or none where it is malformed. -/
def earlyEntry (l : List Byte) : Option EarlyEntry :=
  let w := wordAt l
  if fieldOf (w 0) 0 7 < 96 ∧ fieldOf (w 0) 7 6 = 0 ∧ fieldOf (w 0) 15 17 = 0 ∧ fieldOf (w 2) 18 14 = 0 ∧ fieldOf (w 3) 1 31 = 0 then
    some { port := fieldOf (w 0) 0 7, xclass := BitVec.ofNat 2 (fieldOf (w 0) 13 2), off := (w 1).toNat,
           length := fieldOf (w 2) 0 18, start := (w 3).getLsbD 0, config := (l.drop 16).take 64 }
  else none

/-- No two entries name one port. -/
def portsOnce : List EarlyEntry → Bool
  | [] => true
  | e :: l => l.all (fun x => x.port != e.port) && portsOnce l

/-- Every one of a list of values is there. -/
def allSome {α : Type} : List (Option α) → Option (List α)
  | [] => some []
  | none :: _ => none
  | some a :: l => (allSome l).map (a :: ·)

/-- The early-port table, or none where it is absent, malformed or unverified (R522). -/
def earlyTable (s : State) : Option (List EarlyEntry) :=
  let w (k : Nat) := memWord s.fw.flash (0x1000 + 4 * k)
  let n := fieldOf (w 1) 0 6
  if fieldOf (w 0) 0 16 ≠ 0x4550 ∨ fieldOf (w 0) 16 8 ≠ 1 ∨ fieldOf (w 0) 24 8 ≠ 0 ∨ 32 < n ∨ fieldOf (w 1) 6 26 ≠ 0
      ∨ w 2 ≠ 0 ∨ w 3 ≠ 0 then none
  else
    let l := memBytes s.fw.flash 0x1000 (16 + 80 * n)
    let b := memBytes s.fw.flash (0x1000 + 16 + 80 * n) 136
    let ok := fieldOf (wordAt b 0) 0 6 == 2 && !signBad b
      && ecdsaVerify romKey.material (sha256 (l ++ b.take 0x48)) ((b.drop 0x48).take 64)
    if !ok then none
    else
      match allSome ((List.range n).map fun i => earlyEntry ((l.drop (16 + 80 * i)).take 80)) with
      | some es => if portsOnce es then some es else none
      | none => none

/-- A step of an early start is logged as a COMMAND with origin ferrymaster; the request words are not stated. -/
def logEarly (s : State) (object : Nat) : State :=
  logNormal (drawn s) { kind := 0x03, object := object, body := leBytes 4 (freeOf s).toNat }

/-- APPLY, which firmware asks of an early port with `VID` 0 (R523 step 4); START follows its answer. -/
def earlyApply (s : State) (p : Nat) : State :=
  joinRequest s p { invoke := false, vid := none, early := some p, cmd := 1, arg := 0 }

/-- The start of early ports under way: whether there is something to tell, and how many entries were skipped. -/
structure EarlyRun where
  state : State
  told : Bool := false
  skipped : Nat := 0

/-- The image of an early port may be loaded (R316, R478, R522). -/
def earlyImageOk (s : State) (l : List Byte) : Bool :=
  (imageFail l).isNone && fieldOf (wordAt (signBlock l) 0) 0 6 == 2 && imageSigned s 0 l

/-- One entry's port is started (R523): an entry whose port another partition holds is skipped and counted. A port whose group is off takes no commission (R507, log 75). -/
def startEarly (a : EarlyRun) (e : EarlyEntry) : EarlyRun :=
  let s := a.state
  if (portOf s e.port).owner.any (· != 0) then { a with skipped := a.skipped + 1 }
  else if !domainOn s (e.port / 4) then { a with told := true }
  else
    let s := logEarly (takeCommission s e.port 0 e.xclass 0x1FFF) (0x0010 + (e.port + e.xclass.toNat * 2 ^ 13) * 2 ^ 16)
    let l := memBytes s.fw.flash e.off e.length
    if !earlyImageOk s l then { a with state := s, told := true }
    else
      let s := logEarly (setInactive s e.port (loadedBank l)) (0x0012 + e.port * 2 ^ 16)
      let s := modPort s e.port fun q => { q with spad := memPut q.spad 0 e.config }
      let old := (portOf s e.port).number.toNat
      let s := logEarly (takeSwap s e.port false) (0x0013 + e.port * 2 ^ 16)
      let s := logDue s (swapRecord s e.port old s.tb.lsn 0)
      { a with state := if e.start then logEarly (drawn (earlyApply s e.port)) (freeOf s).toNat else s }

/-- Every early port is started. -/
def startAllEarly (s : State) : EarlyRun :=
  match earlyTable s with
  | none => { state := s, told := true }
  | some l => l.foldl startEarly { state := s }

/-! ## Boot (R476, R477, R521) -/

/-- Key slot 0 is prepared (R479, R486); its `KIND` is not stated but not 0, which tells an empty slot (R504). -/
def prepareSeal (s : State) : State :=
  if !(slotOf s 0).material.isEmpty then s
  else if s.sec.trngFail then { s with sec := { s.sec with noSealKey := true } }
  else
    let kind := (freeOf s).setWidth 4
    let k : KeySlot := { kind := if kind = 0 then 15 else kind, persist := true, material := bvBytes 32 (Config.drbg s.freeCtr) }
    { drawn s with sec := { s.sec with keys := tPut s.sec.keys 0 k } }

/-- The device has been cast off, and its boot is that of cast-off (R515). -/
def castBoot (s : State) : Bool := s.pwr.lastReset == 8

/-- The logbook is opened (R476 step 5, R515 step 5, R21). `DOOR` of these records is not stated: GENESIS, RESTART and FAULT, which firmware writes on its own account, have the ferrymaster's, and the PIN record of cast-off that of the pins, the safety port's wake by SSP_CS_N included (log 128). -/
def openLog (s : State) : State :=
  if castBoot s then logAlways s { door := 4, kind := 0x0A, object := 3 + s.pwr.wakeSrc.toNat * 2 ^ 8 }
  else if s.pwr.coldBoot then logAlways s { kind := 0x01 }
  else
    let s := logAlways s { kind := 0x02, object := s.pwr.cause.toNat }
    if s.pwr.cause = 2 then raise (logAlways s { kind := 0x0B, object := 0 }) 659 else s

/-- The BOOT record (R497) of the running slot. -/
def bootDraft (s : State) (object reason : Nat) : LogDraft :=
  let b := s.fw.slot
  let l := leBytes 1 (if b then 1 else 0) ++ leBytes 1 (fwSvn s b) ++ leBytes 4 (fwWord s b 3).toNat ++ leBytes 1 reason
  { kind := 0x0C, object := object, body := l, detail := l, details := 1 }

/-- The BOOT record is appended, with what firmware has to tell (R477, R522, R523). -/
def bootRecord (r : EarlyRun) (fell : Bool) : State :=
  logAlways r.state (bootDraft r.state (if fell then 1 else 0) (Config.bootReason fell r.told r.skipped).toNat)

/-- Firmware has finished step 5 of R476. -/
def bootFinish (s : State) : State :=
  let s := modFw s fun f => { f with running := true, watchdog := false }
  let s := bootRecord (startAllEarly (openLog (prepareSeal s))) (decide (1 < s.fw.tried))
  let s := modFw s fun f => { f with ready := true, bsy := false }
  if castBoot s then raise s 709 else s

/-- A boot attempt has failed (R477): a failed trial is cleared and reported. -/
def attemptFailed (s : State) : State :=
  if onTrial s then raise (modFw s fun f => { f with trial := none, watchdog := false }) 711
  else modFw s fun f => { f with watchdog := false }

/-- No firmware runs (R477). -/
def noFirmware (s : State) : State := modPwr (modFw s fun f => { f with running := false, ready := false }) fun p => { p with nofw := true }

/-- The smallest even divisor of 800 MHz from 4 to 64 that keeps within a limit, or the greatest (R573). -/
def slowDiv (limit : Nat) : Nat := (((List.range 31).map fun k => 2 * k + 4).find? fun d => decide (800 ≤ limit * d)).getD 64

/-- The divisor of the xSPI clock that a slot's header and the flash's SFDP tables give (R475, R573). -/
def flashDiv (s : State) (b : Bool) (limit : Option (BitVec 8)) : Nat :=
  let n := fieldOf (fwWord s b 4) 0 6
  let n := if n = 0 then 8 else n
  match limit with
  | some m => if m.toNat * n < 800 then slowDiv m.toNat else n
  | none => n

/-- The boot ROM tries the running slot: it changes the flash to 8D-8D-8D at the rate of the slot's header, and checks the image (R476 step 3, R573). -/
def trySlot (s : State) (limit : Option (BitVec 8)) : State × Bool :=
  let b := s.fw.slot
  let t := if divOk (fieldOf (fwWord s b 4) 0 6) then modFw s fun f => { f with xspiWide := true, xspiDiv := flashDiv s b limit } else s
  (t, fwPasses s b)

/-- The image of the slot chosen is handed over to, and finishes before the watchdog expires or not. -/
def handOver (s : State) (inTime : Bool) : State :=
  let s := modFw s fun f => { f with watchdog := true }
  if inTime then bootFinish s else s

/-- The other slot is tried (R477). -/
def bootSecond (s : State) (b : BootInputs) : State :=
  let r := trySlot (modFw (attemptFailed s) fun f => { f with slot := !f.slot, tried := 2 }) b.sfdpLimit
  if r.2 then handOver r.1 b.inTime2 else noFirmware (attemptFailed r.1)

/-- The chosen slot is tried. -/
def bootFirst (s : State) (b : BootInputs) : State :=
  if b.fuseError then noFirmware s
  else
    let r := trySlot (modFw s fun f => { f with tried := 1 }) b.sfdpLimit
    if r.2 then handOver r.1 b.inTime else bootSecond r.1 b

/-- The slot that a reset boots is chosen, a trial that has been tried and not confirmed being cleared (R212, R476). -/
def chooseSlot (s : State) : State :=
  modFw s fun f =>
    match f.trial with
    | some b => if f.trialTried then { f with slot := f.permanent, trial := none } else { f with slot := b, trialTried := true }
    | none => { f with slot := f.permanent }

/-- The root PLL has locked after a reset: the device is in RUN, the ferry engines have been tested, and the boot chain runs (R20, R521). -/
def bootRun (s : State) (b : BootInputs) : State :=
  let s := modPwr s fun p => { p with phase := .run }
  let s := { s with sch := { s.sch with inService := b.selfTest } }
  bootFirst (if b.fuseError then s else chooseSlot s) b

/-! ## Moored (R511, R512, R515) -/

/-- The ports 0 to 7, whose pins stay powered while moored (R511). -/
def staysPowered (p : Nat) : Bool := decide (p < 8)

/-- What a port keeps through moored (R512). -/
def mooredPort (x : Nat × Port) : Nat × Port :=
  let q := x.2
  let keepPin (y : Nat × Pin) : Nat × Pin := (y.1, { ball := y.2.ball, hold := if staysPowered x.1 then y.2.hold else none })
  (x.1, { owner := q.owner, lastOwner := q.lastOwner, xclass := q.xclass, txq := q.txq, number := q.number,
          pins := q.pins.map keepPin, wake := q.wake })

/-- What a partition keeps through moored (R512). -/
def mooredPart (q : Partition) : Partition :=
  { prio := q.prio, vidBase := q.vidBase, vidCount := q.vidCount, evtBase := q.evtBase, evtCount := q.evtCount,
    channels := q.channels, queues := q.queues, keyslots := q.keyslots, ferryShare := q.ferryShare, mbxRate := q.mbxRate,
    cells := q.cells, hostShare := q.hostShare, bargeShare := q.bargeShare,
    hostNow := q.hostShare, bargeNow := q.bargeShare, wins := q.wins }

/-- What the interrupt controller keeps through moored: running hold-off timers are treated as expired (R468), and the functions' configuration space returns to its reset values (R516). -/
def mooredIcu (i : Icu) : Icu :=
  { i with group := i.group.map fun x => (x.1, { x.2 with running := false, left := 0, claimed := none })
           target := i.target.map fun x => (x.1, { x.2 with msixEnable := false, functionMask := false }) }

/-- What the endpoint unit keeps through moored: entries on queues return to PENDING (R413, R512). -/
def mooredEp (e : Endpoints) : Endpoints :=
  let keep (x : Nat × Endpoint) : Nat × Endpoint :=
    if x.2.kind == 1 && x.2.port == 127 && x.2.state == .ready then (x.1, epPending x.2) else x
  { dir := e.dir.map keep, selfId := e.selfId, announce := e.announce, idbSpeed := e.idbSpeed, makers := e.makers }

/-- What an arbiter keeps through moored: its configuration fields. -/
def mooredArbiter (a : Arbiter) : Arbiter :=
  { starveLimit := a.starveLimit, slots := a.slots.map fun x => (x.1, { base := x.2.base, limit := x.2.limit }) }

/-- Power while moored. -/
def mooredPower (s : State) (c : Power) : Power :=
  { c with phase := .moored, refsel := s.pwr.refsel, sticky := s.pwr.sticky, nofw := s.pwr.nofw, lastReset := s.pwr.lastReset, coldBoot := false,
           domains := s.pwr.domains, holdLimit := s.pwr.holdLimit, twarn := s.pwr.twarn, tcrit := s.pwr.tcrit,
           thermAct := s.pwr.thermAct, wakeSrc := s.pwr.wakeSrc, railsWarn := s.pwr.railsWarn, critOn := s.pwr.critOn }

/-- The device moored (R511 steps 5 to 8): what R512 retains, and the quarantined cells, which stay out of use until a cold or warm reset (R258). -/
def mooredOf (s : State) : State :=
  let c := coldOf s
  { c with
    pwr := mooredPower s c.pwr
    tb := { time := s.tb.time }
    icu := mooredIcu s.icu
    part := s.part.map fun x => (x.1, mooredPart x.2)
    port := s.port.map mooredPort
    ep := mooredEp s.ep
    sec := { s.sec with crypto := [] }
    log := { keptLog s.log with lost := s.log.lost }
    bank := s.bank.map fun x => (x.1, { kind := x.2.kind, owner := x.2.owner, ret := x.2.ret })
    glb := { lock := s.glb.lock, landoutWidth := s.glb.landoutWidth }
    sch := { inService := s.sch.inService, retired := s.sch.retired, admBrate := s.sch.admBrate, admCells := s.sch.admCells, quantum := s.sch.quantum }
    deck := { flatPages := s.deck.flatPages, quar := s.deck.quar }
    bb := s.bb.map fun x => (x.1, { en := x.2.en, rate := x.2.rate, an := x.2.an, macsec := x.2.macsec, lat := x.2.lat })
    brt := s.brt.map fun x => (x.1, mooredArbiter x.2)
    fw := { c.fw with slot := s.fw.slot, bound := s.fw.bound } }

/-- Cast-off by the source of a code, `us` microseconds after the entry's retention save (R29, R515). -/
def castOff (s : State) (src us : Nat) (b : BootInputs) : State :=
  let t := (s.tb.time + 1000 * us) % 2 ^ 64
  let s := modPwr s fun p => { p with phase := .run, lastReset := 8, wakeSrc := BitVec.ofNat 8 src, wakeDriven := true }
  let s := { s with tb := { time := t, nominal := t, running := true } }
  let s := (s.port.filter fun x => x.2.owner.isSome).foldl (fun s x => nextNumber s x.1) s
  bootFirst s b

end Sys2Proof.Machine
end

