-- ==== Sys2Proof/Machine/Rings.lean ====
section
/-!
DEFINITION. The rows of the rings: doorbells, fetched entries, the arrival of a manifest's header, consumer-index writes, and the writing of records and shadows (03_manifests.md R60 to R66; 05_rings.md R156 to R175).
-/
namespace Sys2Proof.Machine

/-! ## Doorbells (R157) -/

/-- The entries that a doorbell covers, as they stand when it takes effect (R155). -/
def coveredNow (s : State) (p : Nat) (r : SubRing) (d : BitVec 16) : List (List Word) :=
  (List.range (d - r.p).toNat).map fun k => entryNow s p r (r.p.toNat + k)

/-- A doorbell with producer index `d` at an existing ring (R157). -/
def ringBell (s : State) (p n : Nat) (r : SubRing) (d : BitVec 16) : State :=
  let ahead := (d - r.c).toNat
  let refused (f : SubRing → SubRing) : State := sqEvent (modSq s p n fun r => f { r with cnt := bump r.cnt 2 }) p
  if r.size < ahead then refused fun r => { r with overrun := true }
  else if ahead < (r.p - r.c).toNat then refused fun r => { r with regress := true }
  else if d = r.p then s
  else modSq s p n fun r => { r with p := d, cover := r.cover ++ [(d, openAny s)], old := r.old ++ coveredNow s p r d }

/-- SQ_DOORBELL (R157): refused behind the fence of a partition reset (R232), and, counted, during entry to moored (R511). -/
def execSqDoorbell (p : Fin 32) (n : Fin 8) (w : BitVec 32) (s : State) : Host.Outcome State Fault Refusal :=
  .next <|
    if !isRun s || (partOf s p).reset.isSome then s
    else
      match sqOf s p n with
      | none => bumpPart s p 1
      | some r =>
        if s.pwr.mooring.isSome then modSq s p n fun r => { r with cnt := bump r.cnt 2 }
        else settle s (ringBell s p n r (w.setWidth 16))

/-! ## Fetches (R155, R158, R175) -/

/-- The words of an entry. -/
def entryOf (l : List Byte) : List Word := (List.range 8).map (wordAt l)

/-- Bytes whose read was lost are free values. -/
def patchLost (s : State) (f : Fetch) (n : Nat) : State × List Byte :=
  let k := n - f.bytes.length
  (drawnBy s k, f.bytes ++ freeBytes s k)

/-- The words of an entry as the ring unit takes them. -/
def takenWords (s : State) : List Word → List Word → State × List Word
  | a :: l, b :: m =>
    let x := eitherWord s a b
    let y := takenWords x.1 l m
    (y.1, x.2 :: y.2)
  | _, m => (s, m)

/-- One entry is read through the partition's windows; an uncorrectable word of a general bank acts as a failed fetch (R539). -/
def fetchEntry (s : State) (p n : Nat) (r : SubRing) (poisoned : Bool) : State :=
  let a := r.base + 32 * (r.fetched.toNat % r.size)
  let f := readFor s p a 32 .read
  match f.2, f.1.loss with
  | some _, _ => faultSq f.1.state p n
  | none, some 2 => faultSq f.1.state p n
  | none, _ =>
    let host := poisoned && ((windowAt s p a).map (·.space == 0)).getD false
    let b := patchLost f.1.state (if host then { f.1 with bytes := [] } else f.1) 32
    let t := takenWords b.1 (if f.1.loss.isNone && !host then r.old.headD [] else []) (entryOf b.2)
    let now := entryNow t.1 p r r.fetched.toNat
    modSq t.1 p n fun r =>
      { r with fetched := r.fetched + 1, entries := r.entries ++ [t.2], old := r.old.drop 1, seen := r.seen ++ [now] }

/-- Entries are fetched, up to the accepted producer index, or to one that lies in a bank which has to leave retention first (R538). -/
def fetchLoop : Nat → State → Nat → Nat → Bool → State
  | 0, s, _, _, _ => s
  | k + 1, s, p, n, poisoned =>
    match sqOf s p n with
    | none => s
    | some r =>
      if r.fault || r.fetched == r.p then s
      else
        match asleepAt s p (r.base + 32 * (r.fetched.toNat % r.size)) with
        | some b => wakeBank s b
        | none => fetchLoop k (fetchEntry s p n r poisoned) p n poisoned

/-- SQ_ENTRY_FETCH_DONE (R158): up to `count` entries arrive, and the jobs they complete are taken up. -/
def execSqEntryFetchDone (p : Fin 32) (n : Fin 8) (count : Fin 1025) (poisoned : Bool) (s : State) :
    Host.Outcome State Fault Refusal :=
  .next <|
    match (if isRun s && (partOf s p).reset.isNone then sqOf s p n else none) with
    | none => s
    | some r =>
      if r.fault || r.fetched == r.p then s else conclude s (goOn (runRing (fetchLoop count s p n poisoned) p n))

/-! ## The header (R60 to R66) -/

/-- The START that comes first among those of a voyage ID whose headers have not arrived. -/
def onItsWay (s : State) (v : Nat) : Option Voyage := (s.sch.starting.find? fun y => y.1 == v).map Prod.snd

/-- A START's header has arrived. -/
def arrived (s : State) (v : Nat) : State :=
  modSch s fun c => { c with starting := c.starting.eraseP fun y => y.1 == v }

/-- A START is refused on its ring at its header: for want of a completion ring, or because its context is occupied by then (R61, R65, R115). -/
def refuseStart (s : State) (x : Voyage) (reason : Nat) : State := refuseAt s x.part x.ring x.startIdx reason

/-- A context is given to a START. -/
def putVoy (s : State) (v : Nat) (x : Voyage) : State := modSch s fun c => { c with voy := tPut c.voy v x }

/-- The voyage ends before it has run, with a record that names no entry, in completion ring `m`. -/
def endStart (s : State) (v : Nat) (x : Voyage) (m status ext : Nat) : State :=
  if (voyOf s v).isSome then refuseStart s x 0x05
  else if (cqOf s x.part m).isSome then endWith (putVoy s v { x with cring := some m }) v status ext 0xFFFF 0
  else refuseStart s x 0x06

/-- Pages that the manifest spans from the page that holds its header (R64). -/
def spanPages (x : Voyage) : Nat := (pageOf (entryAddr x (entryCount x) - 1) - pageOf x.header) / 4096 + 1

/-- The extended status with which a header fails R60, R63 and R64; of a header with faults of both kinds 0x01 is told, which the rules leave open (log 95). -/
def headerExt (x : Voyage) : Option Nat :=
  let h := hdrWord x
  let timed := (h 1).getLsbD 0
  let ve := vevent x
  if fieldOf (h 0) 0 16 != 0x4D46 || fieldOf (h 0) 16 8 != 2 || x.header % 64 != 0 then some 0x01
  else if fieldOf (h 0) 24 8 != 0 || fieldOf (h 1) 3 13 != 0 || fieldOf (h 1) 26 6 != 0 || fieldOf (h 3) 19 13 != 0
      || fieldOf (h 5) 25 7 != 0 || fieldOf (h 6) 19 13 != 0 || h 7 != 0 || (ve != 0 && ve < 512) || entryCount x == 0
      || (timed && (h 2 == 0 || maxEntries x == 0 || pinPages x == 0 || 256 < pinPages x || spanPages x < pinPages x)) then some 0x02
  else if timed && 262144 < fieldOf (h 3) 0 19 then some 0x02
  else none

/-- The registers at the start of a voyage (R62, R66). -/
def startRegs (x : Voyage) : Tab Word :=
  x.overlay.foldl (fun t k => tPut t k.1 k.2) ((List.range 8).map fun k => (k, hdrWord x (8 + k)))

/-- A header that passes its checks: a timed voyage is a Candidate, an untimed one enters Ready (R163). -/
def acceptHeader (s : State) (v : Nat) (x : Voyage) : State :=
  let timed := (hdrWord x 1).getLsbD 0
  let regs := startRegs x
  let y : Voyage :=
    { x with timed := timed, xclass := fieldOf (hdrWord x 1) 1 2, regs := regs, ckRegs := regs,
             cring := some (fieldOf (hdrWord x 6) 16 3) }
  if timed then requestPins (putVoy s v y) y
  else enterReady (putVoy s v { y with captured := capturePorts s x.part }) v

/-- In autonomous hold no START passes its header check (R125, R529): it stays as it is until the warm reset that ends the hold. -/
def heldBack (s : State) (v : Nat) (x : Voyage) : State := modSch s fun c => { c with starting := c.starting ++ [(v, x)] }

/-- The header has been read. -/
def readHeader (s : State) (v : Nat) (x : Voyage) (l : List Byte) : State :=
  let x := { x with hdr := (List.range 16).map (wordAt l) }
  let m := fieldOf (hdrWord x 6) 16 3
  if (voyOf s v).isSome then refuseStart s x 0x05
  else if (cqOf s x.part m).isNone then refuseStart s x 0x06
  else
    match headerExt x with
    | some e => endStart s v x m 0x16 e
    | none => if s.pwr.hold then heldBack s v x else acceptHeader s v x

/-- The page that holds the header enters the cache, and fills of it are over (R61, R138). -/
def headerCached (s : State) (x : Voyage) (bytes : List Byte) : State :=
  match windowOf s x.part (pageOf x.header) with
  | some (k, _) =>
    let a := pageOf x.header
    wakeMissers (insertPage (dropFills s x.part a) x.part a k bytes) x.part a
  | none => s

/-- The fetch of a header comes back: from the cache, or with its page from memory (R61). -/
def headerBack (s : State) (v : Nat) (x : Voyage) (poisoned : Bool) : State :=
  match headerPage s x with
  | some pg => readHeader s v x (memBytes pg.data (x.header % 4096) 64)
  | none =>
    let whole := inOnePage x
    let f := if whole then readFor s x.part (pageOf x.header) 4096 .manifest else readFor s x.part x.header 64 .manifest
    let host := poisoned && ((windowAt s x.part x.header).map (·.space == 0)).getD false
    match f.2, (if host then some 3 else f.1.loss) with
    | some _, _ => endStart f.1.state v x x.ring 0x14 0x04
    | none, some e => endStart f.1.state v x x.ring 0x32 e
    | none, none =>
      if whole then readHeader (headerCached f.1.state x f.1.bytes) v x ((f.1.bytes.drop (x.header % 4096)).take 64)
      else readHeader f.1.state v x f.1.bytes

/-- MANIFEST_HEADER_ARRIVAL (R65); the running round goes on (R120). -/
def execManifestHeaderArrival (v : Fin 4096) (poisoned : Bool) (s : State) : Host.Outcome State Fault Refusal :=
  .next <|
    match (if isRun s then onItsWay s v else none) with
    | none => s
    | some x =>
      match (if (headerPage s x).isSome then none else asleepAt s x.part x.header) with
      | some b => wakeBank s b
      | none => conclude s (goOn (headerBack (arrived s v) v x poisoned))

/-! ## Completion rings (R171 to R175) -/

/-- CQ_CI_WRITE (R171). -/
def execCqCiWrite (p : Fin 32) (m : Fin 8) (w : BitVec 32) (s : State) : Host.Outcome State Fault Refusal :=
  .next <|
    match (if isRun s then cqOf s p m else none) with
    | none => s
    | some c =>
      let d : BitVec 16 := w.setWidth 16
      if (d - c.c).toNat ≤ (c.p - c.c).toNat then
        conclude s (retryRoom (modCq s p m fun c => { c with c := d }) p m)
      else settle s (partEvent (modCq s p m fun c => { c with ciBad := true }) p 1)

/-- The completion ring faults (R175): what is published from then on, or is not yet written, is dropped, and nothing waits for room any longer. -/
def faultCq (s : State) (p m dropped : Nat) : State :=
  let s := modCq s p m fun c => { c with fault := true, unwritten := [], shadowDue := false, cnt := bumpBy c.cnt 2 dropped }
  retryRoom (partEvent s p 1) p m

/-- The shadow word of an index (R173). -/
def shadowBytes (i : BitVec 16) : List Byte := leBytes 8 i.toNat

/-- The ring's shadow is written, and its source raised under `IRQ_EN` (R172, R174). -/
def writeCqShadow (s : State) (p m : Nat) (c : CompRing) (i : BitVec 16) : State :=
  let r := writeFor s p c.shadow (shadowBytes i)
  match r.2 with
  | some _ => faultCq r.1 p m 0
  | none =>
    let s := modCq r.1 p m fun c => { c with shadowDue := false }
    if c.irqEn then raise s (256 + 8 * p + m) else s

/-- The published records are written in order, then the shadow that covers them. -/
def writeRecords : Nat → State → Nat → Nat → State
  | 0, s, _, _ => s
  | k + 1, s, p, m =>
    match cqOf s p m with
    | none => s
    | some c =>
      match c.unwritten with
      | [] => if c.shadowDue then writeCqShadow s p m c c.p else s
      | (i, r) :: l =>
        let w := writeFor s p (c.base + 16 * (i.toNat % c.size)) (leBytes 16 r.toNat)
        match w.2 with
        | some _ => faultCq w.1 p m c.unwritten.length
        | none => writeRecords k (modCq w.1 p m fun c => { c with unwritten := l, shadowDue := true }) p m

/-- The addresses that a completion ring is about to write. -/
def cqAddrs (c : CompRing) : List Nat := c.shadow :: c.unwritten.map fun x => c.base + 16 * (x.1.toNat % c.size)

/-- The submission ring's shadow is written (R173). -/
def writeSqShadow (s : State) (p n : Nat) (r : SubRing) : State :=
  let w := writeFor s p r.shadow (shadowBytes r.c)
  match w.2 with
  | some _ => faultSq w.1 p n
  | none => modSq w.1 p n fun r => { r with shadowDue := false }

/-- The slot of a completion ring's index. -/
def slotAddr (c : CompRing) (i : BitVec 16) : Nat := c.base + 16 * (i.toNat % c.size)

/-- What a completion ring has issued reaches its destination: published records, then the shadow word. -/
def landRecords (s : State) (p m : Nat) : State :=
  match cqOf s p m with
  | none => s
  | some c =>
    let t := c.unwritten.foldl (fun s x => landWrite s p (slotAddr c x.1) (leBytes 16 x.2.toNat)) s
    let t := if c.shadowDue || !c.unwritten.isEmpty then landWrite t p c.shadow (shadowBytes c.p) else t
    modCq t p m fun c => { c with unwritten := [], shadowDue := false }

/-- What a submission ring has issued reaches its destination. -/
def landIndex (s : State) (p n : Nat) : State :=
  match sqOf s p n with
  | none => s
  | some r =>
    if r.shadowDue && !r.fault then modSq (landWrite s p r.shadow (shadowBytes r.c)) p n fun r => { r with shadowDue := false } else s

/-- The writes that a partition has issued reach their destinations (R232 step 4, R511 step 4). -/
def landWrites (s : State) (p : Nat) : State :=
  (List.range 8).foldl (fun s k => landIndex (landRecords s p k) p k) s

/-- The writes that a partition has issued to host memory are discarded (R232). -/
def loseWrites (s : State) (p : Nat) : State :=
  (List.range 8).foldl (fun s k =>
    let t := modCq s p k fun c => { c with unwritten := c.unwritten.filter fun x => !onHost s p (slotAddr c x.1)
                                           shadowDue := c.shadowDue && !onHost s p c.shadow }
    modSq t p k fun r => { r with shadowDue := r.shadowDue && !onHost s p r.shadow }) s

/-- SHADOW_WRITE (R172, R173): what a ring has to write is written. -/
def execShadowWrite (p : Fin 32) (submission : Bool) (m : Fin 8) (s : State) : Host.Outcome State Fault Refusal :=
  .next <|
    if !isRun s || (partOf s p).reset.isSome then s
    else if submission then
      match sqOf s p m with
      | none => s
      | some r =>
        if r.fault || !r.shadowDue then s
        else
          match asleepAt s p r.shadow with
          | some b => wakeBank s b
          | none => settle s (writeSqShadow s p m r)
    else
      match cqOf s p m with
      | none => s
      | some c =>
        if c.fault || (c.unwritten.isEmpty && !c.shadowDue) then s
        else
          match (cqAddrs c).findSome? fun a => asleepAt s p a with
          | some b => wakeBank s b
          | none => conclude s (writeRecords (c.unwritten.length + 1) s p m)

end Sys2Proof.Machine
end

