-- ==== Sys2Proof/Machine/ResetOps.lean ====
section
/-!
DEFINITION. The reset of a partition: the fence with what it ends, and the steps that complete it (07_partitions.md R231 to R234).
-/
namespace Sys2Proof.Machine

/-- A Configuration Request has its effect: until `READY` the device answers it with Request Retry Status (R519). -/
def whenConfig (s t : State) : State := if isRun s && s.fw.ready then t else s

/-! ## The fence (R232 steps 1 to 3) -/

/-- The RESET record of a reset of partition `p` (R497). -/
def resetRecord (p : Nat) (r : ResetSeq) (complete : Bool) (detail : List Byte) : LogDraft :=
  { part := r.part, door := r.door, kind := 0x05,
    object := p + (if complete then 2 ^ 8 else 0) + r.trigger * 2 ^ 9,
    body := detail, detail := detail, details := if complete then 1 else 0 }

/-- The records that a voyage's end drops: those held, one that waits for room, and that of its end. -/
def recordsOf (x : Voyage) : Nat :=
  x.heldRecs.length + (if x.posting.isSome then 1 else 0) + (if x.state = .ending then 0 else 1)

/-- A voyage ends with its records dropped (R232 step 2). -/
def abortVoy (s : State) (v : Nat) (x : Voyage) : State :=
  let s := abandonWait s v x
  let s := endReads (rewindAll s (.voyage v)) (.voyage v)
  dropVoy s v

/-- The voyages of a partition. -/
def voyagesOf (s : State) (p : Nat) : List (Nat × Voyage) := s.sch.voy.filter fun x => x.2.part == p

/-- Records that wait in a partition's rings for room. -/
def lateRecords (s : State) (p : Nat) : Nat :=
  (s.cq.filter fun x => x.1 / 8 == p).foldl (fun n x => n + x.2.late.length) 0

/-- Records of a partition's candidates refused in the running rounds, and its records that follow held ones. -/
def refusedRecords (s : State) (p : Nat) : Nat :=
  let mine (v : Nat) : Bool := (voyOf s v).any fun x => x.part == p
  (s.sch.notAdmitted.filter fun x => mine x.vid).length + (s.sch.following.filter fun x => mine x.1).length

/-- Every voyage of a partition ends, its records dropped, and its STARTs leave nothing behind; the running round goes on without them. -/
def abortAll (s : State) (p : Nat) : State :=
  let gone (v : Nat) : Bool := (voyOf s v).any fun x => x.part == p
  let s := modSch s fun c =>
    { c with notAdmitted := c.notAdmitted.filter fun x => !gone x.vid, following := c.following.filter fun x => !gone x.1 }
  let s := (voyagesOf s p).foldl (fun s x => abortVoy s x.1 x.2) s
  goOn (modSch s fun c =>
    { c with fills := c.fills.filter fun f => f.part != p
             starting := c.starting.filter fun x => x.2.part != p })

/-- A packet under production in a queue is rewound; a receive path gives its message up with it. -/
def rewindIn (s : State) (q : Nat) : Agent → State
  | .rx n part => abandonRx s n part
  | a => rewindPacket s a q

/-- Every packet under production in the partition's queues is rewound. -/
def rewindOwned (s : State) (p : Nat) : State :=
  (s.deck.queues.flatMap fun x => if x.2.owner = p then x.2.building.map fun b => (x.1, b.agent) else []).foldl
    (fun s x => rewindIn s x.1 x.2) s

/-- The partition's rings stop: what they had fetched is dropped; what they have issued stays to be written (R232 step 4). -/
def stopRings (s : State) (p : Nat) : State :=
  let s := (List.range 8).foldl (fun s n => rewindAll s (.ring p n)) s
  let s := (List.range 8).foldl (fun s n => modSq s p n fun r => { r with job := none, entries := [], cover := [], old := [], seen := [] }) s
  (List.range 8).foldl (fun s m => modCq s p m fun c => { c with held := 0, late := [], parked := [] }) s

/-- The partition's barge channels drop their work (R232 step 3). -/
def stopChannels (s : State) (p : Nat) : State :=
  { s with brg := s.brg.map fun x =>
      if x.2.owner == some p then (x.1, { x.2 with active := none, ended := none, shadow := none, latch := none, waiting := [] }) else x }

/-- A mailbox whose command is pending is emptied (R192). -/
def discardPending (s : State) (d : Nat) : State :=
  if (mbxOf s d).state = .pending then modMbx s d fun m => { m with state := .idle, locked := [] } else s

/-- The doors of a partition: its page, and the safety port where it is bound to it. -/
def doorsOf (s : State) (p : Nat) : List Nat := if s.fw.bound = some p then [p, 32] else [p]

/-- The queue on which a waiting queue instruction of a port waits. -/
def waitQueue : EngWait → Option Nat
  | .put n _ _ => some n
  | .commit n _ => some n
  | .claim n _ => some n
  | .get n _ _ => some n
  | _ => none

/-- The queues that a port shares with its partition are fenced, and an instruction that waits on one of them completes (R356). -/
def fencePort (p : Nat) (s : State) (n : Fin 96) : State :=
  if (portOf s n).owner == some p then
    let own := (s.deck.queues.filter fun x => x.2.owner == p && x.2.port == some n.val).map Prod.fst
    let s := modPort s n fun q => { q with fencedQs := own.foldl insertNat q.fencedQs, fencers := insertNat q.fencers p }
    if (waitQueue (portOf s n).eng.wait).any own.contains then fenceWait s n else s
  else s

/-- Every port of the partition is fenced. -/
def fencePorts (s : State) (p : Nat) : State := (List.finRange 96).foldl (fencePort p) s

/-- The fence is raised, the partition's voyages end, and its channels drop their work (R232 steps 1 to 3). -/
def raiseFence (s : State) (p : Nat) (r : ResetSeq) : State :=
  let ended := (voyagesOf s p).filter fun x => x.2.state != .ending
  let dropped := (voyagesOf s p).foldl (fun n x => n + recordsOf x.2) (lateRecords s p + refusedRecords s p)
  let s := stopRings (fencePorts s p) p
  let s := rewindOwned (abortAll s p) p
  let s := stopChannels s p
  let s := (doorsOf s p).foldl discardPending s
  modPart s p fun x =>
    { x with reset := some { r with dropped := dropped, ended := ended.length }, snap := { x.snap with exporting := none },
             cnt := bumpBy (bumpBy x.cnt 4 dropped) 7 ended.length }

/-- A reset trigger for partition `p` (R231, R234): it starts the sequence, or is absorbed into the one that runs. -/
def startReset (s : State) (p : Nat) (r : ResetSeq) : State :=
  if p = 0 then s
  else
    let s := logAlways s (resetRecord p r false [])
    match (partOf s p).reset with
    | some old => modPart s p fun x => { x with reset := some { old with doors := old.doors ++ r.doors } }
    | none => raiseFence s p r

/-! ## The steps after the drain (R232 steps 4 to 9) -/

/-- The queues of a partition. -/
def queuesOf (s : State) (p : Nat) : List (Nat × Queue) := s.deck.queues.filter fun x => x.2.owner == p && decide (x.1 < 8192)

/-- The cells that a queue holds. -/
def queueCells (q : Queue) : List Nat :=
  (q.packets.flatMap (·.cells)) ++ (q.freed.flatMap (·.2.cells)) ++ q.building.flatMap fun b => if b.rewound then [] else b.pkt.cells

/-- The messages that are being received for a queue are given up. -/
def dropDeliveries (s : State) (q : Nat) : State :=
  ((List.range 2).flatMap fun n => ((linkOf s n).rx.filter fun x => x.2.queue == q).map fun x => (n, x.1)).foldl
    (fun s x => abandonRx s x.1 x.2) s

/-- A queue is removed with its cells (R232 steps 5 and 8). -/
def removeQueue (s : State) (q : Nat) (x : Queue) : State :=
  let s := freeCellsOf s (queueCells x)
  let s := modDeck s fun d => { d with queues := tDel d.queues q, stalls := d.stalls.filter fun y => y.queue != q }
  let drop (y : Nat × Port) : Nat × Port := if y.2.fencedQs.contains q then y else (y.1, { y.2 with reads := tDel y.2.reads q })
  dropDeliveries (reviewQueue { s with port := s.port.map drop } q) q

/-- The sources of a partition (R217). -/
def sourcesOf (s : State) (p : Nat) : List Nat :=
  ((List.range 8).map (256 + 8 * p + ·)) ++ [512 + p, 544 + p]
    ++ (s.port.filter fun x => x.2.owner == some p).flatMap fun x => [x.1, 96 + x.1]

/-- The interrupt state of a partition is cleared (R232 step 6); what configuration space holds stays. -/
def clearInterrupts (s : State) (p : Nat) : State :=
  let s := (sourcesOf s p).foldl clearSource s
  modTarget s p fun t => { msixEnable := t.msixEnable, functionMask := t.functionMask }

/-- A port of the partition is set to reach its safe state at the next class-0 landing (R232 step 7, R233). -/
def resetPort (s : State) (p : Nat) : State :=
  nextNumber (modPort s p fun q => { q with swap := none, safeDue := q.safeDue ++ [.baseLanding], txq := 0x1FFF }) p

/-- The ports of a partition. -/
def portsOf (s : State) (p : Nat) : List Nat := (s.port.filter fun x => x.2.owner == some p).map Prod.fst

/-- The partition's rings, queues, windows, channels, pages, snapshot settings and keys are removed (R232 step 8). -/
def removeObjects (s : State) (p : Nat) : State :=
  let s := (queuesOf s p).foldl (fun s x => removeQueue s x.1 x.2) s
  let s := { s with sq := s.sq.filter fun x => x.1 / 8 != p, cq := s.cq.filter fun x => x.1 / 8 != p }
  let s := { s with brg := s.brg.map fun x => if x.2.owner == some p then (x.1, {}) else x }
  let s := modSch s fun c => { c with pages := c.pages.filter fun x => x.part != p }
  let s := { s with sec := { s.sec with keys := s.sec.keys.filter fun x => x.1 < 3 || x.2.filler.toNat != p } }
  modPart s p fun x => { x with wins := [], snap := {} }

/-- The mailbox of a door after a reset of its partition (R192, R232 step 9): the page's bucket is full again; a command that firmware still carries out goes on, its response to be discarded. -/
def freshMailbox (s : State) (d : Nat) : State :=
  modMbx s d fun m =>
    let m := { m with state := .idle, version := none, locked := [] }
    if d < 32 then { m with tokens := 8000000, since := s.tb.time } else m

/-- The detail of a completion record (R497). -/
def resetDetail (s : State) (p : Nat) (r : ResetSeq) : List Byte :=
  let cells := (queuesOf s p).foldl (fun n x => n + (queueCells x.2).length) 0
  let rings := (s.sq.filter fun x => x.1 / 8 == p).length + (s.cq.filter fun x => x.1 / 8 == p).length
  leBytes 4 r.dropped ++ leBytes 2 r.ended ++ leBytes 4 cells ++ leBytes 1 rings ++ leBytes 2 (queuesOf s p).length
    ++ leBytes 1 (partOf s p).wins.length

/-- The key under which the capture registers of a partition's page are kept begins with this number (R27). -/
def pageCaptures (p : Nat) (k : Nat) : Bool := 2 ^ 24 + 2 ^ 16 * p ≤ k && k < 2 ^ 24 + 2 ^ 16 * (p + 1)

/-- The reset of a partition completes (R232 steps 4 to 9). -/
def completeReset (s : State) (p : Nat) : State :=
  match (partOf s p).reset with
  | none => s
  | some r =>
    let detail := resetDetail s p r
    let s := rewindOwned (landWrites s p) p
    let s := clearInterrupts s p
    let s := removeObjects ((portsOf s p).foldl resetPort s) p
    let s := logAlways s (resetRecord p r true detail)
    let s := { s with resetDone := s.resetDone ||| (1#32 <<< p)
                      glb := { s.glb with capture := s.glb.capture.filter fun x => !pageCaptures p x.1 } }
    let s := modPart s p fun x => { x with reset := none, cnt := bump x.cnt 5 }
    let s := partEvent (partEvent s p 4) 0 6
    let s := (doorsOf s p).foldl freshMailbox s
    r.doors.foldl (fun s d => answerLate s d 0x00 []) s

end Sys2Proof.Machine
end

