-- ==== Sys2Proof/Machine/DoorEvents.lean ====
section
/-!
DEFINITION. What reaches the device at its doors beside the registers: function-level resets, VF Enable, Bus Master Enable, the completion of a partition reset, and the safety serial port (06_control_interface.md R213 to R215; 07_partitions.md R216, R231 to R234).
-/
namespace Sys2Proof.Machine

/-! ## Functions of the host link (R216, R231) -/

/-- The configuration space of a function returns to its reset values. -/
def resetFunction (s : State) (p : Nat) : State :=
  modPart (modTarget s p fun t => { t with msixEnable := false, functionMask := false }) p fun x => { x with busMaster := false }

/-- A function-level reset of VF`p`, which exists while VF Enable is set. -/
def flrOf (s : State) (p : Nat) : State :=
  if p = 0 || !s.vfEnable then s else startReset (resetFunction s p) p { trigger := 0, part := p, door := 0 }

/-- VF_FLR (R231). -/
def execVfFlr (p : Fin 32) (s : State) : Host.Outcome State Fault Refusal := .next (whenConfig s (conclude s (flrOf s p.val)))

/-- VF Enable is cleared: each of partitions 1 to 31 is reset by its own sequence. -/
def clearVfEnable (s : State) : State :=
  if !s.vfEnable then s
  else
    ((List.range 31).map (· + 1)).foldl (fun s p => startReset (resetFunction s p) p { trigger := 3, part := 0, door := 0 })
      { s with vfEnable := false }

/-- VF_ENABLE_CLEAR (R231). -/
def execVfEnableClear (s : State) : Host.Outcome State Fault Refusal := .next (whenConfig s (conclude s (clearVfEnable s)))

/-- The pending vectors of a function whose messages nothing holds back any more (R463). -/
def releaseVectors (s : State) (p : Nat) : State :=
  let g := targetOf s p
  if g.msixEnable && !g.functionMask && (partOf s p).busMaster then
    (g.pba.filter fun v => !(msixOf s p v).ctl.getLsbD 0).foldl (fun s v => releaseVector s p v) s
  else s

/-- The host has written configuration space: VF Enable, and a function's Bus Master Enable, MSI-X Enable and Function Mask. -/
def changeDoor (s : State) (vfEnable : Bool) (p : Nat) (busMaster msixEnable functionMask : Bool) : State :=
  let s := if vfEnable then { s with vfEnable := true } else clearVfEnable s
  if p != 0 && !vfEnable then s
  else
    let s := modTarget s p fun t => { t with msixEnable := msixEnable, functionMask := functionMask }
    releaseVectors (modPart s p fun x => { x with busMaster := busMaster }) p

/-- PCIE_DOOR_CHANGE (R216). -/
def execPcieDoorChange (vfEnable : Bool) (p : Fin 32) (busMaster msixEnable functionMask : Bool) (s : State) :
    Host.Outcome State Fault Refusal :=
  .next (whenConfig s (conclude s (changeDoor s vfEnable p.val busMaster msixEnable functionMask)))

/-- PARTITION_RESET_DRAINED (R232): nothing where the partition is not being reset. -/
def execPartitionResetDrained (p : Fin 32) (s : State) : Host.Outcome State Fault Refusal :=
  .next (whenRun s (conclude s (completeReset s p.val)))

/-! ## Frames of the safety port (R213 to R215) -/

/-- `LEN` fits the type of frame. -/
def lenFits (ftype n : Nat) : Bool :=
  if ftype = 0x51 then decide (2 ≤ n) && decide (n ≤ 64) else if ftype = 0x5E then n == 1 else n == 0

/-- The frame has the bytes that its type and `LEN` give; a reply is clocked on after a FETCH or STATUS. -/
def sizeFits (ftype n size : Nat) : Bool :=
  if ftype = 0x52 ∨ ftype = 0x53 then decide (4 ≤ size) else size == 4 + 4 * n

/-- The four types of frame. -/
def knownType (ftype : Nat) : Bool := ftype == 0x51 || ftype == 0x52 || ftype == 0x53 || ftype == 0x5E

/-- The first byte of a frame. -/
def frameType (l : List Byte) : Nat := (l.getD 0 0).toNat

/-- The message words that a frame says it carries. -/
def sspLen (l : List Byte) : Nat := (l.getD 1 0).toNat

/-- The frame is well formed and its CRC is right. -/
def frameGood (l : List Byte) : Bool :=
  let n := sspLen l
  knownType (frameType l) && lenFits (frameType l) n && sizeFits (frameType l) n l.length
    && leNat ((l.drop (2 + 4 * n)).take 2) == (crc16 (l.take (2 + 4 * n))).toNat

/-- Word `k` of a frame's message. -/
def frameWord (l : List Byte) (k : Nat) : Word := wordAt (l.drop 2) k

/-- A frame is discarded and counted. -/
def countDiscard (s : State) : State := modFw s fun f => { f with discarded := f.discarded + 1 }

/-- A frame is discarded under R215: the next STATUS reply tells of it. -/
def discardFrame (s : State) : State := countDiscard (modFw s fun f => { f with crcErr := true })

/-- SSP_BSY may be high (R215): it is until `READY`, and it falls within 2 µs after the end of a FETCH or STATUS; the same is taken for every frame (log 84). -/
def mayBeBusy (s : State) : Bool := s.fw.bsySince.any fun t => decide ((s.tb.time : Int) < t + 2000)

/-- SSP_BSY has risen at the end of a frame. -/
def riseBsy (s : State) : State := modFw s fun f => { f with bsySince := some s.tb.time }

/-- A frame of a type at the safety port: discarded, of another type and so another row's, or acted on. A frame may begin while SSP_BSY is still high after the frame before. -/
def frameRow (ftype : Nat) (x : SspFrame) (f : State → State) (s : State) : Host.Outcome State Fault Refusal :=
  .next <|
    if !isRun s then s
    else if s.fw.bsy || (x.early && mayBeBusy s) || !frameGood x.bytes then riseBsy (discardFrame s)
    else if frameType x.bytes ≠ ftype then s
    else conclude s (riseBsy (f s))

/-- The reply of a type with message words. -/
def replyOf (ftype : Nat) (l : List Word) : List Byte :=
  let b := [BitVec.ofNat 8 ftype, BitVec.ofNat 8 l.length] ++ l.flatMap fun w => leBytes 4 w.toNat
  b ++ leBytes 2 (crc16 b).toNat

/-- The state with a reply driven on SSP_SDO. -/
def sendReply (s : State) (ftype : Nat) (l : List Word) : State := modFw s fun f => { f with sspRsp := replyOf ftype l }

/-- A word of the port's request buffer is written. -/
def putRequest (m : Mailbox) (k : Nat) (w : Word) : Mailbox :=
  if m.state = .pending ∨ m.state = .busy then { m with wrIgnored := true } else { m with req := tPut m.req k w }

/-- A REQUEST frame's words go to the request buffer, and its doorbell rings; an ignored one counts against the bound partition. -/
def submitFrame (s : State) (l : List Byte) : State :=
  let s := modMbx s 32 fun m => (List.range (sspLen l)).foldl (fun m k => putRequest m k (frameWord l k)) m
  doorbell s 32 fun t => match t.fw.bound with
    | some p => countGo p t
    | none => t

/-- SSP_REQUEST (R214): refused and counted behind a fence (R232) and during entry to moored (R511). -/
def execSspRequest (frame : SspFrame) (s : State) : Host.Outcome State Fault Refusal :=
  frameRow 0x51 frame (fun s => if doorFenced s 32 || s.pwr.mooring.isSome then countDiscard s else submitFrame s frame.bytes) s

/-- The message that the response buffer holds. -/
def responseMessage (m : Mailbox) : List Word :=
  (List.range (2 + fieldOf (tGet m.rsp 1 0) 16 6)).map fun k => tGet m.rsp k 0

/-- SSP_FETCH (R214). -/
def execSspFetch (frame : SspFrame) (s : State) : Host.Outcome State Fault Refusal :=
  frameRow 0x52 frame
    (fun s => sendReply s 0x52 (if (mbxOf s 32).state = .done then responseMessage (mbxOf s 32) else [])) s

/-- `STATE` of a mailbox. -/
def mbxCode : MbxState → Nat
  | .idle => 0
  | .pending => 1
  | .busy => 2
  | .done => 3

/-- `MBX_STATUS` of a door (R179). -/
def mbxStatus (s : State) (d : Nat) : Word :=
  let m := mbxOf s d
  BitVec.ofNat 32 (mbxCode m.state + (if s.fw.ready then 4 else 0) + (if m.version.isSome then 8 else 0)
    + (if doorHeld s d then 16 else 0) + (if m.dbIgnored then 2 ^ 8 else 0) + (if m.wrIgnored then 2 ^ 9 else 0)
    + ((m.version.map (·.toNat)).getD 0) * 2 ^ 16)

/-- The word of a STATUS reply: `MBX_STATUS` with `CRC_ERR` and the unbound flag. -/
def statusWord (s : State) : Word :=
  mbxStatus s 32 ||| (if s.fw.crcErr then 0x20 else 0) ||| (if s.fw.bound.isNone then 0x80 else 0)

/-- SSP_STATUS (R214): the reply clears `CRC_ERR`. -/
def execSspStatus (frame : SspFrame) (s : State) : Host.Outcome State Fault Refusal :=
  frameRow 0x53 frame (fun s => modFw (sendReply s 0x53 [statusWord s]) fun f => { f with crcErr := false }) s

/-- A RESET frame's word: the partition it resets, where the port is bound to it. -/
def resetTarget (s : State) (w : Word) : Option Nat :=
  match s.fw.bound with
  | some p => if p ≠ 0 ∧ fieldOf w 0 5 = p ∧ fieldOf w 16 16 = 0xA5C3 then some p else none
  | none => none

/-- SSP_RESET (R214, R231): any other word is discarded. -/
def execSspReset (frame : SspFrame) (s : State) : Host.Outcome State Fault Refusal :=
  frameRow 0x5E frame
    (fun s => match resetTarget s (frameWord frame.bytes 0) with
      | some p => startReset s p { trigger := 2, part := p, door := 1 }
      | none => s) s

end Sys2Proof.Machine
end

