-- ==== Sys2Proof/Machine/LandingOps.lean ====
section
/-!
DEFINITION. The steps of a landing: latch, release, swaps, publication, the snapshot sample, and dispatch (02_crossings_and_landings.md R35, R36, R48, R53 to R59; 04_voyages_and_ferry_engines.md R131; 12_port_hardware.md R377, R378, R381).
-/
namespace Sys2Proof.Machine

/-! ## Step 1: the latch (R377, R82) -/

/-- The classes that land at LSN `n`. -/
def landingClasses (s : State) (n : Nat) : List Nat := (List.range 4).filter fun c => lands s c n

/-- The port latches its input image; one without an image latches zeros with `INVALID` (R372, R377). -/
def latchImage (q : Port) (n : Nat) : Port :=
  if q.eng.state = .noImage then { q with latched := [], latchedInvalid := true, landLsn := BitVec.ofNat 32 n }
  else { q with latched := q.img.filter fun x => x.1 < imageInWords q, latchedInvalid := q.imgInvalid, landLsn := BitVec.ofNat 32 n }

/-- The latched image is kept for the voyages of every landing class (R82). -/
def keepLatched (q : Port) (classes : List Nat) : Port :=
  { q with byClass := classes.foldl (fun t c => tPut t c (q.latched, q.latchedInvalid)) q.byClass }

/-- Step 1 for one port. -/
def latchPort (classes : List Nat) (n : Nat) (q : Port) : Port :=
  if q.owner.isNone then q
  else keepLatched (if classes.contains q.xclass.toNat then latchImage q n else q) classes

/-- Step 1. -/
def latchAll (s : State) (classes : List Nat) (n : Nat) : State :=
  { s with port := s.port.map fun x => (x.1, latchPort classes n x.2) }

/-! ## Step 2: the release, or the safe state (R371, R378, R397) -/

/-- Byte `k` of the release map. -/
def releaseMap (q : Port) (k : Nat) : BitVec 8 := ((tGet q.omap (k / 4) 0) >>> (8 * (k % 4))).setWidth 8

/-- The release as far as it has come: the state, and the event lines that it pulses, with their origins. -/
structure Release where
  state : State
  pulses : List (Nat × Option (Nat × BitVec 16)) := []

/-- The value of a staging word reaches its register; what it pulses, it pulses in the landing's cycle together with every other word that is released (R378, R451). -/
def releaseTo (p d : Nat) (w : Word) (r : Release) : Release :=
  if d = 0x19 then
    { state := evPulseRest r.state p w, pulses := r.pulses ++ (evPulses r.state p w).map fun e => (e, portOrigin r.state p) }
  else { r with state := ioWrite r.state p d w }

/-- Staging word `k` is released. -/
def releaseWord (p : Nat) (r : Release) (k : Nat) : Release :=
  let q := portOf r.state p
  let m := releaseMap q k
  let d := (m &&& 0x7F).toNat
  let r := if 0x10 ≤ d ∧ d ≤ 0x6F ∧ (!m.getLsbD 7 || q.fresh.contains k) then releaseTo p d (tGet q.stg k 0) r else r
  { r with state := modPort r.state p fun q => { q with fresh := q.fresh.filter (· != k) } }

/-- Every event line that the release pulses pulses once, for all its origins (R226, R451, R453). -/
def firePulses (r : Release) : State :=
  (r.pulses.map Prod.fst).eraseDups.foldl
    (fun s e => pulseFor s e ((r.pulses.filter fun x => x.1 == e).map Prod.snd)) r.state

/-- The frames held for this landing join the ready frames (R397). -/
def launchFrames (s : State) (p n : Nat) : State :=
  modBus s p fun b => { b with tx := b.tx.map fun f => if f.held.any (· ≤ n) then { f with held := none } else f }

/-- A timer restarts at a landing of the port's class, which under `BUF` counts as a wrap (R367, R368). -/
def alignTimer (t : Timer) : Timer :=
  if t.ctl.getLsbD 5 then
    let t := { t with cnt := 0, pre := 0 }
    if timerBuf t then { t with cmp := t.nextCmp.getD t.cmp, aux := t.nextAux.getD t.aux, nextCmp := none, nextAux := none, wraps := t.wraps + 1 } else t
  else t

/-- The release of a port whose class lands. -/
def releasePort (r : Release) (p n : Nat) : Release :=
  let q := portOf r.state p
  let r := { r with state := modPort r.state p fun q => { q with timers := q.timers.map fun x => (x.1, alignTimer x.2) } }
  let r := if q.eng.state = .running then (List.range (imageOutWords q)).foldl (releaseWord p) r else r
  { r with state := launchFrames r.state p n }

/-- A safe state falls due at a landing of these classes. -/
def dueNow (classes : List Nat) : SafeDue → Bool
  | .classLanding c => classes.contains c
  | .baseLanding => true

/-- The port reaches its safe state at this landing: every commissioned port does where `all` is true. -/
def safeNow (all : Bool) (classes : List Nat) (q : Port) : Bool :=
  (all && q.owner.isSome) ||
    q.safeDue.any (dueNow classes)

/-- After a safe-state landing: what else is due stays so, and the fence of a reset that led to it ends (R356). -/
def endSafe (s : State) (p : Nat) (due : List SafeDue) : State :=
  modPort s p fun x =>
    if due.contains .baseLanding || x.fencers.any (fun o => (partOf s o).reset.isSome) then { x with safeDue := due }
    else { x with safeDue := due, fencedQs := [], fencers := [], reads := x.reads.filter fun y => !x.fencedQs.contains y.1 }

/-- Step 2 for one port. -/
def releaseOrSafe (all : Bool) (classes : List Nat) (n : Nat) (r : Release) (p : Nat) : Release :=
  let q := portOf r.state p
  if safeNow all classes q then
    { r with state := endSafe (safeState r.state p) p (q.safeDue.filter (!dueNow classes ·)) }
  else if q.owner.isSome && classes.contains q.xclass.toNat then releasePort r p n
  else r

/-- Step 2, in ascending port number. -/
def releaseAll (s : State) (all : Bool) (classes : List Nat) (n : Nat) : State :=
  firePulses ((s.port.map Prod.fst).foldl (releaseOrSafe all classes n) { state := s })

/-! ## Swaps (R381, R382) -/

/-- Every guard. -/
def allGuards : List Guard := (List.range 8).flatMap fun k => [⟨BitVec.ofNat 3 k, false⟩, ⟨BitVec.ofNat 3 k, true⟩]

/-- The fetched word, legal and read without an uncorrectable error, is a YIELD, or a WAITEV, whose guard is true: whether it executes in the landing's first cycle is not stated. -/
def atYield (q : Port) : Bool :=
  let e := q.eng
  e.mark != .bad && roridLegal (imageModeC q) e.fetched && allGuards.any fun g =>
    guardTrue e g && (e.fetched == encK g 0x3 0 false 0 ||
      (List.range 16).any fun r => e.fetched == encK g 0x4 (BitVec.ofNat 4 r) false 0 || e.fetched == encK g 0x4 (BitVec.ofNat 4 r) true 0)

/-- The engine is at a swap point in this cycle (R287), with the free value that the answer takes where the state does not decide it. -/
def swapPoint (s : State) (p : Nat) : State × Bool :=
  let e := (portOf s p).eng
  match e.state, e.wait with
  | .running, .event _ => (s, true)
  | .running, .no => if atYield (portOf s p) then (drawn s, (freeOf s).getLsbD 0) else (s, false)
  | .running, _ => (s, false)
  | _, _ => (s, true)

/-- The stalled shift units of a running port. -/
def stalledUnits (q : Port) : List Nat :=
  if q.eng.state = .running then (List.range 2).filter fun u => (shiftOf q u).stall else []

/-- Every stalled unit is aborted, and the swap remembers it. -/
def abortUnits (s : State) (p : Nat) (w : Swap) (l : List Nat) : State :=
  let s := l.foldl (fun s u => setPortFlag (abortShift s p u) p (1 + u)) s
  modPort s p fun q => { q with swap := some { w with aborted := l.foldl (fun m u => m ||| 2 ^ u) w.aborted } }

/-- The swap takes effect at landing `n`, and its record is due. -/
def finishSwap (s : State) (p n aborted : Nat) : State :=
  let old := (portOf s p).number.toNat
  let t := takeSwap s p (aborted != 0)
  logDue t (swapRecord t p old n aborted)

/-- A due swap is decided (R381 orders 2 to 4); only a VERIFIED bank becomes active (R320). -/
def decideSwap (s : State) (p n : Nat) : State :=
  match (portOf s p).swap with
  | none => s
  | some w =>
    let l := stalledUnits (portOf s p)
    let s := if l.isEmpty then s else abortUnits s p w l
    let aborted := (((portOf s p).swap).map (·.aborted)).getD 0
    let r := swapPoint s p
    if r.2 && (inactiveBank (portOf r.1 p)).st == .verified then finishSwap r.1 p n aborted else r.1

/-- A pending swap of a port whose class lands (R381). -/
def swapPort (classes : List Nat) (n : Nat) (s : State) (p : Nat) : State :=
  let q := portOf s p
  match q.swap with
  | none => s
  | some w =>
    if q.owner.isNone || !classes.contains q.xclass.toNat || n < w.due then s
    else if !(stalledUnits q).isEmpty && w.held < max 1 w.limit then
      bumpPort (modPort s p fun q => { q with swap := some { w with held := w.held + 1 }, holds := BitVec.ofNat 16 (w.held + 1) }) p 7
    else decideSwap s p n

/-- Swaps, and event 14 of every port whose class lands (R364). -/
def swapAll (s : State) (classes : List Nat) (n : Nat) : State :=
  let landed := (s.port.filter fun x => x.2.owner.isSome && classes.contains x.2.xclass.toNat).map Prod.fst
  (s.port.map Prod.fst).foldl (swapPort classes n) (landed.foldl (fun s p => pendEvent s p 14) s)

/-! ## Landing bounds (R50, R256) -/

/-- The bound of every landing class moves to the packets committed before the landing. -/
def moveBounds (s : State) (classes : List Nat) : State :=
  let move (q : Queue) : Queue := { q with bounds := classes.foldl (fun t c => tPut t c (tailOf q)) q.bounds }
  modDeck s fun d => { d with queues := d.queues.map (fun x => (x.1, move x.2)), timedTaken := 0 }

/-! ## Step 3: publication (R35, R53, R107, R122, R165, R170) -/

/-- The voyages whose held records are published at this landing: those of the landing classes. -/
def publishers (s : State) (classes : List Nat) (late : Bool) : List Nat :=
  (s.sch.voy.filter fun x => classes.contains x.2.xclass && !x.2.heldRecs.isEmpty && x.2.late == late).map Prod.fst

/-- A record with `LATE` set where `late` is true (R53, R110). -/
def markLate (late : Bool) (r : BitVec 128) : BitVec 128 := if late then r ||| (1 <<< 110) else r

/-- A held record is published, its place released into P (R168); every record of a LATE voyage is marked (R53). -/
def publishHeldRec (part m n : Nat) (late : Bool) (s : State) (r : BitVec 128) : State :=
  publish (modCq s part m fun c => { c with held := c.held - 1 }) part m (markLate late (stampRecord r n))

/-- A voyage's held records are published in order; an ended voyage is then over. -/
def publishHeld (n : Nat) (s : State) (v : Nat) : State :=
  match voyOf s v with
  | none => s
  | some x =>
    let s := x.heldRecs.foldl (publishHeldRec x.part (x.cring.getD 0) n x.late) s
    endIfDone (modVoy s v fun x => { x with heldRecs := [] }) v

/-- A voyage's record without a held place is published, or waits for room with the LSN it has (R170). -/
def publishLate (s : State) (v : Nat) (r : BitVec 128) : State :=
  match voyOf s v with
  | none => s
  | some x =>
    match x.cring with
    | none => s
    | some m =>
      match cqOf s x.part m with
      | none => s
      | some c =>
        if hasRoom c && c.late.isEmpty then publish s x.part m r
        else modCq s x.part m fun c => { c with late := c.late ++ [r], cnt := bump c.cnt 3 }

/-- A candidate that a round before landing `n` has left undecided is LATE (R120, R147). -/
def markDeferred (n : Nat) (s : State) (v : Nat) : State :=
  modVoy s v fun x => { x with late := x.late || (x.state == .candidate && decide (dueOf s x < n)) }

/-- A HALT that is due acts: a timed voyage's HALTED record is published without a held place. -/
def haltAtLanding (n : Nat) (s : State) (v : Nat) : State :=
  match voyOf s v with
  | none => s
  | some x =>
    if x.timed then haltBy (fun s _ r => finishVoy (publishLate s v (stampRecord r n)) v) (markDeferred n s v) v
    else haltVoy s v

/-- The voyages, timed or no longer timed, whose HALT acts at landing `n`, a landing of their class (R38, R165). -/
def haltsDue (s : State) (classes : List Nat) (n : Nat) (timed : Bool) : List Nat :=
  (s.sch.voy.filter fun x => x.2.timed == timed && classes.contains x.2.xclass && x.2.haltAt.any (· ≤ n)).map Prod.fst

/-- The candidates refused in the round of landing `n`. -/
def refusedAt (s : State) (n : Nat) : List Refused := s.sch.notAdmitted.filter fun x => x.lsn == n

/-- The voyages with a record that landing `n` publishes without a held place, in the order of R35: those with a LATE record first, and each group in ascending voyage ID (R170; log 122). -/
def placeless (s : State) (classes : List Nat) (n : Nat) : List Nat :=
  let halts := haltsDue s classes n true
  let late (v : Nat) : Bool :=
    ((voyOf s v).any fun x => x.late || (x.state == .candidate && decide (dueOf s x < n)))
      || (refusedAt s n).any fun x => x.vid == v && x.record.getLsbD 110
  let l := ((refusedAt s n).map (·.vid)).foldl insertNat halts
  l.filter late ++ l.filter fun v => !late v

/-- A voyage's record without a held place: the NOT_ADMITTED record of a refused candidate, or the HALTED record. -/
def publishPlaceless (n : Nat) (s : State) (v : Nat) : State :=
  match (refusedAt s n).find? fun x => x.vid == v with
  | some r =>
    let s := modSch s fun c => { c with notAdmitted := c.notAdmitted.filter fun x => x.vid != v }
    endIfDone (publishLate s v (stampRecord r.record n)) v
  | none => haltAtLanding n s v

/-- An untimed record that followed held ones is published, now that none of its voyage is held. -/
def publishFollowing (s : State) (x : Nat × BitVec 128) : State :=
  if (voyOf s x.1).any fun y => y.heldRecs.isEmpty then
    endIfDone (publishLate (modSch s fun c => { c with following := c.following.eraseP (· == x) }) x.1 x.2) x.1
  else s

/-- Step 3: LATE records, the other held records, the records without a place, then those of voyages that have become untimed (R35, R107, R165, R167, R170). -/
def publishAll (s : State) (classes : List Nat) (n : Nat) : State :=
  let s := (publishers s classes true).foldl (publishHeld n) s
  let s := (publishers s classes false).foldl (publishHeld n) s
  let untimed := haltsDue s classes n false
  let s := (placeless s classes n).foldl (publishPlaceless n) s
  let s := s.sch.following.foldl publishFollowing s
  untimed.foldl (haltAtLanding n) s

/-! ## Step 4: the snapshot (R56 to R59) -/

/-- Word 0 and word 1 of a snapshot record. -/
def snapRec (type inst k : Nat) (v : Word) : BitVec 64 := v ++ BitVec.ofNat 32 (k + inst * 2 ^ 8 + type * 2 ^ 24)

/-- The records of `n` counters of an object, with the number of the partition whose view holds them; 32 is the steward's view only, 33 every view. -/
def snapRecs (owner type inst n : Nat) (t : Tab Word) : List (Nat × BitVec 64) :=
  (List.range n).map fun k => (owner, snapRec type inst k (tGet t k 0))

/-- The view that holds an object's counters. -/
def ownerView (o : Option Nat) : Nat := o.getD 32

/-- The counters of the ports and queues. -/
def snapFirst (s : State) : List (Nat × BitVec 64) :=
  ((List.range 96).flatMap fun p =>
      let q := portOf s p
      snapRecs (ownerView q.owner) 0x01 p 32 (if domainOn s (p / 4) then q.cnt else [])) ++
    (s.deck.queues.filter fun x => x.1 < 8192).flatMap fun x => snapRecs x.2.owner 0x02 x.1 6 x.2.cnt

/-- The counters of one kind of ring, in the order of the records' first words; records whose first words are equal, those of rings with one number, stand in ascending partition number (log 97). -/
def snapRingKind (type : Nat) (cnt : Nat → Nat → Option (Tab Word)) : List (Nat × BitVec 64) :=
  (List.range 8).flatMap fun m => (List.range 4).flatMap fun k => (List.range 32).filterMap fun p =>
    (cnt p m).map fun t => (p, snapRec type m k (tGet t k 0))

/-- The counters of the rings. -/
def snapRings (s : State) : List (Nat × BitVec 64) :=
  snapRingKind 0x03 (fun p m => (sqOf s p m).map (·.cnt)) ++ snapRingKind 0x04 fun p m => (cqOf s p m).map (·.cnt)

/-- The counters of the barge channels, the partitions, the landing unit and the backbone ports. -/
def snapLast (s : State) : List (Nat × BitVec 64) :=
  ((List.range 32).flatMap fun n => snapRecs (ownerView (chanOf s n).owner) 0x05 n 6 (chanOf s n).cnt) ++
    ((List.range 32).flatMap fun p => snapRecs p 0x06 p 8 (partOf s p).cnt) ++
    snapRecs 33 0x07 0 6 s.tb.cnt ++
    (List.range 2).flatMap fun n => snapRecs 32 0x08 n 8 (if domainOn s (57 + n) then (bbOf s n).cnt else [])

/-- A snapshot falls due for partition `p` at LSN `n` (R57). -/
def snapDue (s : State) (n p : Nat) : Bool :=
  let x := (partOf s p).snap
  x.once || (x.repeatN != 0 && n % x.repeatN == 0)

/-- The partitions for which a snapshot falls due; one under reset takes none. -/
def snapParts (s : State) (n : Nat) : List Nat := (List.range 32).filter fun p => snapDue s n p && !fenced s p

/-- A partition's snapshot settings change. -/
def modSnap (s : State) (p : Nat) (f : Snapshot → Snapshot) : State := modPart s p fun x => { x with snap := f x.snap }

/-- Step 4: a due snapshot is sampled, or skipped while an export is unfinished. -/
def sampleAll (s : State) (n : Nat) : State :=
  let due := snapParts s n
  if due.isEmpty then s
  else if s.part.any fun x => x.2.snap.exporting.isSome then
    let s := due.foldl (fun s p => modSnap s p fun x => { x with once := false, skipped := true }) s
    modTb s fun t => { t with cnt := bump t.cnt 5 }
  else
    let tag := (BitVec.ofNat 64 n, BitVec.ofNat 64 s.tb.time)
    let l := snapFirst s ++ snapRings s ++ snapLast s
    let s := modTb s fun t => { t with snapRam := some (tag.1, tag.2, l) }
    due.foldl (fun s p => modSnap s p fun x =>
      { x with once := false, exporting := some tag, exSkipped := x.skipped, skipped := false, status := x.status ||| 1 }) s

/-! ## Step 5: dispatch (R48, R53, R130, R131) -/

/-- The pinned pages of a voyage are all in the cache. -/
def pagesIn (s : State) (x : Voyage) : Bool := (pinnedPages x).all fun a => (cachedPage s x.part a).isSome

/-- A timed voyage that step 5 may dispatch at landing `n`, its class being among those that land. -/
def dispatchable (n : Nat) (x : Voyage) : Bool :=
  x.timed &&
    (match x.state, x.park with
     | .admitted, _ => x.startLsn ≤ n
     | .parked, .landing => true
     | .parked, .maxEntries => true
     | .suspended, _ => x.resumeAt.any (· ≤ n)
     | _, _ => false)

/-- A voyage's budgets are set afresh (R130). -/
def freshBudgets (x : Voyage) : Voyage :=
  { x with cycles := budgetCycles x, cells := budgetCells x, bytes := budgetBytes x, reached := 0, resumeAt := none }

/-- The stage at which a voyage goes on at its landing. -/
def landingStage (x : Voyage) : Stage :=
  match x.state, x.park with
  | .parked, .landing => .woken
  | .suspended, _ => .resumed
  | _, _ => .fresh

/-- A voyage enters Ready at its landing. -/
def goReady (s : State) (v : Nat) (x : Voyage) : State :=
  wakeVoy (modVoy s v fun y => { y with saw := y.saw || x.park == .landing }) v (landingStage x)

/-- A voyage is dispatched; one whose pinned pages are not all there waits, LATE, and those pages are filled (R53, R139). -/
def dispatchOne (s : State) (vx : Nat × Voyage) : State :=
  let (v, x) := vx
  if x.state = .admitted ∧ !pagesIn s x then modVoy (requestPins s x) v fun y => { y with late := true }
  else goReady (modVoy s v freshBudgets) v x

/-- A dispatch withheld: the voyage becomes untimed (R36). -/
def withholdOne (s : State) (vx : Nat × Voyage) : State :=
  let (v, x) := vx
  let s := demote s v
  if x.park = .landing then goReady s v x else s

/-- The voyages of step 5 in the order of R131. -/
def dispatchList (s : State) (classes : List Nat) (n : Nat) : List (Nat × Voyage) :=
  let l := s.sch.voy.filter fun x => dispatchable n x.2 && classes.contains x.2.xclass
  l.foldl (fun acc x => insertBy (timedKey s x.1 x.2) x acc) []
where
  insertBy (k : Nat) (x : Nat × Voyage) : List (Nat × Voyage) → List (Nat × Voyage)
    | [] => [x]
    | y :: l => if k < timedKey s y.1 y.2 then x :: y :: l else y :: insertBy k x l

/-- The RESUMEs of a timed voyage that landing `n` brings into effect act on it, in the order in which they were taken up (R38, R104). -/
def takeResumes (n : Nat) (s : State) (vx : Nat × Voyage) : State :=
  let (v, x) := vx
  (x.resumes.filter fun r => r.1 ≤ n).foldl (fun s r => actResume s v r.2 n)
    (modVoy s v fun y => { y with resumes := y.resumes.filter fun r => n < r.1 })

/-- The RESUMEs of the timed voyages of the landing classes. -/
def resumesAt (s : State) (classes : List Nat) (n : Nat) : State :=
  (s.sch.voy.filter fun x => x.2.timed && classes.contains x.2.xclass).foldl (takeResumes n) s

/-- Step 5; with no engine in service every voyage stays in its state (R146). -/
def dispatchAll (s : State) (classes : List Nat) (n : Nat) : State :=
  let s := classes.foldl (fun s c => pulse s (448 + c) none) s
  if noEngine s then s
  else
    let s := resumesAt s classes n
    let l := dispatchList s classes n
    if gatesOpen s then l.foldl dispatchOne s else l.foldl withholdOne s

end Sys2Proof.Machine
end

