-- ==== Sys2Proof/Machine/GciPorts.lean ====
section
/-!
DEFINITION. HELLO and the commands of ports and role images (06_control_interface.md R183, R194 to R197; 10_rorid_architecture.md R316, R318, R319; 12_port_hardware.md R381; 19_onchip_memories.md R534, R539).
-/
namespace Sys2Proof.Machine

/-! ## HELLO (R183, R194) -/

/-- The versions that the firmware supports (R182). -/
def fwVersions : List Nat := [0x0200, 0x0201, 0x0300, 0x0301, 0x0302]

/-- The versions that a HELLO lists. -/
def helloVersions (s : State) (d : Nat) : List Nat :=
  (List.range (payField s d 0 0 4)).map fun i => payField s d (1 + i / 2) (16 * (i % 2)) 16

/-- The highest common version, 0 where there is none. -/
def commonVersion (s : State) (d : Nat) : Nat :=
  (fwVersions.filter fun v => (helloVersions s d).contains v).foldl max 0

/-- The payload of a HELLO's response. -/
def helloPayload (s : State) (p neg : Nat) : List Word :=
  let p6 := p + (if p = 0 then 32 else 0) + (if s.fw.slot then 2 ^ 8 else 0) + (if onTrial s then 2 ^ 9 else 0) + s.sec.svnFuse * 2 ^ 16
  [BitVec.ofNat 32 (neg + 5 * 2 ^ 16), 0x02010200, 0x03010300, 0x00000302, fwWord s s.fw.slot 3, 0x019620B1, BitVec.ofNat 32 p6]

/-- The word of a HELLO whose second half no version uses. -/
def helloHalf (s : State) (d : Nat) : Nat := 1 + payField s d 0 0 4 / 2

/-- A HELLO that counts 1 to 8 versions: the session it opens, or the end of the session (R183, R184); one that a reset of its partition has outlived opens none (R192). -/
def hello (s : State) (d p : Nat) : GciOut :=
  let neg := commonVersion s d
  let t := modMbx s d fun m =>
    { m with version := if m.state == .busy && neg != 0 then some (BitVec.ofNat 16 neg) else if m.state == .busy then none else m.version }
  if neg = 0 then .fail t 0x01 (helloPayload s p neg) else .done t (helloPayload s p neg)

/-- HELLO (R183). -/
def execGHello (d : Door) (s : State) : Host.Outcome State Fault Refusal :=
  gciRow 0x0001 false false anyForm (fun s d p =>
    checked
      [badWord s d 0 0xF (payField s d 0 0 4 == 0 || decide (8 < payField s d 0 0 4)),
       (payField s d 0 0 4 % 2 == 1 && payField s d (helloHalf s d) 16 16 != 0, .badField (helloHalf s d + 2))]
      fun _ => hello s d p) d s

/-! ## Commissions (R195, R196) -/

/-- The mask of p1 of a command with `EXPECT` and `EXP_EN` (R195). -/
def expectMask (s : State) (d : Nat) : Word := if v30 ≤ versionOf s d then 0x1FFFF else 0

/-- The port's number is not the one expected (R195). -/
def stale (s : State) (d p : Nat) : Bool :=
  (pay s d 1).getLsbD 16 && payField s d 1 0 16 != (portOf s p).number.toNat

/-- The port has a commission. -/
def commissioned (s : State) (p : Nat) : Bool := (portOf s p).owner.isSome

/-- The owner of a port was being reset (R192). -/
def ownerFenced (s : State) (p : Nat) : Bool := (portOf s p).owner.any (named s)

/-- The response that carries a port's commission number. -/
def numberOf (s : State) (p : Nat) : List Word := [(portOf s p).number.setWidth 32]

/-- A port is commissioned, or its commission changed. -/
def portCommission (s : State) (d _p : Nat) : GciOut :=
  let n := payPort s d
  let owner := payField s d 0 8 5
  checked
    [badWord s d 0 0x1FFF7F7F (decide (95 < n)), badWord s d 1 (expectMask s d) false,
     (named s owner || ownerFenced s n, .no 0x0B), (commissioned s n && (portOf s n).owner != some owner, .no 0x08),
     (!domainOn s (n / 4), .no 0x0C), (stale s d n, .no 0x0E)]
    fun _ =>
      let t := takeCommission s n owner (BitVec.ofNat 2 (payField s d 0 13 2)) (BitVec.ofNat 13 (payField s d 0 16 13))
      .done t (numberOf t n)

/-- PORT_COMMISSION (R196). -/
def execGPortCommission (d : Door) (s : State) : Host.Outcome State Fault Refusal :=
  gciRow 0x0010 true true anyForm portCommission d s

/-- A port's commission is removed. -/
def portDecommission (s : State) (d _p : Nat) : GciOut :=
  let n := payPort s d
  checked
    [badWord s d 0 0x7F (decide (95 < n)), badWord s d 1 (expectMask s d) false,
     (ownerFenced s n, .no 0x0B), (!commissioned s n, .no 0x09), (stale s d n, .no 0x0E)]
    fun _ =>
      let t := dropCommission s n
      .done t (numberOf t n)

/-- PORT_DECOMMISSION (R196). -/
def execGPortDecommission (d : Door) (s : State) : Host.Outcome State Fault Refusal :=
  gciRow 0x0011 true true anyForm portDecommission d s

/-! ## Role images (R197, R316, R534) -/

/-- The image lies in the staging bank's quarter, and the bank is out of retention (R538); the flag tells that a word of it cannot be read back (R539). -/
def stageImage (s : State) (n : Nat) (l : List Byte) : State × Bool :=
  match stagingBank s n with
  | none => (s, false)
  | some b =>
    let o := 65536 * (n % 4)
    let l := l.take 65536
    let s := modBank s b fun x => { rewriteWords x o l.length with ret := false, leaving := false }
    let s := { s with bankMem := memPut s.bankMem (2 ^ 18 * b + o) l }
    let hit := (bankOf s b).bad.find? fun k => o ≤ 8 * k + 7 && 8 * k < o + l.length
    match hit with
    | some k => (bankError s b k, true)
    | none => (s, false)

/-- INTERNAL: its diagnostic code is a free value (R187). -/
def internal (s : State) : GciOut := .fail (drawn s) 0xFF [freeOf s]

/-- The image has been read: it is staged, checked and loaded (R197, R316, R478); the bank is EMPTY in `s`. -/
def loadImage (s : State) (n p : Nat) (l : List Byte) : GciOut :=
  let r := stageImage s n l
  if r.2 then internal r.1
  else
    match imageFail l with
    | some k => .fail r.1 0x05 [BitVec.ofNat 32 k]
    | none =>
      if !imageSigned s p l then .fail r.1 0x40 []
      else if logFull s then .fail r.1 0x41 []
      else .done (setInactive r.1 n (loadedBank l)) ((List.range 8).map (wordAt (imageDigest l)))

/-- The bytes that a command names in memory, read through the partition's windows: WINDOW, INTERNAL where they cannot be read correctly, or what follows. -/
def withBytes (s : State) (p a n : Nat) (refused : State → GciOut) (f : State → List Byte → GciOut) : GciOut :=
  if n = 0 then f s []
  else
    let r := readFor s p a n .read
    match r.2 with
    | some _ => refused r.1.state
    | none => if r.1.loss.isSome then internal r.1.state else f r.1.state r.1.bytes

/-- A port's role image is loaded; whether it begins was settled when it was taken up, and one that did not then is refused (R288, R319). -/
def roleImageLoad (s : State) (d p : Nat) : GciOut :=
  let n := payPort s d
  if (portOf s n).loading != some d then checked (loadChecks s d p) fun _ => .no 0x0C
  else
      withBytes (endLoad s n) p (pay64 s d 1) (payField s d 3 0 18) (fun t => .fail t 0x0F []) fun t l => loadImage t n p l

/-- ROLE_IMAGE_LOAD (R197). -/
def execGRoleImageLoad (d : Door) (s : State) : Host.Outcome State Fault Refusal :=
  gciRow 0x0012 false true anyForm roleImageLoad d s

/-- A swap is made pending. -/
def roleImageSwap (s : State) (d p : Nat) : GciOut :=
  let n := payPort s d
  let q := portOf s n
  let v := versionOf s d
  checked
    [(portDenied s n p, .no 0x06), badWord s d 0 (if v32 ≤ v then 0x00FFFF7F else 0x7F) (decide (95 < n)),
     badWord s d 1 (expectMask s d) false, ((inactiveBank q).st != .verified, .no 0x09), (q.swap.isSome, .no 0x0C),
     (stale s d n, .no 0x0E)]
    fun _ =>
      let due := dueLsn s q.xclass.toNat
      let t := modPort s n fun q => { q with swap := some { due := due, limit := payField s d 0 8 16 }, holds := 0 }
      .done t [BitVec.ofNat 32 due, (q.number + 1).setWidth 32]

/-- ROLE_IMAGE_SWAP (R197, R381). -/
def execGRoleImageSwap (d : Door) (s : State) : Host.Outcome State Fault Refusal :=
  gciRow 0x0013 false true anyForm roleImageSwap d s

end Sys2Proof.Machine
end

