-- ==== Sys2Proof/Machine/Firmware.lean ====
section
/-!
DEFINITION. Firmware updates: the slot that is not running is erased, programmed, verified, marked TRIAL and confirmed (06_control_interface.md R209 to R212; 17_security_and_logbook.md R475 to R477).
-/
namespace Sys2Proof.Machine

/-! ## The other slot -/

/-- The slot that is not running is erased. -/
def eraseOther (s : State) : State :=
  modFw s fun f => { f with flash := memClear f.flash (slotBase !f.slot) 0x100000 }

/-- An update is open. -/
def updateOpen (s : State) : Bool := s.fw.update.isSome

/-- The state with the open update changed. -/
def modUpdate (s : State) (f : FwUpdate → FwUpdate) : State := modFw s fun x => { x with update := x.update.map f }

/-! ## FW_UPDATE_BEGIN (R210) -/

/-- An update is opened, and the erase begins. -/
def updateBegin (s : State) (d _p : Nat) : GciOut :=
  let n := payField s d 0 0 21
  let svn := payField s d 1 0 7
  checked
    [badWord s d 0 0x1FFFFF (decide (n < 4096) || decide (1048576 < n) || n % 4096 != 0),
     badWord s d 1 0x7F (decide (svn < s.sec.svnFuse)), (updateOpen s, .no 0x08)]
    fun _ => .done (modFw s fun f => { f with update := some { length := n, svn := BitVec.ofNat 7 svn } }) []

/-- FW_UPDATE_BEGIN (R210). -/
def execGFwUpdateBegin (d : Door) (s : State) : Host.Outcome State Fault Refusal :=
  gciRow 0x00A0 true true anyForm updateBegin d s

/-! ## FW_UPDATE_CHUNK and the work behind it (R210) -/

/-- The bytes that the next chunk must have. -/
def chunkBytes (u : FwUpdate) : Nat := min 4096 (u.length - u.accepted)

/-- `OFFSET` is not what has been accepted. -/
def offsetBad (s : State) (n : Nat) : Bool := s.fw.update.any fun u => n != u.accepted

/-- `LENGTH` is not that of the next chunk. -/
def chunkBad (s : State) (n : Nat) : Bool := n == 0 || s.fw.update.any fun u => n != chunkBytes u

/-- The erase is unfinished, or both staging buffers are full. -/
def stagingFull (s : State) : Bool := s.fw.update.any fun u => u.erasing || decide (2 ≤ u.staged.length)

/-- A chunk is copied into a staging buffer. -/
def updateChunk (s : State) (d p : Nat) : GciOut :=
  let o := payField s d 0 0 21
  let n := payField s d 3 0 13
  checked
    [badWord s d 0 0x1FFFFF (offsetBad s o), badWord s d 3 0x1FFF (chunkBad s n), (!updateOpen s, .no 0x09),
     (stagingFull s, .no 0x0C)]
    fun _ =>
      withBytes s p (pay64 s d 1) n (fun t => .fail t 0x0F []) fun t l =>
        .done (modUpdate t fun u => { u with accepted := u.accepted + n, staged := u.staged ++ [(o, l)] }) []

/-- FW_UPDATE_CHUNK (R210). -/
def execGFwUpdateChunk (d : Door) (s : State) : Host.Outcome State Fault Refusal :=
  gciRow 0x00A1 true false anyForm updateChunk d s

/-- The erase is finished, or the oldest staging buffer is programmed. -/
def flashWork (s : State) (u : FwUpdate) : State :=
  if u.erasing then modUpdate (eraseOther s) fun u => { u with erasing := false }
  else
    match u.staged with
    | [] => s
    | (o, l) :: rest =>
      modUpdate (modFw s fun f => { f with flash := memPut f.flash (slotBase (!f.slot) + o) l }) fun u => { u with staged := rest }

/-- FW_FLASH_BACKGROUND_DONE (R210): nothing where no update is open. -/
def execFwFlashBackgroundDone (s : State) : Host.Outcome State Fault Refusal :=
  .next <|
    match (if isRun s && s.fw.running then s.fw.update else none) with
    | none => s
    | some u => flashWork s u

/-! ## FW_UPDATE_COMMIT (R211) -/

/-- `MODE` of FW_UPDATE_COMMIT. -/
def commitMode (s : State) (d : Nat) : Nat := payField s d 0 0 2

/-- Erasing and programming have finished. -/
def flashQuiet (s : State) : Bool := s.fw.update.all fun u => !u.erasing && u.staged.isEmpty

/-- The image in the other slot passes: as the boot ROM checks it, and with the `SVN` given. -/
def imagePasses (s : State) (u : FwUpdate) : Bool := fwPasses s (!s.fw.slot) && fwSvn s (!s.fw.slot) == u.svn.toNat

/-- Mode 0: the slot is verified and marked TRIAL; one that fails is left erased. -/
def updateCommit (s : State) (d _p : Nat) : GciOut :=
  checked [badWord s d 0 3 (commitMode s d != 0)]
    fun _ =>
      match s.fw.update with
      | none => .no 0x09
      | some u =>
        if imagePasses s u then .done (modFw s fun f => { f with trial := some (!f.slot), trialTried := false, update := none }) []
        else .fail (eraseOther s) 0x40 []

/-- FW_UPDATE_COMMIT mode 0, once programming has finished (R211). -/
def execGFwUpdateCommit (d : Door) (s : State) : Host.Outcome State Fault Refusal :=
  gciRow 0x00A2 true true
    (fun s d => commitMode s d == 3 || (commitMode s d == 0 && flashQuiet s)) updateCommit d s

/-- The refusal of mode 1 outside a trial: whether the field or the trial is at fault is not stated. -/
def noTrial (s : State) : GciOut := if (freeOf s).getLsbD 0 then .fail (drawn s) 0x05 [2] else .fail (drawn s) 0x09 []

/-- Mode 1: the running slot becomes permanent, fuses are blown, and a BOOT record follows (R497). -/
def updateConfirm (s : State) (d _p : Nat) : GciOut :=
  checked [badWord s d 0 3 false, (!onTrial s, noTrial s)]
    fun _ =>
      let t := modFw s fun f => { f with permanent := f.slot, trial := none }
      .done (logDue { t with sec := { t.sec with svnFuse := max t.sec.svnFuse (fwSvn s s.fw.slot) } } (bootDraft s 2 0)) []

/-- FW_UPDATE_COMMIT mode 1 (R211). -/
def execGFwUpdateConfirm (d : Door) (s : State) : Host.Outcome State Fault Refusal :=
  gciRow 0x00A2 true true (fun s d => commitMode s d == 1) updateConfirm d s

/-- Mode 2: an open update is closed. -/
def updateAbandon (s : State) (d _p : Nat) : GciOut :=
  checked [badWord s d 0 3 false, (!updateOpen s, .no 0x09)]
    fun _ => .done (modFw (eraseOther s) fun f => { f with update := none }) []

/-- FW_UPDATE_COMMIT mode 2 (R211). -/
def execGFwUpdateAbandon (d : Door) (s : State) : Host.Outcome State Fault Refusal :=
  gciRow 0x00A2 true true (fun s d => commitMode s d == 2) updateAbandon d s

end Sys2Proof.Machine
end

