-- ==== Sys2Proof/Machine/Snapshots.lean ====
section
/-!
DEFINITION. The export of a snapshot to a partition's buffer (02_crossings_and_landings.md R58, R59; 20_register_map.md R553).
-/
namespace Sys2Proof.Machine

/-- The records of a partition's view: the steward's holds all of them. -/
def viewOf (p : Nat) (l : List (Nat × BitVec 64)) : List (BitVec 64) :=
  (l.filter fun x => p == 0 || x.1 == p || x.1 == 33).map Prod.snd

/-- The records that fit a buffer after the header. -/
def fitting (length count : Nat) : Nat := min count ((length - 64) / 8)

/-- The 64-byte header (R59). -/
def snapHeader (lsn time : BitVec 64) (p count : Nat) (truncated skipped : Bool) : List Byte :=
  leBytes 4 (0x5D4E + 2 ^ 16)
    ++ leBytes 4 ((if truncated then 1 else 0) + (if skipped then 2 else 0) + (if p = 0 then 4 else 0))
    ++ leBytes 8 lsn.toNat ++ leBytes 8 time.toNat ++ leBytes 4 count ++ leBytes 4 p ++ List.replicate 0x20 0

/-- A partition's export: its bytes, and whether the view is truncated; the buffer is the one that the partition has now (log 98). -/
def exportBytes (s : State) (p : Nat) (tag : BitVec 64 × BitVec 64) : List Byte × Bool :=
  let x := (partOf s p).snap
  let l := match s.tb.snapRam with
    | some (_, _, l) => viewOf p l
    | none => []
  let n := fitting x.length l.length
  let truncated := decide (n < l.length)
  ((snapHeader tag.1 tag.2 p n truncated x.exSkipped ++ (l.take n).flatMap fun r => leBytes 8 r.toNat).take x.length, truncated)

/-- How the writing of an export comes out. -/
inductive ExportOut where
  | done (s : State)
  | fault (s : State)
  | asleep (b : Nat)

/-- The export's bursts, each translated when it is issued (R58, R222). -/
def exportBursts : Nat → State → Nat → Nat → List Byte → ExportOut
  | 0, s, _, _, _ => .done s
  | k + 1, s, p, a, l =>
    if l.isEmpty then .done s
    else
      match windowFail s p a 1 .write, asleepAt s p a, windowAt s p a with
      | none, none, some w =>
        let m := min (blockLeft w a) l.length
        exportBursts k (storeBytes s w a (l.take m)) p (a + m) (l.drop m)
      | none, some b, _ => .asleep b
      | _, _, _ => .fault (countRefused s p)

/-- A partition's status after its export; the event follows (R553). -/
def closeExport (s : State) (p : Nat) (lsn : BitVec 64) (truncated fault : Bool) : State :=
  let s := modSnap s p fun x =>
    { x with exporting := none, exSkipped := false, lsn := lsn.setWidth 32,
             status := BitVec.ofNat 4 ((if truncated then 2 else 0) + (if x.exSkipped then 4 else 0) + (if fault then 8 else 0)) }
  partEvent s p 2

/-- A partition's export is carried out, whole, in the buffer that the partition has by then: which buffer an export takes that a SNAPSHOT_REQUEST overtakes is not stated (log 98). -/
def exportTo (s : State) (p : Nat) (tag : BitVec 64 × BitVec 64) : State :=
  let x := exportBytes s p tag
  match exportBursts (x.1.length + 1) s p (partOf s p).snap.buffer x.1 with
  | .done s => closeExport s p tag.1 x.2 false
  | .fault s => closeExport s p tag.1 x.2 true
  | .asleep b => wakeBank s b

/-- SNAPSHOT_EXPORT_DONE (R58): the export of partition `p` reaches its end. -/
def execSnapshotExportDone (p : Fin 32) (s : State) : Host.Outcome State Fault Refusal :=
  .next <|
    match (if bargeGate s then (partOf s p).snap.exporting else none) with
    | some tag => conclude s (exportTo s p tag)
    | none => s

end Sys2Proof.Machine
end

