-- ==== Sys2Proof/Machine/GciKeys.lean ====
section
/-!
DEFINITION. The commands of keys, the logbook and snapshots (06_control_interface.md R205, R206; 17_security_and_logbook.md R479 to R483, R500 to R502; 02_crossings_and_landings.md R57, R58).
-/
namespace Sys2Proof.Machine

/-! ## Key slots (R479, R480) -/

/-- The bytes of a key of a kind, none for a reserved one. -/
def keyBytes : Nat → Option Nat
  | 1 => some 16
  | 2 => some 32
  | 3 => some 32
  | 4 => some 16
  | 5 => some 32
  | 6 => some 64
  | 7 => some 32
  | _ => none

/-- The state with a key slot filled. -/
def fillSlot (s : State) (n : Nat) (k : KeySlot) : State := { s with sec := { s.sec with keys := tPut s.sec.keys n k } }

/-- The slot holds a key. -/
def slotFull (s : State) (n : Nat) : Bool := (slotOf s n).kind != 0

/-! ## KEY_IMPORT (R481, R482) -/

/-- The layout of a wrapped key for a command's `KIND` and `SLOT` (R481). -/
def wrapFormOk (l : List Byte) (kind slot : Nat) : Bool :=
  wordAt l 0 == 0x0001574B && wordAt l 1 == BitVec.ofNat 32 (kind + slot * 2 ^ 8) && wordAt l 7 == 0
    && BitVec.ofNat 64 (leNat ((l.drop 8).take 8)) == Config.devSerial

/-- The nonce of a wrapped key. -/
def wrapNonce (l : List Byte) : List Byte := (l.drop 0x10).take 12

/-- The key that a wrapped key holds under a wrapping key, or none where unwrapping fails (R481). -/
def unwrap (key l : List Byte) (kind slot : Nat) : Option (List Byte) :=
  match keyBytes kind with
  | none => none
  | some n =>
    let ct := (l.drop 0x20).take n
    let tag := (l.drop (0x20 + n)).take 16
    let iv := wrapNonce l
    if l.length ≠ 48 + n ∨ !wrapFormOk l kind slot then none
    else if gcmTag key iv (l.take 0x20) ct ≠ tag then none
    else
      let m := gcmCrypt key iv ct
      if kind = 6 && !onCurve m then none else some m

/-- The key that the bootstrap import holds in clear (R482). -/
def unwrapClear (l : List Byte) : Option (List Byte) :=
  let zero (b : List Byte) : Bool := b.all (· == 0)
  if l.length = 80 ∧ wrapFormOk l 3 1 ∧ zero (wrapNonce l) ∧ zero (l.drop 64) then some ((l.drop 0x20).take 32) else none

/-- The fields of KEY_IMPORT: `SLOT`, `WRAP`, `KIND`. -/
def importSlot (s : State) (d : Nat) : Nat := payField s d 0 0 6
def importWrap (s : State) (d : Nat) : Nat := payField s d 0 8 6
def importKind (s : State) (d : Nat) : Nat := payField s d 0 16 4

/-- The form of R482: the steward fills slot 1, which is its own wrapping slot, while `KEK_SET` is 0. -/
def isBootstrap (s : State) (d : Nat) : Bool :=
  doorPart s d == some 0 && !s.sec.kekSet && importSlot s d == 1 && importWrap s d == 1

/-- `KIND` names no key. -/
def kindBad (n : Nat) : Bool := (keyBytes n).isNone

/-- The wrapped key is read: none where its length is wrong. -/
def wrapBytes (s : State) (d p n : Nat) (f : State → List Byte → GciOut) : GciOut :=
  let a := pay64 s d 1
  let len := (pay s d 3).toNat
  if !reachable s p a len .read then .fail (countRefused s p) 0x0F []
  else if len ≠ n then .no 0x40
  else withBytes s p a n (fun t => .fail t 0x0F []) f

/-- A key is imported. -/
def keyImport (s : State) (d p : Nat) : GciOut :=
  let n := importSlot s d
  let w := importWrap s d
  let kind := importKind s d
  checked
    [(n == 2 || n == 1 || !maySlot s p n, .no 0x06), ((slotOf s w).kind != 3 || !(w == 1 || maySlot s p w), .no 0x06),
     badWord s d 0 0x000F3F3F (kindBad kind), (slotFull s n, .no 0x08)]
    fun _ =>
      wrapBytes s d p (48 + (keyBytes kind).getD 0) fun t l =>
        match unwrap (slotOf s w).material l kind n with
        | none => .fail t 0x40 []
        | some m => .done (fillSlot t n { kind := BitVec.ofNat 4 kind, filler := BitVec.ofNat 5 p, material := m }) []

/-- KEY_IMPORT under a wrapping key (R481). -/
def execGKeyImport (d : Door) (s : State) : Host.Outcome State Fault Refusal :=
  gciRow 0x0050 false true (fun s d => !isBootstrap s d) keyImport d s

/-- The key-wrapping key is filled in clear, once (R482). -/
def kekBootstrap (s : State) (d p : Nat) : GciOut :=
  let kind := importKind s d
  checked [badWord s d 0 0x000F3F3F (kindBad kind), (slotFull s 1, .no 0x08)]
    fun _ =>
      wrapBytes s d p 80 fun t l =>
        match (if kind = 3 then unwrapClear l else none) with
        | none => .fail t 0x40 []
        | some m =>
          let t := fillSlot t 1 { kind := 3, filler := BitVec.ofNat 5 p, persist := true, material := m }
          .done { t with sec := { t.sec with kekSet := true } } []

/-- KEY_IMPORT of slot 1 in clear (R482). -/
def execGKekBootstrapImport (d : Door) (s : State) : Host.Outcome State Fault Refusal :=
  gciRow 0x0050 false true isBootstrap kekBootstrap d s

/-! ## KEY_DERIVE (R483) -/

/-- A key is derived. -/
def keyDerive (s : State) (d p : Nat) : GciOut :=
  let src := payField s d 0 0 6
  let dst := payField s d 0 8 6
  let kind := payField s d 0 16 4
  let n := payField s d 0 24 6
  checked
    [(!maySlot s p src || (slotOf s src).kind != 7 || dst == 2 || dst == 1 || !maySlot s p dst, .no 0x06),
     badWord s d 0 0x3F0F3F3F (kindBad kind || kind == 6 || decide (32 < n)), (slotFull s dst, .no 0x08)]
    fun _ =>
      let label := ((List.range 8).flatMap fun k => leBytes 4 (pay s d (1 + k)).toNat).take n
      let m := kdf (slotOf s src).material label ((keyBytes kind).getD 0)
      .done (fillSlot s dst { kind := BitVec.ofNat 4 kind, filler := BitVec.ofNat 5 p, material := m }) []

/-- KEY_DERIVE (R483). -/
def execGKeyDerive (d : Door) (s : State) : Host.Outcome State Fault Refusal :=
  gciRow 0x0051 false true anyForm keyDerive d s

/-! ## LOG_READ and LOG_SEAL (R500, R501) -/

/-- The sequence number of the oldest record held. -/
def oldestSeq (l : Logbook) : Nat := l.next - l.ring.length

/-- The sequence number before which records can be read: that of the first seal group whose signature is unwritten. -/
def readableTo (l : Logbook) : Nat := ((l.seals.head?).map (·.head)).getD l.next

/-- `n` records from a sequence number on. -/
def recordsAt (l : Logbook) (first n : Nat) : List (BitVec 256) := (l.ring.drop (first - oldestSeq l)).take n

/-- The two words of a 64-bit value. -/
def wordsOf (n : Nat) : List Word := [BitVec.ofNat 32 n, BitVec.ofNat 32 (n / 2 ^ 32)]

/-- Records are written to a buffer, and the export mark moves to `NEXT`. -/
def logRead (s : State) (d p : Nat) : GciOut :=
  let first := pay64 s d 0
  let count := payField s d 2 0 13
  let a := pay64 s d 3
  let len := (pay s d 5).toNat
  let l := s.log
  checked
    [(decide (l.next < first), .badField 2), badWord s d 2 0x1FFF (count == 0 || decide (4096 < count)),
     (decide (first < oldestSeq l), .no 0x09), (!reachable s p a len .write, windowRefused s p)]
    fun _ =>
      let n := min count (min (len / 32) (readableTo l - first))
      let t := if n = 0 then s else (writeFor s p a ((recordsAt l first n).flatMap fun r => leBytes 32 r.toNat)).1
      let t := if first ≤ l.mark then modLog t fun l => { l with mark := first + n } else t
      .done t ([BitVec.ofNat 32 n] ++ wordsOf (first + n) ++ [BitVec.ofNat 32 (unexported t)])

/-- LOG_READ (R501). -/
def execGLogRead (d : Door) (s : State) : Host.Outcome State Fault Refusal :=
  gciRow 0x0060 true false anyForm logRead d s

/-- The chain has not grown since the last group: the command is answered with that group. -/
def joinGroup (s : State) (d : Nat) : GciOut :=
  match s.log.seals.getLast? with
  | none => .done s (wordsOf (s.log.next - 5))
  | some g => .wait (modLog s fun l => { l with seals := l.seals.dropLast ++ [{ g with doors := g.doors ++ [d] }] })

/-- A seal group is placed, unless the chain has not grown since the last one (R500); a gap record goes before it (R502). -/
def logSeal (s : State) (d _p : Nat) : GciOut :=
  let t := logFlush s
  if t.log.sinceSeal = 0 then joinGroup t d
  else
    let r := logMake t 4
    if !r.2 then internal r.1
    else if r.1.log.sinceSeal = 0 then joinGroup r.1 d
    else .wait (sealPlace r.1 [d])

/-- LOG_SEAL (R500): answered once the signature is written. -/
def execGLogSeal (d : Door) (s : State) : Host.Outcome State Fault Refusal :=
  gciRow 0x0061 true false anyForm logSeal d s

/-! ## SNAPSHOT_REQUEST (R57, R58) -/

/-- The LSN of the next class-0 landing, of the running schedule or of the one that starts first. -/
def nextLandingLsn (s : State) : Nat :=
  match s.tb.start with
  | some st => if st.s ≤ nextNominal s then 0 else nextLsn s
  | none => nextLsn s

/-- A partition's snapshot settings are replaced; the landing is stated for a one-shot request alone. -/
def snapshotRequest (s : State) (d p : Nat) : GciOut :=
  let once := (pay s d 0).getLsbD 0
  let a := pay64 s d 1
  let len := (pay s d 3).toNat
  checked
    [badWord s d 0 (if v30 ≤ versionOf s d then 0xFFFF0001 else 1) false,
     (!domainOn s 63 && (once || payField s d 0 16 16 != 0), .no 0x0C), (!reachable s p a len .write, windowRefused s p)]
    fun _ =>
      let n := payField s d 0 16 16
      let t := modSnap s p fun x => { x with once := x.once || once, repeatN := n, buffer := a, length := len }
      if once then .done t [BitVec.ofNat 32 (nextLandingLsn s)] else .done (drawn t) [freeOf t]

/-- SNAPSHOT_REQUEST (R57). -/
def execGSnapshotRequest (d : Door) (s : State) : Host.Outcome State Fault Refusal :=
  gciRow 0x0070 false false anyForm snapshotRequest d s

end Sys2Proof.Machine
end

