-- ==== Sys2Proof/Machine/GciEndpoints.lean ====
section
/-!
DEFINITION. IDENTITY_SCAN and ENDPOINT_SET (06_control_interface.md R207; 14_endpoints_and_identity.md R412 to R414, R423 to R427; 17_security_and_logbook.md R490).
-/
namespace Sys2Proof.Machine

/-! ## IDENTITY_SCAN (R423 to R427) -/

/-- The place of a memory: 16 times its bus plus its place on the bus. -/
def placeOfMem (m : IdMemory) : Nat := 16 * m.bus.val + m.addr.val

/-- The memories found on the buses of a mask, in result order: buses ascending, addresses ascending. -/
def memoriesOn (mask : Nat) (l : List IdMemory) : List IdMemory :=
  (List.range 128).filterMap fun k => if mask.testBit (k / 16) then l.find? fun m => placeOfMem m == k else none

/-- The first 64 bytes as read; those that were not read are free values. -/
def asRead (s : State) (i : Nat) (m : IdMemory) : List Byte :=
  m.bytes ++ (List.range (64 - m.bytes.length)).map fun j => (Config.freeWord (s.freeCtr + 64 * i + j)).setWidth 8

/-- The result of a memory found. -/
def identityOf (s : State) (i : Nat) (m : IdMemory) : Identity :=
  let reason := idReason s m.complete m.bytes
  let l := asRead s i m
  let known := 2 < reason || reason == 0
  { reason := BitVec.ofNat 8 reason,
    cls := if known then BitVec.ofNat 16 (idClass l) else 0, maker := if known then BitVec.ofNat 16 (idMaker l) else 0,
    hwRev := BitVec.ofNat 16 (idHwRev l), neg := if reason = 0 then BitVec.ofNat 16 (idAgreed m.bytes) else 0,
    calLen := if reason = 0 then BitVec.ofNat 10 (idCalLen m.bytes) else 0, serial := idSerial l }

/-- The calibration block of a memory with its padding to 8 bytes. -/
def calBlock (m : IdMemory) (x : Identity) : List Byte :=
  let n := x.calLen.toNat
  (m.bytes.drop 0x40).take n ++ List.replicate ((8 - n % 8) % 8) 0

/-- The 32 bytes of a result (R426). -/
def resultBytes (m : IdMemory) (x : Identity) (off : Nat) : List Byte :=
  leBytes 4 (m.bus.val + (0x50 + m.addr.val) * 2 ^ 8 + (if x.reason = 0 then 2 ^ 16 else 0) + x.reason.toNat * 2 ^ 24)
    ++ leBytes 2 x.cls.toNat ++ leBytes 2 x.maker.toNat ++ leBytes 2 x.hwRev.toNat ++ leBytes 2 x.neg.toNat
    ++ leBytes 2 x.calLen.toNat ++ leBytes 2 off ++ leBytes 8 x.serial.toNat ++ leBytes 8 0

/-- The result buffer as it fills: the results so far, the calibration blocks so far, and whether one found no room. -/
structure ScanBuffer where
  results : List Byte := []
  cals : List Byte := []
  cut : Bool := false

/-- One result, and its calibration block behind all results, where the buffer holds them. -/
def addResult (len base : Nat) (b : ScanBuffer) (x : IdMemory × Identity) : ScanBuffer :=
  let cal := calBlock x.1 x.2
  let off := base + b.cals.length
  let fits := !cal.isEmpty && !b.cut && decide (off + cal.length ≤ len)
  { results := b.results ++ resultBytes x.1 x.2 (if fits then off else 0),
    cals := if fits then b.cals ++ cal else b.cals,
    cut := b.cut || (!cal.isEmpty && !fits) }

/-- The bytes that a scan writes to a buffer of `len` bytes (R426). -/
def scanBytes (len : Nat) (l : List (IdMemory × Identity)) : List Byte :=
  let n := min l.length ((len - 16) / 32)
  let b := (l.take n).foldl (addResult len (16 + 32 * n)) { cut := decide (n < l.length) }
  let head := leBytes 4 (0x4953 + n * 2 ^ 16 + if b.cut then 2 ^ 24 else 0) ++ List.replicate 12 0
  if len < 16 then [] else head ++ b.results ++ b.cals

/-- The identity table with the results of the scanned buses. -/
def newTable (s : State) (mask : Nat) (l : List (IdMemory × Identity)) : Tab Identity :=
  l.foldl (fun t x => tPut t (placeOfMem x.1) x.2) (s.ep.ident.filter fun x => !mask.testBit (x.1 / 16))

/-- The ports whose identity result differs between two tables. -/
def changedPorts (a b : Tab Identity) : List Nat := (List.range 96).filter fun p => tFind a (memoryOf p) != tFind b (memoryOf p)

/-- The table is replaced, and the entries of the ports whose result changed are re-evaluated (R427). -/
def replaceTable (s : State) (t : Tab Identity) : State :=
  (changedPorts s.ep.ident t).foldl reviewPort { s with ep := { s.ep with ident := t } }

/-- The buses are scanned; the record of the command carries the three counts. -/
def identityScan (mems : List IdMemory) (s : State) (d p : Nat) : GciOut :=
  let mask := payField s d 0 0 8
  let a := pay64 s d 1
  let len := (pay s d 3).toNat
  checked [badWord s d 0 0xFF false, (!domainOn s 61, .no 0x0C), (!reachable s p a len .write, windowRefused s p)]
    fun _ =>
      if logFull s then .no 0x41
      else
        let found := memoriesOn mask mems
        let l := found.zipIdx.map fun x => (x.1, identityOf s x.2 x.1)
        let good := (l.filter fun x => x.2.reason == 0).length
        let counts := [l.length, good, l.length - good]
        let bytes := scanBytes len l
        let t := replaceTable (drawnBy s (64 * l.length)) (newTable s mask l)
        let t := if bytes.isEmpty then t else (writeFor t p a bytes).1
        let r := { commandRecord s d with detail := counts.map (BitVec.ofNat 8), details := 1 }
        .ran (respond (logNormal t r) d 0x00 (counts.map (BitVec.ofNat 32)))

/-- IDENTITY_SCAN (R426): the memories that acknowledge their addresses, with what is read from them. -/
def execGIdentityScan (d : Door) (mems : List IdMemory) (s : State) : Host.Outcome State Fault Refusal :=
  gciRow 0x0080 true true anyForm (identityScan mems) d s

/-! ## ENDPOINT_SET (R207, R412 to R414) -/

/-- `EID`, `KIND` and `OWNER` of ENDPOINT_SET. -/
def setEid (s : State) (d : Nat) : Nat := payField s d 0 0 14
def setKind (s : State) (d : Nat) : Nat := payField s d 0 16 2
def setOwner (s : State) (d : Nat) : Nat := payField s d 0 20 5

/-- The bits of p0 of ENDPOINT_SET that fields occupy. -/
def setMask : Word := 0x01F33FFF

/-- The entry that ENDPOINT_SET describes, before its state is known. -/
def payEntry (s : State) (d : Nat) : Endpoint :=
  let w := pay s d 1
  let e : Endpoint :=
    { kind := BitVec.ofNat 2 (setKind s d), owner := BitVec.ofNat 5 (setOwner s d), authEn := (pay s d 2).getLsbD 8,
      keySlot := BitVec.ofNat 6 (payField s d 2 0 6), number := (epOf s (setEid s d)).number + 1 }
  if e.kind = 1 then { e with port := w.setWidth 7, busAddr := (w >>> 8).setWidth 24 }
  else { e with link := w.getLsbD 0, part := (w >>> 8).setWidth 6, remote := (w >>> 16).setWidth 14 }

/-- The entry is on a queue. -/
def onQueue (e : Endpoint) : Bool := e.kind == 1 && e.port == 127

/-- Who holds the port or queue that an entry of kind 1 names, where it is commissioned or exists. -/
def holderOf (s : State) (e : Endpoint) : Option Nat :=
  if e.port = 127 then (queueOf s e.busAddr.toNat).map (·.owner) else (portOf s e.port.toNat).owner

/-- The mask of p1 for a kind. -/
def placeMask (e : Endpoint) : Word := if e.kind = 1 then 0xFFFFFF7F else 0x3FFF3F01

/-- p1 is out of range (R412, R414). -/
def placeBad (s : State) (e : Endpoint) : Bool :=
  if e.kind = 1 then (decide (95 < e.port.toNat) && e.port != 127) || (e.port == 127 && decide (8192 ≤ e.busAddr.toNat))
  else e.part == s.ep.selfId || e.remote == 0x3FFF

/-- Another entry of kind 1 has the same port and bus address (R414). -/
def placeTaken (s : State) (eid : Nat) (e : Endpoint) : Bool :=
  s.ep.dir.any fun x => x.1 != eid && x.2.state != .free && x.2.kind == 1 && x.2.port == e.port && x.2.busAddr == e.busAddr

/-- The entry's owner, where it has one, was being reset (R192). -/
def entryFenced (s : State) (eid : Nat) : Bool := (epOf s eid).state != .free && named s (epOf s eid).owner.toNat

/-- The entry as it stands in the commit cycle: of kind 2 or on a queue it is READY, on a port as R427 tells. -/
def settled (s : State) (e : Endpoint) : Endpoint :=
  if e.kind == 2 || onQueue e then { e with state := .ready }
  else if epConditions s e then { epReady s e with number := e.number }
  else { e with state := .pending }

/-- An entry is set. -/
def endpointSet (s : State) (d _p : Nat) : GciOut :=
  let eid := setEid s d
  let e := payEntry s d
  let own := setOwner s d
  let k1 := e.kind == 1
  checked
    [(k1 && !placeBad s e && (holderOf s e).any (· != own), .no 0x06), (e.authEn && !maySlot s own e.keySlot.toNat, .no 0x06),
     badWord s d 0 setMask (eid == 0x3FFF || setKind s d == 3), badWord s d 1 (placeMask e) (placeBad s e), badWord s d 2 0x13F false,
     (named s own || entryFenced s eid, .no 0x0B), (k1 && (holderOf s e).isNone, .no 0x09), (k1 && placeTaken s eid e, .no 0x08)]
    fun _ => .done (modEp s eid fun _ => settled s e) [e.number.setWidth 32]

/-- ENDPOINT_SET with a kind (R413). -/
def execGEndpointSet (d : Door) (s : State) : Host.Outcome State Fault Refusal :=
  gciRow 0x0081 true true (fun s d => setKind s d != 0) endpointSet d s

/-- An entry is freed; it keeps its number. -/
def endpointRemove (s : State) (d _p : Nat) : GciOut :=
  let eid := setEid s d
  let n := (epOf s eid).number + 1
  checked
    [((pay s d 2).getLsbD 8 && !maySlot s (setOwner s d) (payField s d 2 0 6), .no 0x06), badWord s d 0 setMask (eid == 0x3FFF),
     badWord s d 1 0 false, badWord s d 2 0x13F false, (entryFenced s eid, .no 0x0B), ((epOf s eid).state == .free, .no 0x09)]
    fun _ => .done (modEp s eid fun _ => { number := n }) [n.setWidth 32]

/-- ENDPOINT_SET with `KIND` 0 (R414). -/
def execGEndpointRemove (d : Door) (s : State) : Host.Outcome State Fault Refusal :=
  gciRow 0x0081 true true (fun s d => setKind s d == 0) endpointRemove d s

end Sys2Proof.Machine
end

