-- ==== Sys2Proof/Machine/GciParts.lean ====
section
/-!
DEFINITION. The commands of partition resources, partitions, quotas and banks (06_control_interface.md R200 to R204, R207, R208; 05_rings.md R150 to R153; 07_partitions.md R217 to R229, R231, R234; 08_deck_memory.md R243, R261; 09_barge_dma.md R264; 19_onchip_memories.md R535 to R537).
-/
namespace Sys2Proof.Machine

/-! ## RING_CREATE (R150, R151, R200) -/

/-- A ring is created. -/
def ringCreate (s : State) (d p : Nat) : GciOut :=
  let n := payField s d 0 0 3
  let comp := (pay s d 0).getLsbD 3
  let irq := (pay s d 0).getLsbD 4
  let log := payField s d 0 8 4
  let size := 2 ^ log
  let bytes := (if comp then 16 else 32) * size
  let base := pay64 s d 1
  let shadow := pay64 s d 3
  let there := if comp then (cqOf s p n).isSome else (sqOf s p n).isSome
  checked
    [badWord s d 0 0xF1F (decide (log < 6) || (irq && !comp)), (base % min bytes 4096 != 0, .badField 3),
     (shadow % 8 != 0, .badField 5), (there, .no 0x08),
     (!reachable s p base bytes (if comp then .write else .read), windowRefused s p), (!reachable s p shadow 8 .write, windowRefused s p)]
    fun _ =>
      if comp then .done { s with cq := tPut s.cq (8 * p + n) { size := size, base := base, shadow := shadow, irqEn := irq } } []
      else .done { s with sq := tPut s.sq (8 * p + n) { size := size, base := base, shadow := shadow } } []

/-- RING_CREATE (R200). -/
def execGRingCreate (d : Door) (s : State) : Host.Outcome State Fault Refusal :=
  gciRow 0x0030 false true anyForm ringCreate d s

/-! ## WINDOW_SET (R201, R220, R261) -/

/-- The bits of p0 of WINDOW_SET that fields occupy. -/
def windowMask : Word := 0x0F373F1F

/-- The window that WINDOW_SET describes. -/
def payWindow (s : State) (d : Nat) : Window :=
  let p0 := pay s d 0
  { r := p0.getLsbD 16, w := p0.getLsbD 17, x := p0.getLsbD 18, space := BitVec.ofNat 2 (fieldOf p0 20 2),
    bank := BitVec.ofNat 4 (fieldOf p0 24 4), base := pay64 s d 1, size := pay64 s d 3, target := pay64 s d 5 }

/-- `SIZE` is 0: the window is removed. -/
def isRemoval (s : State) (d : Nat) : Bool := pay64 s d 3 == 0

/-- The limit of a window's space that `SIZE` and `BASE` break (R220). -/
def sizeBad (w : Window) : Bool :=
  w.size % 4096 != 0 || (w.space == 0 && (decide (2 ^ 48 < w.size) || decide (2 ^ 64 < w.base + w.size)))

/-- The limit of a window's space that `TARGET` breaks (R220, R261). -/
def targetBad (s : State) (w : Window) : Bool :=
  w.target % 4096 != 0 ||
    (if w.space = 0 then decide (2 ^ 64 < w.target + w.size)
     else if w.space = 1 then decide (2 ^ 18 < w.target + w.size)
     else decide (4096 * s.deck.flatPages < w.target + w.size))

/-- Two windows share an address. -/
def windowsMeet (a b : Window) : Bool := decide (a.base < b.base + b.size) && decide (b.base < a.base + a.size)

/-- A window is made or changed; one set again as it stands invalidates no page (R140). -/
def windowSet (s : State) (d _p : Nat) : GciOut :=
  let q := payField s d 0 0 5
  let k := payField s d 0 8 6
  let w := payWindow s d
  let b := bankOf s w.bank.toNat
  checked
    [(w.space == 1 && !(b.kind == 0 && b.owner.toNat == q), .no 0x06), badWord s d 0 windowMask (w.space == 3),
     (w.base % 4096 != 0, .badField 3), (sizeBad w, .badField 5), (targetBad s w, .badField 7), (named s q, .no 0x0B),
     ((partOf s q).wins.any fun x => x.1 != k && windowsMeet x.2 w, .no 0x08), (w.space == 1 && (b.handover.isSome || !bankPowered s w.bank.toNat), .no 0x0C)]
    fun _ =>
      if tFind (partOf s q).wins k == some w then .done s []
      else .done (invalidatePages (modPart s q fun x => { x with wins := tPut x.wins k w }) q k) []

/-- WINDOW_SET with a size (R201). -/
def execGWindowSet (d : Door) (s : State) : Host.Outcome State Fault Refusal :=
  gciRow 0x0031 true true (fun s d => !isRemoval s d) windowSet d s

/-- A window is removed. -/
def windowRemove (s : State) (d _p : Nat) : GciOut :=
  let q := payField s d 0 0 5
  let k := payField s d 0 8 6
  checked [badWord s d 0 windowMask false, (named s q, .no 0x0B), ((tFind (partOf s q).wins k).isNone, .no 0x09)]
    fun _ => .done (removeWindow s q k) []

/-- WINDOW_SET with `SIZE` 0 (R201). -/
def execGWindowRemove (d : Door) (s : State) : Host.Outcome State Fault Refusal :=
  gciRow 0x0031 true true isRemoval windowRemove d s

/-! ## QUEUE_CREATE and BARGE_ASSIGN (R202, R243, R264) -/

/-- The numbers of the queues that exist. -/
def queueNumbers (s : State) : List Nat := (s.deck.queues.map Prod.fst).filter (· < 8192)

/-- A queue is created. -/
def queueCreate (s : State) (d p : Nat) : GciOut :=
  let want := payField s d 0 0 13
  let depth := payField s d 1 0 19
  let port := payField s d 2 0 7
  let attach := (pay s d 2).getLsbD 7
  let used := queueNumbers s
  let n := if want = 0x1FFF then firstGap 0 used else want
  checked
    [(attach && portDenied s port p, .no 0x06), badWord s d 0 0x1FFF false, badWord s d 1 0x7FFFF (depth == 0 || decide (262144 < depth)),
     badWord s d 2 0xFF (attach && decide (95 < port)), (want != 0x1FFF && used.contains want, .no 0x08),
     (decide (8192 ≤ used.length) || decide ((partOf s p).queues ≤ (queuesOf s p).length), .no 0x07)]
    fun _ =>
      let q : Queue := { owner := p, port := if attach then some port else none, depth := depth }
      .done (modDeck s fun k => { k with queues := tPut k.queues n q }) [BitVec.ofNat 32 n]

/-- QUEUE_CREATE (R202). -/
def execGQueueCreate (d : Door) (s : State) : Host.Outcome State Fault Refusal :=
  gciRow 0x0032 false true anyForm queueCreate d s

/-- The channels that no partition owns. -/
def freeChannels (s : State) : List Nat := (List.range 32).filter fun n => (chanOf s n).owner.isNone

/-- The channels that a partition owns. -/
def ownChannels (s : State) (p : Nat) : List Nat := (List.range 32).filter fun n => (chanOf s n).owner == some p

/-- A channel is assigned: which free one a request for any takes is not stated. -/
def bargeAssign (s : State) (d p : Nat) : GciOut :=
  let any := (pay s d 0).getLsbD 5
  let free := freeChannels s
  let n := if any then free.getD ((freeOf s).toNat % free.length) 0 else payField s d 0 0 5
  checked
    [badWord s d 0 0x00FF073F false, (!any && !free.contains n, .no 0x08),
     (decide ((partOf s p).channels ≤ (ownChannels s p).length) || free.isEmpty, .no 0x07)]
    fun _ =>
      let prio := BitVec.ofNat 3 (payField s d 0 8 3)
      let rate := BitVec.ofNat 8 (payField s d 0 16 8)
      .done (modChan (if any then drawn s else s) n fun c => { c with owner := some p, prio := prio, rate := rate }) [BitVec.ofNat 32 n]

/-- BARGE_ASSIGN (R202). -/
def execGBargeAssign (d : Door) (s : State) : Host.Outcome State Fault Refusal :=
  gciRow 0x0033 false true anyForm bargeAssign d s

/-! ## PARTITION_CONFIG (R204) -/

/-- Two ranges of numbers, first and count, share one. -/
def spansMeet (a m b n : Nat) : Bool := decide (0 < m) && decide (0 < n) && decide (a < b + n) && decide (b < a + m)

/-- The events, among the assignable ones, that a partition is using (R204). -/
def eventsUsed (s : State) (p : Nat) : List Nat :=
  let voys := voyagesOf s p
  let waits := voys.filterMap fun x => match x.2.state, x.2.park with
    | .parked, .event e => some e
    | _, _ => none
  let resumes := voys.filterMap fun x =>
    let w := x.2.cur.getD 4 0
    if x.2.state == .suspended && w.getLsbD 21 then some (fieldOf w 22 10) else none
  let heard := (portsOf s p).flatMap fun n =>
    (List.range 4).filterMap fun k =>
      let w := tGet (portOf s n).netl k 0
      if w.getLsbD 31 then some (fieldOf w 0 10) else none
  (voys.map (fun x => vevent x.2) ++ waits ++ resumes ++ heard).filter (512 ≤ ·)

/-- A partition is configured. -/
def partitionConfig (s : State) (d _p : Nat) : GciOut :=
  let q := payField s d 0 0 5
  let bind := (pay s d 0).getLsbD 16
  let vb := payField s d 1 0 12
  let vc := payField s d 1 16 13
  let eb := payField s d 2 0 10
  let ec := payField s d 2 16 10
  let ch := payField s d 3 0 6
  let qs := payField s d 3 16 14
  let other (f : Partition → Bool) : Bool := s.part.any fun x => x.1 != q && f x.2
  let rebind := bind && s.fw.bound != some q
  checked
    [badWord s d 0 0x0001071F false, badWord s d 1 0x1FFF0FFF (decide (4096 < vb + vc)),
     badWord s d 2 0x03FF03FF ((ec != 0 && decide (eb < 512)) || decide (1024 < eb + ec)),
     badWord s d 3 0x3FFF003F (decide (32 < ch) || decide (8192 < qs)), (named s q, .no 0x0B),
     (other fun x => spansMeet vb vc x.vidBase x.vidCount || spansMeet eb ec x.evtBase x.evtCount, .no 0x08),
     ((voyagesOf s q).any (fun x => x.1 < vb || vb + vc ≤ x.1) || (eventsUsed s q).any (fun e => e < eb || eb + ec ≤ e), .no 0x0C),
     (rebind && s.glb.lock, .no 0x0D)]
    fun _ =>
      let keys := BitVec.ofNat 64 (pay64 s d 4)
      let prio := BitVec.ofNat 3 (payField s d 0 8 3)
      let t := modPart s q fun x =>
        { x with prio := prio, vidBase := vb, vidCount := vc, evtBase := eb, evtCount := ec, channels := ch, queues := qs, keyslots := keys }
      .done (if rebind then modMbx { t with fw := { t.fw with bound := some q } } 32 fun m => { m with version := none } else t) []

/-- PARTITION_CONFIG (R204). -/
def execGPartitionConfig (d : Door) (s : State) : Host.Outcome State Fault Refusal :=
  gciRow 0x0040 true true anyForm partitionConfig d s

/-! ## PARTITION_RESET and QUOTA_SET (R203, R229) -/

/-- A partition is reset by command: its response is written at the end (R204, R232). -/
def partitionReset (s : State) (d _p : Nat) : GciOut :=
  let q := payField s d 0 0 5
  checked [badWord s d 0 0x1F (q == 0), (named s q, .no 0x0B)]
    fun _ =>
      if logFull s then .no 0x41
      else .ran (startReset (logCommand true s s d) q
        { trigger := 1, part := (doorPart s d).getD 0, door := doorKind d, doors := [d] })

/-- PARTITION_RESET (R231). -/
def execGPartitionReset (d : Door) (s : State) : Host.Outcome State Fault Refusal :=
  gciRow 0x0041 true true anyForm partitionReset d s

/-- The sum of a setting over all partitions, partition `q` counting with a new value. -/
def sumWith (s : State) (q new : Nat) (f : Partition → Nat) : Nat :=
  (List.range 32).foldl (fun n p => n + if p = q then new else f (partOf s p)) 0

/-- A partition's quotas and shares are set; its bucket has accrued at the old rate (R188). -/
def quotaSet (s : State) (d _p : Nat) : GciOut :=
  let q := payField s d 0 0 5
  let ferry := payField s d 0 8 8
  let rate := payField s d 0 16 8
  let cells := payField s d 1 0 19
  let host := payField s d 2 0 8
  let barge := payField s d 2 8 8
  checked
    [badWord s d 0 0x00FFFF1F (rate == 0 || decide (64 < rate)), badWord s d 1 0x7FFFF false, badWord s d 2 0xFFFF false,
     (named s q, .no 0x0B),
     (decide (262144 < sumWith s q cells (·.cells)) || decide (256 < sumWith s q host (·.hostShare))
       || decide (256 < sumWith s q barge (·.bargeShare)) || decide (256 < sumWith s q rate (·.mbxRate)), .no 0x07)]
    fun _ =>
      .done (modPart (accrue s q) q fun x =>
        { x with ferryShare := ferry, mbxRate := rate, cells := cells, hostShare := host, bargeShare := barge }) []

/-- QUOTA_SET (R203). -/
def execGQuotaSet (d : Door) (s : State) : Host.Outcome State Fault Refusal :=
  gciRow 0x0042 true true anyForm quotaSet d s

/-! ## BANK_ASSIGN (R207, R208, R535) -/

/-- A bank is assigned: the response follows the handover. -/
def bankAssign (s : State) (d _p : Nat) : GciOut :=
  let n := payField s d 0 0 4
  let kind := BitVec.ofNat 2 (payField s d 0 8 2)
  let owner := BitVec.ofNat 5 (payField s d 0 16 5)
  let keep := (pay s d 0).getLsbD 24
  let b := bankOf s n
  let reset := (kind == 0 && named s owner.toNat) || (b.kind == 0 && named s b.owner.toNat)
  checked
    [badWord s d 0 0x011F030F (ownerBad kind owner), (reset, .no 0x0B), (b.handover.isSome, .no 0x0C)]
    fun _ =>
      let t := startHandover s n { kind := kind, owner := owner, keep := keep, door := some d }
      if (bankOf t n).handover.isSome then .wait t else .done t []

/-- BANK_ASSIGN (R535). -/
def execGBankAssign (d : Door) (s : State) : Host.Outcome State Fault Refusal :=
  gciRow 0x00B0 true true anyForm bankAssign d s

end Sys2Proof.Machine
end

