-- ==== Sys2Proof/Machine/GciTime.lean ====
section
/-!
DEFINITION. The commands of the crossing schedule and its synchronisation (06_control_interface.md R198, R199; 02_crossings_and_landings.md R32, R33, R40, R41).
-/
namespace Sys2Proof.Machine

/-- `CUTOFF_ONLY` of CROSSING_CONFIG. -/
def cutOnly (s : State) (d : Nat) : Bool := (pay s d 0).getLsbD 17

/-- A start of a schedule. -/
def crossingStart (s : State) (d _p : Nat) : GciOut :=
  let p0 := pay s d 0
  let t0 := payField s d 0 0 17
  let m (k lo : Nat) : Nat := payField s d k lo 11
  let c := payField s d 2 16 10
  let out (lo hi n : Nat) : Bool := decide (n < lo) || decide (hi < n)
  let setTime := p0.getLsbD 18
  let gptp := p0.getLsbD 19
  let st := pay64 s d 3
  checked
    [badWord s d 0 0xFFFFF (out 100 100000 t0 || (setTime && gptp)), badWord s d 1 0x07FF07FF (out 1 1024 (m 1 0) || out 1 1024 (m 1 16)),
     badWord s d 2 0x03FF07FF (out 1 1024 (m 2 0) || out 5 1000 c || decide (t0 < 2 * c)),
     (decide (st < s.tb.time + 2000000), .badField 5), (gptp && !s.tb.gptpSync, .no 0x0C)]
    fun _ =>
      let new : Start :=
        { s := st, v := if setTime then some (pay64 s d 5) else none, gptp := gptp, t0 := t0, m1 := m 1 0, m2 := m 1 16, m3 := m 2 0, c := c }
      .done (modTb s fun t => { t with start := some new }) []

/-- CROSSING_CONFIG with `CUTOFF_ONLY` 0 (R199). -/
def execGCrossingConfig (d : Door) (s : State) : Host.Outcome State Fault Refusal :=
  gciRow 0x0020 true true (fun s d => !cutOnly s d) crossingStart d s

/-- A change of the cut-off alone: it applies from the second class-0 landing on (R33). -/
def crossingCutoff (s : State) (d _p : Nat) : GciOut :=
  let c := payField s d 2 16 10
  let n := nextLsn s + 1
  checked
    [badWord s d 0 0x20000 false, badWord s d 1 0 false,
     badWord s d 2 0x03FF0000 (decide (c < 5) || decide (1000 < c) || decide (s.tb.t0 < 2 * c)),
     badWord s d 3 0 false, badWord s d 4 0 false, badWord s d 5 0 false, badWord s d 6 0 false, (s.tb.start.isSome, .no 0x0C)]
    fun _ =>
      .done (modTb s fun t => { t with nextCut := (t.nextCut.filter fun x => x.1 < n) ++ [(n, c)] }) [BitVec.ofNat 32 n]

/-- CROSSING_CONFIG with `CUTOFF_ONLY` 1 (R199). -/
def execGCrossingConfigCutoffOnly (d : Door) (s : State) : Host.Outcome State Fault Refusal :=
  gciRow 0x0020 true true cutOnly crossingCutoff d s

/-- W, in units of 10 ns, keeps the limit of R41 for a T0 in µs. -/
def windowFits (w t0 : Nat) : Bool := decide (80 * w ≤ 1000 * t0) && decide (w ≤ 50000)

/-- A rate correction is within R28's range. -/
def rateOk (r : Word) : Bool := decide (-200000 ≤ r.toInt) && decide (r.toInt ≤ 200000)

/-- A synchronisation set is made pending. -/
def syncConfig (s : State) (d _p : Nat) : GciOut :=
  let source := payField s d 0 0 2
  let div := payField s d 0 16 11
  let w := payField s d 1 0 16
  let rate := pay s d 2
  let wBad := w == 0 || !windowFits w s.tb.t0 || (s.tb.start.any fun st => !windowFits w st.t0)
  checked
    [badWord s d 0 0x07FF0007 (source == 3 || (source == 1 && (div == 0 || decide (1024 < div)))),
     badWord s d 1 0xFFFF (source == 1 && wBad), (source != 2 && !rateOk rate, .badField 4)]
    fun _ =>
      let new : SyncSet :=
        { source := BitVec.ofNat 2 source, gptpPort := (pay s d 0).getLsbD 2, div := div, w := BitVec.ofNat 16 w,
          rate := if source = 2 then none else some rate }
      .done (modTb s fun t => { t with sync := some new }) []

/-- SYNC_CONFIG (R40, R199). -/
def execGSyncConfig (d : Door) (s : State) : Host.Outcome State Fault Refusal :=
  gciRow 0x0021 true true anyForm syncConfig d s

end Sys2Proof.Machine
end

