-- ==== Sys2Proof/Machine/Landing.lean ====
section
/-!
DEFINITION. The commands of the timebase and the landing unit: LANDSYNC, windows, cut-offs, landings, the start landing and LANDOUT (02_crossings_and_landings.md R31 to R45, R585; 18_power_reset_startup.md R511, R527, R528).
-/
namespace Sys2Proof.Machine

/-! ## Windows and edges (R41 to R43) -/

/-- The window half-width in ns (R41). -/
def windowNs (s : State) : Nat := 10 * s.tb.w.toNat

/-- LSN `n`, of the running or of the pending schedule, is expected to meet an edge (R32, R41). -/
def expected (s : State) (n : Nat) : Bool := s.tb.source == 1 && n % nextSchedule % s.tb.div == 0

/-- The first edge of LSN `n` has been accepted, or its miss counted. -/
def windowDone (s : State) (n : Nat) : Bool := s.tb.accepted.any (n ≤ ·)

/-- Holdover begins: P is cleared, `HOLDOVER` set, the steward interrupted (R43). -/
def enterHoldover (s : State) : State :=
  raise (modTb s fun t => { t with p := 0, holdover := true, cnt := bump t.cnt 4 }) 661

/-- Holdover ends, if it has been entered; the steward is interrupted again (R43). -/
def leaveHoldover (s : State) : State :=
  if s.tb.holdover then raise (modTb s fun t => { t with holdover := false }) 661 else s

/-- A miss (R43). -/
def countMiss (s : State) : State :=
  let t := modTb s fun t => { t with accepted := some t.lsn, misses := min 8 (t.misses + 1), cnt := bump t.cnt 2 }
  if s.tb.misses = 7 ∧ !s.tb.holdover then enterHoldover t else t

/-- The window of the last landing has closed without an accepted edge: no edge within it can still take effect, 25 ns after its time (R43, R574). -/
def windowMissed (s : State) : Bool :=
  s.tb.landed && expected s s.tb.lsn && !windowDone s s.tb.lsn && decide (s.tb.nominal + windowNs s + 25 < s.tb.time)

/-- A window that has closed without an accepted edge is counted, once. -/
def settleWindow (s : State) : State := if windowMissed s then countMiss s else s

/-- SYNC_WINDOW_CLOSE (R43). -/
def execSyncWindowClose (s : State) : Host.Outcome State Fault Refusal :=
  .next (if isRun s then conclude s (settleWindow s) else s)

/-- A time lies within the window around a nominal time. -/
def inWindow (s : State) (t : Int) (nominal : Nat) : Bool :=
  decide (t - nominal ≤ windowNs s) && decide ((nominal : Int) - t ≤ windowNs s)

/-- The edge is accepted (R41 to R43). -/
def acceptEdge (s : State) (n : Nat) : State :=
  leaveHoldover (modTb s fun t => { t with accepted := some n, misses := 0, cnt := bump t.cnt 0 })

/-- The next expected landing, as its number (or that of a start landing in the numbering of the next schedule) and its nominal time. -/
def nextExpected (s : State) : Nat × Nat :=
  match s.tb.start with
  | some st => if st.s ≤ nextNominal s then (nextSchedule, st.s) else (nextLsn s, nextNominal s)
  | none => (nextLsn s, nextNominal s)

/-- What an edge at time `t` is. -/
def takeEdge (s : State) (t : Int) : State :=
  if s.tb.landed && expected s s.tb.lsn && inWindow s t s.tb.nominal then
    if windowDone s s.tb.lsn then modTb s fun x => { x with cnt := bump x.cnt 3 }
    else acceptEdge (modTb s fun x => { x with p := t - x.nominal }) s.tb.lsn
  else
    let n := nextExpected s
    if expected s n.1 && inWindow s t n.2 then
      if windowDone s n.1 then modTb s fun x => { x with cnt := bump x.cnt 3 }
      else acceptEdge (modTb s fun x => { x with heldEdge := some t.toNat }) n.1
    else modTb s fun x => { x with cnt := bump x.cnt 1 }

/-- The time of an edge, which lies 25 ns before its effect (R574); the error of one that takes effect in a landing's first CLK_FAB cycle is 0 (R36). Which of the CLK_FAB cycles up to the next CLK_TB edge an edge takes effect in is free (log 102). -/
def edgeTime (s : State) : Int :=
  if s.tb.atLanding && (freeOf s).getLsbD 0 then (s.tb.nominal : Int) else (s.tb.time : Int) - 25

/-- LANDSYNC_EDGE (R36, R41, R574). -/
def execLandsyncEdge (s : State) : Host.Outcome State Fault Refusal :=
  .next <|
    if isRun s && s.tb.running && s.tb.source == 1 then
      let s' := settleWindow s
      conclude s (takeEdge (if s.tb.atLanding then drawn s' else s') (edgeTime s'))
    else s

/-! ## Cut-offs (R37, R38, R42, R48, R49, R120) -/

/-- The work of a timed voyage for its crossing is not over. -/
def unfinished (x : Voyage) : Bool :=
  x.timed &&
    (match x.state, x.park with
     | .ready, _ => true
     | .active, _ => true
     | .parked, .landing => false
     | .parked, .maxEntries => false
     | .parked, _ => true
     | _, _ => false)

/-- The timed voyages of a class chosen by `f` whose work is not over become untimed (R49). -/
def closeCrossings (s : State) (f : Nat → Bool) : State :=
  (s.sch.voy.filter fun x => unfinished x.2 && f x.2.xclass).foldl (fun s x => demote s x.1) s

/-- The cut-off of the next landing of the running schedule is due. -/
def cutoffDue (s : State) : Bool :=
  s.tb.landed && s.tb.closed.isNone && decide (nextCutTime s ≤ s.tb.time)
    && !(s.tb.start.any fun st => decide (st.s ≤ nextNominal s))

/-- The cut-off of the next landing: its step is fixed, crossings close, its round begins. -/
def regularCutoff (s : State) : State :=
  let n := nextLsn s
  let s := modTb s fun t => { t with step := some (nextStep s), closed := some n }
  beginRound (closeCrossings s fun c => lands s c n) n

/-- The start landing whose cut-off is due. -/
def startCutDue (s : State) : Option Start :=
  s.tb.start.filter fun st => !st.cut && decide (startCutTime st ≤ s.tb.time)

/-- The crossing of class `c` that is open ends at a landing before a start landing at `st`. -/
def endsBefore (s : State) (st : Start) (c : Nat) : Bool :=
  decide (landingTime s (classUp (mulOf s c) (nextLsn s)) < st.s)

/-- The cut-off of a start landing (R32). -/
def startCutoff (s : State) (st : Start) : State :=
  let s := modTb s fun t => { t with start := some { st with cut := true } }
  beginRound (closeCrossings s fun c => !endsBefore s st c) nextSchedule

/-- GANGWAY_CUTOFF (R37): the earlier of the cut-offs that are due. -/
def execGangwayCutoff (s : State) : Host.Outcome State Fault Refusal :=
  .next <|
    if !isRun s then s
    else
      match startCutDue s with
      | some st =>
        if cutoffDue s && decide (nextCutTime s ≤ startCutTime st) then conclude s (regularCutoff s)
        else conclude s (startCutoff s st)
      | none => if cutoffDue s then conclude s (regularCutoff s) else s

/-! ## The landing (R35, R40, R42, R45) -/

/-- A SYNC_CONFIG takes effect as a whole (R40). -/
def takeSync (s : State) : State :=
  match s.tb.sync with
  | none => s
  | some y =>
    let s := modTb s fun t =>
      { t with source := y.source, gptpPort := y.gptpPort, div := y.div, w := y.w, rate := y.rate.getD t.rate,
               p := 0, misses := 0, sync := none,
               syncAt := t.time, syncIv := 1000000000, gptpSync := t.gptpSync && t.source == 2 && y.source == 2 && t.gptpPort == y.gptpPort }
    leaveHoldover s

/-- A held edge replaces P with its error (R42). -/
def takeHeldEdge (s : State) (nominal : Nat) : State :=
  match s.tb.heldEdge with
  | some e => modTb s fun t => { t with p := (e : Int) - nominal, heldEdge := none }
  | none => s

/-- A cut-off change takes effect; one that lowers the limits asks for a re-fit (R33, R124). -/
def takeCut (s : State) (n : Nat) : State :=
  let c := cutFor s n
  let lower := decide (s.tb.c < c)
  modSch (modTb s fun t => { t with c := c, nextCut := t.nextCut.filter fun x => n < x.1 }) fun x =>
    { x with refitDue := x.refitDue || lower }

/-- LANDOUT rises for `LANDOUT_WIDTH`, 0 acting as 1 and values above 100 as 100 (R45, R557). -/
def raiseLandout (s : State) : State :=
  modTb s fun t => { t with landout := some (t.time + min (1000 * max 1 (min 100 s.glb.landoutWidth.toNat)) (500 * t.t0)) }

/-- The round of landing `n` ends, and a re-fit that waits is performed (R120, R124, R143). -/
def endRound (s : State) (n : Nat) : State :=
  waitingRefit (modSch s fun c => { c with rounds := c.rounds.filter fun r => n < r.lsn })

/-- This landing is that of an entry to moored (R511). -/
def mooringLanding (s : State) (n : Nat) : Bool := s.pwr.mooring.any fun m => decide (m.commit ≤ n) && !m.landed

/-- The hold counter has been found at 0 (R528). -/
def holdOver (s : State) : Bool := s.pwr.hold && s.pwr.holdCtr == 0

/-- Every commissioned port reaches its safe state at this landing (R511, R527, R528). -/
def allSafe (s : State) (n : Nat) : Bool := holdOver s || s.pwr.thermSafe || mooringLanding s n

/-- What follows the landing's steps: the hold counter, the thermal safe state, the landing of an entry to moored. -/
def afterLanding (s : State) (n : Nat) (hold : Bool) : State :=
  let s := if mooringLanding s n then
      logAlways (modPwr s fun p => { p with mooring := p.mooring.map fun m => { m with landed := true } })
        { door := 4, kind := 0x0A, object := 2 }
    else s
  let s := modPwr s fun p => { p with thermSafe := false, holdCtr := if p.hold && p.holdCtr != 0 then p.holdCtr - 1 else p.holdCtr }
  if hold then warmReset s 4 else s

/-- The five steps of a landing whose number and times are set (R35). -/
def landingSteps (s : State) (n : Nat) : State :=
  let classes := landingClasses s n
  let all := allSafe s n
  let hold := holdOver s
  let s := endRound (raiseLandout s) n
  let s := releaseAll (latchAll s classes n) all classes n
  let s := moveBounds (swapAll s classes n) classes
  let s := sampleAll (publishAll s classes n) n
  afterLanding (dispatchAll s classes n) n hold

/-- A landing of the running schedule is due. -/
def landingDue (s : State) : Bool :=
  isRun s && s.tb.running && decide (nextNominal s ≤ s.tb.time) && (!s.tb.landed || s.tb.closed.isSome)
    && !(s.tb.start.any fun st => decide (st.s ≤ nextNominal s))

/-- The next landing's number, nominal time and step are taken (R31, R42, R585). -/
def takeNumber (s : State) : State :=
  let step := if s.tb.landed then nextStep s else 0
  let n := nextLsn s
  let nominal := nextNominal s
  modTb s fun t => { t with lsn := n, nominal := nominal, landed := true, atLanding := true, p := t.p - step, step := none, closed := none }

/-- LANDING (R35). -/
def execLanding (s : State) : Host.Outcome State Fault Refusal :=
  .next <|
    if landingDue s then
      let t := takeNumber (settleWindow s)
      let n := t.tb.lsn
      conclude s (landingSteps (takeSync (takeCut (takeHeldEdge t t.tb.nominal) n)) n)
    else s

/-! ## The start landing (R32) -/

/-- The LSN in the new schedule of an LSN kept from before the start landing: one of the old schedule is past. -/
def newLsn (n : Nat) : Nat := n - nextSchedule

/-- A voyage's LSNs, and its deadline after device time has moved by `d`. -/
def renumberVoy (d : Int) (x : Voyage) : Voyage :=
  { x with startLsn := newLsn x.startLsn, haltAt := x.haltAt.map newLsn, resumeAt := x.resumeAt.map newLsn,
           resumes := x.resumes.map fun r => (newLsn r.1, r.2),
           deadline := x.deadline.map fun t => ((t : Int) + d).toNat }

/-- A port's LSNs. -/
def renumberPort (q : Port) : Port :=
  { q with swap := q.swap.map fun w => { w with due := newLsn w.due },
           bc := { q.bc with tx := q.bc.tx.map fun f => { f with held := f.held.map newLsn } } }

/-- A submission ring's LSNs. -/
def renumberRing (r : SubRing) : SubRing := { r with cover := r.cover.map fun x => (x.1, newLsn x.2) }

/-- A link's times after device time has moved by `d`. -/
def moveLink (d : Int) (l : Link) : Link :=
  { l with announced := none
           peers := l.peers.map fun x => (x.1, { x.2 with seen := x.2.seen + d })
           rx := l.rx.map fun x => (x.1, { x.2 with last := x.2.last + d })
           frames := l.frames.map fun f => (f.1, f.2.1, f.2.2 + d) }

/-- Waits run on in elapsed time when a start landing sets device time: what is kept as an instant moves with it by `d`, and each token bucket holds what it has accrued up to then. -/
def moveTimes (s : State) (d : Int) : State :=
  { s with
    sec := { s.sec with nonce := s.sec.nonce.map fun x => (x.1, x.2 + d) }
    ep := { s.ep with links := s.ep.links.map fun x => (x.1, moveLink d x.2) }
    mbx := s.mbx.map fun x => (x.1, { x.2 with tokens := tokensOf s x.1, since := ((s.tb.time : Int) + d).toNat })
    fw := { s.fw with bsySince := s.fw.bsySince.map (· + d) }
    tb := { s.tb with syncAt := s.tb.syncAt + d } }

/-- Everything kept by LSN is kept by that of the new schedule. -/
def renumber (s : State) (d : Int) : State :=
  { s with
    sch := { s.sch with voy := s.sch.voy.map (fun x => (x.1, renumberVoy d x.2))
                        starting := s.sch.starting.map (fun x => (x.1, renumberVoy d x.2))
                        rounds := s.sch.rounds.map fun r => { r with lsn := newLsn r.lsn } }
    port := s.port.map fun x => (x.1, renumberPort x.2)
    sq := s.sq.map fun x => (x.1, renumberRing x.2)
    pwr := { s.pwr with mooring := s.pwr.mooring.map fun m => { m with commit := newLsn m.commit } } }

/-- The device time that a start landing sets (R32); a gPTP time midway between two multiples of 10 ns goes to the greater (log 96). -/
def startTime (s : State) (st : Start) (gptp : BitVec 64) : Nat :=
  match st.v with
  | some v => v
  | none => if st.gptp then (gptp.toNat + 5) / 10 * 10 % 2 ^ 64 else s.tb.time

/-- The nominal time of LSN 0 of the schedule that starts. -/
def startNominal (s : State) (st : Start) (gptp : BitVec 64) : Nat :=
  if st.v.isSome || st.gptp then startTime s st gptp else st.s

/-- The timed voyages admitted under the old schedule become untimed (R32 step 2). -/
def demoteOld (s : State) : State :=
  (s.sch.voy.filter fun x => isAdmitted x.2 && decide (x.2.startLsn < nextSchedule)).foldl (fun s x => demote s x.1) s

/-- The new schedule, device time set and LSN 0 numbered. -/
def takeSchedule (s : State) (st : Start) (gptp : BitVec 64) : State :=
  let time := startTime s st gptp
  let nominal := startNominal s st gptp
  modTb s fun t =>
    { t with time := time, t0 := st.t0, m1 := st.m1, m2 := st.m2, m3 := st.m3, c := st.c, lsn := 0, nominal := nominal,
             landed := true, atLanding := true, step := none, closed := none, nextCut := [], start := none,
             accepted := t.accepted.bind fun n => if n < nextSchedule then none else some (n - nextSchedule) }

/-- The start landing. -/
def beginSchedule (s : State) (st : Start) (gptp : BitVec 64) : State :=
  let s := settleWindow s
  let s := modTb s fun t => { t with p := 0, misses := 0 }
  let s := takeHeldEdge (demoteOld s) st.s
  let d : Int := (startTime s st gptp : Int) - s.tb.time
  let s := takeSchedule (renumber (moveTimes s d) d) st gptp
  landingSteps (takeSync s) 0

/-- START_LANDING (R32): `gptpTime` is the gPTP time of the instant, which counts where the command asked for alignment. -/
def execStartLanding (gptpTime : BitVec 64) (s : State) : Host.Outcome State Fault Refusal :=
  .next <|
    match s.tb.start with
    | some st =>
      if isRun s && st.cut && decide (st.s ≤ s.tb.time) then conclude s (beginSchedule s st gptpTime) else s
    | none => s

/-! ## LANDOUT (R45) -/

/-- LANDOUT_END (R45). -/
def execLandoutEnd (s : State) : Host.Outcome State Fault Refusal :=
  .next <|
    match s.tb.landout with
    | some t => if t ≤ s.tb.time then modTb s fun x => { x with landout := none } else s
    | none => s

end Sys2Proof.Machine
end

