-- ==== Sys2Proof/Machine/ManifestCtl.lean ====
section
/-!
DEFINITION. The manifest entries that control the voyage, a role image, an event or a barge channel: NOP, CONTROL, SENSE, JUMP, WAIT, TEST, SETV, ADDV, INVOKE, BARGE, POSTV, SIGNAL and END, and the reserved opcodes (03_manifests.md R70, R78, R81 to R89, R94).
-/
namespace Sys2Proof.Machine

/-! ## Entries that always complete -/

/-- NOP. -/
def actNop (s : State) (_v : Nat) (_x : Voyage) (_w : List Word) : State × Six := (s, .done Result.ok)

/-- NOP (R78). -/
def execMNop (v : Fin 4096) (s : State) : Host.Outcome State Fault Refusal := entryRow (withOp 0x00) actNop v s

/-- JUMP: the voyage goes on at `INDEX`. -/
def actJump (s : State) (_v : Nat) (_x : Voyage) (w : List Word) : State × Six :=
  (s, .done { Result.ok with jump := some (fieldOf (wd w 4) 0 16) })

/-- JUMP (R83). -/
def execMJump (v : Fin 4096) (s : State) : Host.Outcome State Fault Refusal := entryRow (withOp 0x05) actJump v s

/-- SETV. -/
def actSetv (s : State) (v : Nat) (_x : Voyage) (w : List Word) : State × Six :=
  (setVreg s v (fieldOf (wd w 4) 0 3) (wd w 2), .done Result.ok)

/-- SETV (R86). -/
def execMSetv (v : Fin 4096) (s : State) : Host.Outcome State Fault Refusal := entryRow (withOp 0x08) actSetv v s

/-- The value that ADDV gives V[`VD`] (R86). -/
def addvValue (x : Voyage) (w : List Word) : Word :=
  (((vreg x (fieldOf (wd w 4) 4 3)).sshiftRight (fieldOf (wd w 4) 8 5)) + wd w 2) &&& wd w 6

/-- ADDV. -/
def actAddv (s : State) (v : Nat) (x : Voyage) (w : List Word) : State × Six :=
  (setVreg s v (fieldOf (wd w 4) 0 3) (addvValue x w), .done Result.ok)

/-- ADDV (R86). -/
def execMAddv (v : Fin 4096) (s : State) : Host.Outcome State Fault Refusal := entryRow (withOp 0x09) actAddv v s

/-- POSTV: a record whose residual is the register. -/
def actPostv (s : State) (_v : Nat) (x : Voyage) (w : List Word) : State × Six :=
  (s, .done { Result.ok with value := true, residual := (vreg x (fieldOf (wd w 4) 0 3)).toNat })

/-- POSTV (R87). -/
def execMPostv (v : Fin 4096) (s : State) : Host.Outcome State Fault Refusal := entryRow (withOp 0x0E) actPostv v s

/-- END: the voyage ends after the entry, whatever `ONWARD` holds. -/
def actEnd (s : State) (_v : Nat) (_x : Voyage) (_w : List Word) : State × Six :=
  (s, .done { Result.ok with ends := true })

/-- END (R94). -/
def execMEnd (v : Fin 4096) (s : State) : Host.Outcome State Fault Refusal := entryRow (withOp 0x1F) actEnd v s

/-- A reserved opcode (R70) ends the voyage at step 2 and never comes to step 6. -/
def actReserved (s : State) (v : Nat) (_x : Voyage) (_w : List Word) : State × Six := faultOut s v 0x16 0x03

/-- RESERVED (R70): FORMAT_ERROR, extended status 0x03. -/
def execMReserved (v : Fin 4096) (s : State) : Host.Outcome State Fault Refusal :=
  entryRow (fun w => reservedOp (opOf w)) actReserved v s

/-! ## CONTROL and INVOKE (R81) -/

/-- The answer to a request finishes its entry. -/
def finishRequest (s : State) (v : Nat) (a : Answer) (vd : Nat) : State × Six :=
  if a.status = 0x00 then
    let s := match a.value with
      | some k => setVreg s v vd k
      | none => s
    (s, .done { Result.ok with cond := a.cond })
  else (s, .done (Result.fail a.status.toNat a.ext.toNat))

/-- A request is made, or its answer is taken. -/
def request (s : State) (v : Nat) (x : Voyage) (w : List Word) (r : Request) (vd : Nat) : State × Six :=
  match x.answer with
  | some a => finishRequest s v a vd
  | none => (joinRequest s (tgtOf w) r, .park (.request (tgtOf w)))

/-- CONTROL. -/
def actControl (s : State) (v : Nat) (x : Voyage) (w : List Word) : State × Six :=
  request s v x w { invoke := false, vid := some v, cmd := wd w 2, arg := wd w 3 } 0

/-- CONTROL (R81). -/
def execMControl (v : Fin 4096) (s : State) : Host.Outcome State Fault Refusal := entryRow (withOp 0x03) actControl v s

/-- INVOKE. -/
def actInvoke (s : State) (v : Nat) (x : Voyage) (w : List Word) : State × Six :=
  let arg := if (wd w 5).getLsbD 0 then vreg x (fieldOf (wd w 5) 4 3) else wd w 2
  request s v x w { invoke := true, vid := some v, cmd := wd w 3, arg := arg } (fieldOf (wd w 4) 0 3)

/-- INVOKE (R81). -/
def execMInvoke (v : Fin 4096) (s : State) : Host.Outcome State Fault Refusal := entryRow (withOp 0x0A) actInvoke v s

/-! ## SENSE (R82) -/

/-- The input image that a voyage reads, with its invalid mark: of the landing of its own crossing, or the latest. -/
def senseImage (x : Voyage) (q : Port) : Tab Word × Bool :=
  if x.timed then tGet q.byClass x.xclass ([], true) else (q.latched, q.latchedInvalid)

/-- SENSE. -/
def actSense (s : State) (v : Nat) (x : Voyage) (w : List Word) : State × Six :=
  let q := portOf s (tgtOf w)
  let k := fieldOf (wd w 4) 0 8 / 4
  let vd := fieldOf (wd w 5) 0 3
  if q.eng.state = .noImage then (setVreg s v vd 0, .done (okCond 2))
  else if imageInWords q ≤ k then faultOut s v 0x15 0x02
  else
    let img := senseImage x q
    let val := tGet img.1 k 0
    let c : BitVec 2 := if img.2 then 2 else if val &&& wd w 6 = wd w 2 then 0 else 1
    (setVreg s v vd val, .done (okCond c))

/-- SENSE (R82). -/
def execMSense (v : Fin 4096) (s : State) : Host.Outcome State Fault Refusal := entryRow (withOp 0x04) actSense v s

/-! ## WAIT (R84) -/

/-- The watch latch without its pulse of event `e`, if it holds one. -/
def takeWatch (x : Voyage) (e : Nat) : Option Watch :=
  match x.watch with
  | none => none
  | some w =>
    if e = 384 + w.channel ∧ w.completion then some { w with completion := false }
    else if e = 416 + w.channel ∧ w.mismatch then some { w with mismatch := false }
    else none

/-- WAIT. -/
def actWait (s : State) (v : Nat) (x : Voyage) (w : List Word) : State × Six :=
  let e := fieldOf (wd w 4) 0 10
  if x.saw then (s, .done Result.ok)
  else
    match takeWatch x e with
    | some t => (modVoy s v fun x => { x with watch := some t }, .done Result.ok)
    | none => (s, .park (if x.timed && e == 448 + x.xclass then .landing else .event e))

/-- WAIT (R84). -/
def execMWait (v : Fin 4096) (s : State) : Host.Outcome State Fault Refusal := entryRow (withOp 0x06) actWait v s

/-! ## TEST (R85) -/

/-- The condition of a comparison of X with `CMP`. -/
def compareCond (signed : Bool) (a b : Word) : BitVec 2 :=
  if a = b then 0 else if (if signed then a.slt b else a.ult b) then 1 else 2

/-- The source S of a TEST, none where no mismatch is latched. -/
def testSource (s : State) (x : Voyage) (w : List Word) : Option Word :=
  if tgtOf w = 0xF0 then
    some (match queueOf s (queueOfEntry w) with
      | some q => BitVec.ofNat 32 (visibleTo q (boundFor x q))
      | none => 0)
  else if tgtOf w = 0xF1 then (chanOf s (fieldOf (wd w 4) 0 5)).latch
  else some (vreg x (fieldOf (wd w 4) 0 3))

/-- TEST. -/
def actTest (s : State) (_v : Nat) (x : Voyage) (w : List Word) : State × Six :=
  let c := match testSource s x w with
    | none => 3
    | some a => compareCond ((wd w 5).getLsbD 0) (a &&& wd w 6) (wd w 2)
  (s, .done { Result.ok with cond := some c })

/-- TEST (R85). -/
def execMTest (v : Fin 4096) (s : State) : Host.Outcome State Fault Refusal := entryRow (withOp 0x07) actTest v s

/-! ## BARGE (R89, R129) -/

/-- The watch latch is armed for channel `n` (R89). -/
def armWatch (s : State) (v n : Nat) : State := markEffect (modVoy s v fun x => { x with watch := some { channel := n } }) v

/-- The barge bytes that are left to a voyage, where they bind it: a transfer that has been charged is not charged again (R129, R145). -/
def bargeBudget (x : Voyage) : Option Nat := if x.timed && !x.bytesCharged then some x.bytes else none

/-- The barge bytes of a loaded descriptor are charged. -/
def chargeBytes (s : State) (v n : Nat) : State :=
  modVoy s v fun x => { x with bytes := if (bargeBudget x).isSome then x.bytes - n else x.bytes, bytesCharged := true }

/-- BARGE. -/
def actBarge (s : State) (v : Nat) (x : Voyage) (w : List Word) : State × Six :=
  let n := fieldOf (wd w 4) 0 5
  match asleepAt s x.part (addrOf w) with
  | some b => if (windowFail s x.part (addrOf w) 32 .read).isNone then (wakeBank s b, .hold) else load n
  | none => load n
where
  load (n : Nat) : State × Six :=
    match loadDesc s x.part n (addrOf w) x.timed (bargeBudget x) with
    | .loaded s k => (armWatch (chargeBytes s v k) v n, .done Result.ok)
    | .window s e => (nextLoader s n, .done (Result.fail 0x14 e))
    | .lost s e => (nextLoader s n, .done (Result.fail 0x32 e))
    | .rejected s => (nextLoader s n, .done (Result.fail 0x16 0x0A))
    | .budget => (nextLoader s n, .done (Result.fail 0x21 0x03))
    | .full =>
      (modChan s n fun c => { c with waiting := if c.waiting.contains v then c.waiting else c.waiting ++ [v] },
        .park (.shadow n))

/-- BARGE (R89). -/
def execMBarge (v : Fin 4096) (s : State) : Host.Outcome State Fault Refusal := entryRow (withOp 0x0B) actBarge v s

/-! ## SIGNAL (R88) -/

/-- SIGNAL. -/
def actSignal (s : State) (v : Nat) (x : Voyage) (w : List Word) : State × Six :=
  let e := fieldOf (wd w 4) 0 10
  if ownsAssignable s x.part e then (markEffect (pulse s e none) v, .done Result.ok)
  else (s, .done (Result.fail 0x13 0x04))

/-- SIGNAL (R88). -/
def execMSignal (v : Fin 4096) (s : State) : Host.Outcome State Fault Refusal := entryRow (withOp 0x0F) actSignal v s

end Sys2Proof.Machine
end

