-- ==== Sys2Proof/Machine/ManifestData.lean ====
section
/-!
DEFINITION. The manifest entries READ and WRITE (03_manifests.md R78 to R80, R99 to R101).
-/
namespace Sys2Proof.Machine

/-! ## READ (R79) -/

/-- READ from a port's scratchpad. -/
def readPort (s : State) (v : Nat) (x : Voyage) (w : List Word) : State × Six :=
  let p := tgtOf w
  let lo := spadBurst x
  let n := countOf w
  destined s v x w fun s =>
    let q := portOf s p
    if !inFabric q (spadStart x) n then faultOut s v 0x15 0x02
    else
      let m := burstLen s x w n lo
      let bad := failingWord q lo m false
      let k := goodBytes lo m bad
      let s := correctSpads (deliverBytes s v x w (memBytes q.spad lo k)) p lo k false
      let s := setMoved s v (x.chainK + x.burst + k)
      match bad with
      | some i => spadFailed s v p i
      | none => nextBurst s v x n m fun s => nextOr s w (okCond 0)

/-- READ of a voyage register. -/
def readReg4 (s : State) (v : Nat) (x : Voyage) (w : List Word) : State × Six :=
  destined s v x w fun s =>
    (deliverBytes s v x w (leBytes 4 (vreg x (fieldOf (wd w 4) 0 3)).toNat), .done (okCond 0))

/-- The buffers of the current entry take their part of a claimed packet (R79, R99, R100). -/
def fillFrom (s : State) (v : Nat) (x : Voyage) (w : List Word) (qn : Nat) (p : Packet) : State × Six :=
  let n := countOf w
  let k := x.chainK + n
  let have_ := min n (p.len - x.chainK)
  let pos := x.chainK + x.burst
  let m := burstLen s x w have_ pos
  let f := readPacket s qn p pos m
  let s := setMoved (deliverBytes f.state v x w f.bytes) v (pos + f.bytes.length)
  match f.loss with
  | some e => faultOut s v 0x32 e
  | none =>
    nextBurst s v x have_ m fun s =>
      if fSpan w then (if p.len ≤ k then (s, .short { status := 0x01, cond := some 1 }) else (s, .more))
      else if k < p.len then (s, .done (Result.fail 0x15 0x01))
      else if p.len < k then (s, .done { status := 0x01, goesOn := true, cond := some 1, residual := k - p.len })
      else (s, .done (okCond 0))

/-- READ from a queue: the packet is claimed in the cycle in which step 6 begins, whether or not the destination's bank is awake (R586). -/
def readQueue (s : State) (v : Nat) (x : Voyage) (w : List Word) : State × Six :=
  let qn := queueOfEntry x.first
  (if fSink w then fun k => k s else tested s v x w .write) fun s =>
    match claimFor s v x qn with
    | .packet s p => if fSink w then fillFrom s v x w qn p else wakened s x w fun s => fillFrom s v x w qn p
    | .lost s => faultOut s v 0x32 0x01
    | .none =>
      if x.timed then (s, .short { status := 0x11, ext := 0x02, cond := some 3 })
      else (waitOn s qn (.voyage v), .park (.queue qn))

/-- READ. -/
def actRead (s : State) (v : Nat) (x : Voyage) (w : List Word) : State × Six :=
  if isPortTarget w then readPort s v x w else if tgtOf w = 0xF0 then readQueue s v x w else readReg4 s v x w

/-- READ (R79). -/
def execMRead (v : Fin 4096) (s : State) : Host.Outcome State Fault Refusal := entryRow (withOp 0x01) actRead v s

/-! ## WRITE (R80) -/

/-- WRITE to a port's scratchpad. -/
def writePort (s : State) (v : Nat) (x : Voyage) (w : List Word) : State × Six :=
  let p := tgtOf w
  let lo := spadBurst x
  sourced s v x w lo fun s l loss =>
    let q := portOf s p
    if !inFabric q (spadStart x) (countOf w) then faultOut s v 0x15 0x02
    else
      let bad := failingWord q lo l.length true
      let k := goodBytes lo l.length bad
      let s := correctSpads s p lo k true
      let s := if k = 0 then s else markEffect (fabricWrite s p lo (l.take k)) v
      let s := setMoved s v (x.chainK + x.burst + k)
      match bad, loss with
      | some i, _ => spadFailed s v p i
      | none, some e => faultOut s v 0x32 e
      | none, none => nextBurst s v x (countOf w) l.length fun s => nextOr s w Result.ok

/-- WRITE of a voyage register. -/
def writeReg4 (s : State) (v : Nat) (x : Voyage) (w : List Word) : State × Six :=
  sourced s v x w x.burst fun s l loss =>
    let r := fieldOf (wd w 4) 0 3
    match loss with
    | some e => faultOut s v 0x32 e
    | none =>
      let u := if x.burst = 0 then BitVec.ofNat 32 (leNat l)
        else vreg x r % BitVec.ofNat 32 (2 ^ (8 * x.burst)) + BitVec.ofNat 32 (leNat l * 2 ^ (8 * x.burst))
      nextBurst (setVreg s v r u) v x (countOf w) l.length fun s => (s, .done Result.ok)

/-- WRITE to a queue: the last entry of the chain commits the packet. -/
def writeQueue (s : State) (v : Nat) (x : Voyage) (w : List Word) : State × Six :=
  let qn := queueOfEntry x.first
  let pos := x.chainK + x.burst
  sourced s v x w pos fun s l loss =>
    match loss with
    | some e => faultOut s v 0x32 e
    | none =>
      produce s v qn pos l fun s =>
        nextBurst s v x (countOf w) l.length fun s =>
          nextOr (if fSpan w then s else commitPacket (markEffect s v) (.voyage v) qn) w Result.ok

/-- WRITE. -/
def actWrite (s : State) (v : Nat) (x : Voyage) (w : List Word) : State × Six :=
  if isPortTarget w then writePort s v x w else if tgtOf w = 0xF0 then writeQueue s v x w else writeReg4 s v x w

/-- WRITE (R80). -/
def execMWrite (v : Fin 4096) (s : State) : Host.Outcome State Fault Refusal := entryRow (withOp 0x02) actWrite v s

end Sys2Proof.Machine
end

