-- ==== Sys2Proof/Machine/ManifestQueue.lean ====
section
/-!
DEFINITION. The manifest entries FORWARD, QUEUE, AUTH and ENDPOINT (03_manifests.md R78, R90 to R93; 13_bus_roles.md R411; 14_endpoints_and_identity.md R415, R416; 17_security_and_logbook.md R487 to R489).
-/
namespace Sys2Proof.Machine

/-! ## FORWARD (R90) -/

/-- Where a FORWARD delivers, or the status and extended status with which its lookup ends it. -/
def forwardPath (s : State) (x : Voyage) (w : List Word) : (Nat × Nat) ⊕ SendPath :=
  if isPortTarget w then
    let q := (portOf s (tgtOf w)).txq
    if q = 0x1FFF ∨ (queueOf s q.toNat).isNone then .inl (0x13, 0x02) else .inr (.queue q.toNat true)
  else if tgtOf w = 0xF0 then .inr (.queue (fieldOf (wd w 5) 0 13) false)
  else sendPath s x.part (fieldOf (wd w 5) 0 14)

/-- A lookup at step 6, which finds the path of the message and the entry that stamps it; both are kept until the message is committed, whatever becomes of the entry meanwhile (R415 to R417). -/
def lookedUp (s : State) (v : Nat) (x : Voyage) (eid : Nat) (r : (Nat × Nat) ⊕ SendPath) (fail : Nat × Nat → State × Six)
    (k : State → Sending → State × Six) : State × Six :=
  match x.path, r with
  | some p, _ => k s p
  | none, .inl e => fail e
  | none, .inr path =>
    let p : Sending := { path := path, entry := epOf s eid }
    k (modVoy s v fun x => { x with path := some p }) p

/-- The packet with `IDENT` in its word 0x00, for a port and for a queue (R90). -/
def forwarded (w : List Word) (m : List Byte) : List Byte :=
  if wd w 6 = BitVec.allOnes 32 then m else putIdent m (wd w 6 &&& 0x7FFFFFFF)

/-- The packet of `l` stands in the packet under production and is committed. -/
def commitForward (s : State) (v : Nat) (x : Voyage) (w : List Word) (p : Sending) (qn : Nat) (r : Result) : State × Six :=
  if tgtOf w = 0xF2 then
    match finishSend s (.voyage v) x.part (fieldOf (wd w 5) 0 14) p (wd w 6) qn with
    | .done s => (markEffect s v, .done r)
    | .stall s q reason => (stallProducer s (.voyage v) q reason, .park (.quota q))
    | .fail s st e => faultOut s v st e
  else
    let s := setBuilt s (.voyage v) qn (forwarded w (builtBytes s (.voyage v) qn))
    (commitPacket s (.voyage v) qn, .done r)

/-- A claimed packet is delivered, burst by burst, or consumed under `SINK`; a FORWARD that ends with a fault has consumed it, delivers nothing, and its residual is `COUNT` (R78, R111; log 40). -/
def forwardPacket (s : State) (v : Nat) (x : Voyage) (w : List Word) (path : Option Sending) (p : Packet) : State × Six :=
  let n := countOf w
  let r : Result := { Result.ok with residual := n - p.len }
  let m := min (p.len - x.burst) (64 - x.burst % 64)
  if n < p.len then faultOut s v 0x15 0x03
  else if path.any fun q => tgtOf w == 0xF2 && tooLong q p.len then faultOut s v 0x15 0x04
  else
    let f := readPacket s (queueOfEntry w) p x.burst m
    match f.loss, path with
    | some e, _ => faultOut f.state v 0x32 e
    | none, none => nextBurst f.state v x p.len m fun s => (s, .done r)
    | none, some q =>
      match pathQueue q.path with
      | none =>
        nextBurst (modVoy f.state v fun x => { x with gather := x.gather ++ f.bytes }) v x p.len m fun s =>
          (markEffect (commitSink s x.part (x.gather ++ f.bytes)) v, .done r)
      | some qn =>
        produce f.state v qn x.burst f.bytes fun s => nextBurst s v x p.len m fun s => commitForward s v x w q qn r

/-- FORWARD, its destination known. -/
def forwardTo (s : State) (v : Nat) (x : Voyage) (w : List Word) (path : Option Sending) : State × Six :=
  let qn := queueOfEntry w
  match claimFor s v x qn with
  | .packet s p => forwardPacket s v x w path p
  | .lost s => faultOut s v 0x32 0x01
  | .none =>
    if x.timed then faultOut s v 0x11 0x02
    else (waitOn s qn (.voyage v), .park (.queue qn))

/-- FORWARD: the destination is looked up before the packet is claimed. -/
def actForward (s : State) (v : Nat) (x : Voyage) (w : List Word) : State × Six :=
  if fSink w then forwardTo s v x w none
  else
    lookedUp s v x (fieldOf (wd w 5) 0 14) (forwardPath s x w) (fun e => faultOut s v e.1 e.2)
      fun s p => forwardTo s v x w (some p)

/-- FORWARD (R90). -/
def execMForward (v : Fin 4096) (s : State) : Host.Outcome State Fault Refusal := entryRow (withOp 0x0C) actForward v s

/-! ## QUEUE (R91, R257) -/

/-- `QOP` (R91). -/
def qopOf (w : List Word) : Nat := fieldOf (wd w 5) 0 3
/-- QUEUE with one of its operations. -/
def withQop (k : Nat) (w : List Word) : Bool := opOf w == 0x0D && qopOf w == k

/-- MARK. -/
def actQueueMark (s : State) (_v : Nat) (_x : Voyage) (w : List Word) : State × Six :=
  (queueMark s (queueOfEntry w), .done Result.ok)

/-- QUEUE MARK (R91); a reserved `QOP` ends the voyage at step 2 and never comes to step 6. -/
def execMQueueMark (v : Fin 4096) (s : State) : Host.Outcome State Fault Refusal :=
  entryRow (fun w => withQop 0 w || (opOf w == 0x0D && 5 ≤ qopOf w)) actQueueMark v s

/-- REWIND. -/
def actQueueRewind (s : State) (_v : Nat) (_x : Voyage) (w : List Word) : State × Six :=
  (queueRewind s (queueOfEntry w), .done Result.ok)

/-- QUEUE REWIND (R91). -/
def execMQueueRewind (v : Fin 4096) (s : State) : Host.Outcome State Fault Refusal := entryRow (withQop 1) actQueueRewind v s

/-- RELEASE. -/
def actQueueRelease (s : State) (_v : Nat) (_x : Voyage) (w : List Word) : State × Six :=
  (queueRelease s (queueOfEntry w), .done Result.ok)

/-- QUEUE RELEASE (R91, R257). -/
def execMQueueRelease (v : Fin 4096) (s : State) : Host.Outcome State Fault Refusal := entryRow (withQop 2) actQueueRelease v s

/-- A count of queue `QUEUE` goes to V[`VD`]. -/
def countTo (s : State) (v : Nat) (w : List Word) (f : Queue → Nat) : State × Six :=
  let n := ((queueOf s (queueOfEntry w)).map f).getD 0
  (setVreg s v (fieldOf (wd w 5) 4 3) (BitVec.ofNat 32 n), .done Result.ok)

/-- DEPTH. -/
def actQueueDepth (s : State) (v : Nat) (x : Voyage) (w : List Word) : State × Six :=
  countTo s v w fun q => visibleTo q (boundFor x q)

/-- QUEUE DEPTH (R91). -/
def execMQueueDepth (v : Fin 4096) (s : State) : Host.Outcome State Fault Refusal := entryRow (withQop 3) actQueueDepth v s

/-- BYTES. -/
def actQueueBytes (s : State) (v : Nat) (x : Voyage) (w : List Word) : State × Six :=
  countTo s v w fun q => visibleBytesTo q (boundFor x q)

/-- QUEUE BYTES (R91). -/
def execMQueueBytes (v : Fin 4096) (s : State) : Host.Outcome State Fault Refusal := entryRow (withQop 4) actQueueBytes v s

/-! ## AUTH (R92, R488) -/

/-- The packet that an AUTH inspects. -/
def inspected (s : State) (x : Voyage) (qn : Nat) : Option Packet :=
  (queueOf s qn).bind fun q => if visibleTo q (boundFor x q) = 0 then none else packetAt q q.readAt

/-- The condition of an AUTH whose key is usable, with `FRESH` where the counter takes it. -/
def authCond (key : List Byte) (eid : Nat) (m : List Byte) (rxFresh : BitVec 64) : BitVec 2 × Option (BitVec 64) :=
  if m.length < 16 then (3, none)
  else
    let body := m.take (m.length - 8)
    let fresh := BitVec.ofNat 64 (leNat (body.drop (m.length - 16)))
    if macOf key eid body != m.drop (m.length - 8) then (1, none)
    else if fresh.toNat ≤ rxFresh.toNat then (2, none)
    else (0, some fresh)

/-- The crypto engine accepts a voyage's request (R484, R488): the endpoint's entry, its key and `RXFRESH` are read now, and `RXFRESH` takes `FRESH` for condition 0. What is found is delivered by the answer. -/
def acceptAuth (s : State) (v : Nat) (x : Voyage) (eid : Nat) (m : List Byte) : State :=
  let e := epOf s eid
  let found (s : State) (r : AuthFinding) : State :=
    modVoy (joinCrypto s v) v fun x => { x with auth := some r }
  match authFail s x.part e e.rxFresh with
  | some k => found s (.fail k)
  | none =>
    let r := authCond (slotOf s e.keySlot.toNat).material eid m e.rxFresh
    let s := match r.2 with
      | some f => markEffect (modEp s eid fun e => { e with rxFresh := f }) v
      | none => s
    found s (.cond r.1)

/-- AUTH: the packet is handed to the crypto engine, which accepts the request in the same cycle (DEDUCED; log 44). -/
def actAuth (s : State) (v : Nat) (x : Voyage) (w : List Word) : State × Six :=
  match inspected s x (queueOfEntry w) with
  | none => (s, .done (okCond 3))
  | some p =>
    let f := readPacket s (queueOfEntry w) p 0 p.len
    match f.loss with
    | some e => (f.state, .done (Result.fail 0x32 e))
    | none => (acceptAuth f.state v x (fieldOf (wd w 5) 0 14) f.bytes, .park .crypto)

/-- AUTH (R92). -/
def execMAuth (v : Fin 4096) (s : State) : Host.Outcome State Fault Refusal := entryRow (withOp 0x10) actAuth v s

/-! ## ENDPOINT (R93, R415) -/

/-- The message of the chain is whole and is committed to its path. -/
def commitEndpoint (s : State) (v : Nat) (x : Voyage) (w : List Word) (p : Sending) (qn : Nat) : State × Six :=
  if fSpan w then (s, .more)
  else
    match finishSend s (.voyage v) x.part (fieldOf (wd x.first 4) 0 14) p (wd x.first 6) qn with
    | .done s => (markEffect s v, .done Result.ok)
    | .stall s q reason => (stallProducer s (.voyage v) q reason, .park (.quota q))
    | .fail s st e => faultOut s v st e

/-- The bytes of the current entry join the message. -/
def endpointBytes (s : State) (v : Nat) (x : Voyage) (w : List Word) (p : Sending) (l : List Byte) : State × Six :=
  match pathQueue p.path with
  | some qn =>
    produce s v qn (x.chainK + x.burst) l fun s =>
      nextBurst s v x (countOf w) l.length fun s => commitEndpoint s v x w p qn
  | none =>
    let s := setMoved (modVoy s v fun x => { x with gather := x.gather ++ l }) v (x.chainK + x.burst + l.length)
    nextBurst s v x (countOf w) l.length fun s =>
      if fSpan w then (s, .more) else (markEffect (commitSink s x.part (x.gather ++ l)) v, .done Result.ok)

/-- ENDPOINT: the lookup, then the window tests, then the length (R72, R415). -/
def actEndpoint (s : State) (v : Nat) (x : Voyage) (w : List Word) : State × Six :=
  let eid := fieldOf (wd x.first 4) 0 14
  lookedUp s v x eid (sendPath s x.part eid) (fun e => faultOut s v e.1 e.2) fun s p =>
    ranged s v x w .read fun s =>
      if tooLong p (x.chainK + countOf w) then faultOut s v 0x15 0x04
      else
        sourced s v x w (x.chainK + x.burst) fun s l loss =>
          match loss with
          | some e => faultOut s v 0x32 e
          | none => endpointBytes s v x w p l

/-- ENDPOINT (R93). -/
def execMEndpoint (v : Fin 4096) (s : State) : Host.Outcome State Fault Refusal := entryRow (withOp 0x11) actEndpoint v s

end Sys2Proof.Machine
end

