-- ==== Sys2Proof/Machine/Registers.lean ====
section
/-!
DEFINITION. The registers of the global space: where they lie and what they read as (20_register_map.md R547, R548, R552 to R558, and the field tables of the chapters that own them).
-/
namespace Sys2Proof.Machine

/-! ## The map (R554, R555) -/

/-- The registers of BAR2; the indices are those of R555, `word` being a register's place in its group. -/
inductive GReg where
  | glb (word : Nat)
  | bb (n word : Nat)
  | lsy (word : Nat)
  | fry (word : Nat)
  | mfc
  | dck (word : Nat)
  | pwr (word : Nat)
  | sec (word : Nat)
  | sealPub (i : Nat)
  | slot (n : Nat)
  | macTx (n word : Nat)
  | macRx (n c word : Nat)
  | log (word : Nat)
  | epd (word : Nat)
  | epdLink (n word : Nat)
  | epdCnt (n : Nat)
  | idb
  | maker (m : Nat)
  | brg (n word : Nat)
  | brtCfg (a : Nat)
  | brtStat (a : Nat)
  | brtReq (a k : Nat)
  | icuCtl
  | icuGrp (g : Nat)
  | icuHattn (k : Nat)
  | icuT33 (word : Nat)
  | icuSrc (n : Nat)
  | ptn (n word : Nat)
  | win (n m word : Nat)
  | resetDone
  | gbk (n word : Nat)
  | gbkEcc
  | prt (n word : Nat)
  | wake (n word : Nat)
deriving DecidableEq, Repr

/-- A register of the `GLB_` block. -/
def glbReg (o : Nat) : Option GReg :=
  if o < 4 then some (.glb o)
  else if 8 ≤ o ∧ o < 16 ∧ o % 4 < 3 then some (.bb (o / 4 - 2) (o % 4))
  else none

/-- A register of the `SEC_` block. -/
def secReg (o : Nat) : Option GReg :=
  if o < 3 then some (.sec o)
  else if 0x10 ≤ o ∧ o < 0x20 then some (.sealPub (o - 0x10))
  else if 0x40 ≤ o ∧ o < 0x80 then some (.slot (o - 0x40))
  else if 0x100 ≤ o ∧ o < 0x200 then
    let n := (o - 0x100) / 0x80
    let k := (o - 0x100) % 0x80
    if k < 7 then some (.macTx n k)
    else if 0x10 ≤ k ∧ k < 0x30 ∧ k % 8 < 6 then some (.macRx n (k / 8 - 2) (k % 8))
    else none
  else none

/-- A register of the `EPD_` block. -/
def epdReg (o : Nat) : Option GReg :=
  if o < 4 then some (.epd o)
  else if o < 12 then some (.epdLink (o / 4 - 1) (o % 4))
  else if 0x10 ≤ o ∧ o < 0x16 then some (.epdCnt (o - 0x10))
  else none

/-- A register of the `BRT_` block. -/
def brtReg (o : Nat) : Option GReg :=
  let a := o / 0x40
  let k := o % 0x40
  if 39 ≤ a then none
  else if k = 0 then some (.brtCfg a)
  else if k = 1 then some (.brtStat a)
  else if 4 ≤ k ∧ k < 53 then some (.brtReq a (k - 4))
  else none

/-- A register of the `ICU_` block. -/
def icuReg (o : Nat) : Option GReg :=
  if o = 0 then some .icuCtl
  else if 0x40 ≤ o ∧ o < 0x80 then some (.icuGrp (o - 0x40))
  else if 0x80 ≤ o ∧ o < 0x84 then some (.icuHattn (o - 0x80))
  else if o = 0x84 ∨ o = 0x85 then some (.icuT33 (o - 0x84))
  else if 0x400 ≤ o ∧ o < 0x800 then some (.icuSrc (o - 0x400))
  else none

/-- A register of the `PTN_n_` block. -/
def ptnReg (o : Nat) : Option GReg :=
  let n := o / 0x200
  let k := o % 0x200
  if k < 2 then some (.ptn n k)
  else if 0x40 ≤ k ∧ k < 0x40 + 7 * 64 then some (.win n ((k - 0x40) / 7) ((k - 0x40) % 7))
  else none

/-- A register of the `GBK_` block. -/
def gbkReg (o : Nat) : Option GReg :=
  if o = 0x80 then some .gbkEcc else if o < 0x80 ∧ o % 8 < 4 then some (.gbk (o / 8) (o % 8)) else none

/-- A register of the `PRT_n_` block. -/
def prtReg (o : Nat) : Option GReg :=
  let n := o / 0x40
  let k := o % 0x40
  if 96 ≤ n then none
  else if k < 2 then some (.prt n k)
  else if n < 8 ∧ 8 ≤ k ∧ k < 15 then some (.wake n (k - 8))
  else none

/-- A word number below a bound names a register. -/
def below (o n : Nat) (f : Nat → GReg) : Option GReg := if o < n then some (f o) else none

/-- The register at a word-aligned offset of BAR2; none where the offset is reserved (R548). -/
def gregAt (off : Nat) : Option GReg :=
  let o := off / 4
  if off < 0x1000 then glbReg o
  else if off < 0x2000 then (if o = 0x40B then none else below (o - 0x400) 13 .lsy)
  else if off < 0x3000 then below (o - 0x800) 5 .fry
  else if off < 0x4000 then below (o - 0xC00) 1 fun _ => .mfc
  else if off < 0x5000 then below (o - 0x1000) 7 .dck
  else if off < 0x6000 then below (o - 0x1400) 11 .pwr
  else if off < 0x7000 then secReg (o - 0x1800)
  else if off < 0x8000 then below (o - 0x1C00) 5 .log
  else if off < 0x9000 then epdReg (o - 0x2000)
  else if off < 0x10000 then
    let k := o - 0x2400
    if k = 0 then some .idb else if 4 ≤ k ∧ k < 12 then some (.maker (k - 4)) else none
  else if off < 0x20000 then
    let k := o - 0x4000
    if k < 0x200 ∧ k % 16 < 7 then some (.brg (k / 16) (k % 16)) else none
  else if off < 0x30000 then brtReg (o - 0x8000)
  else if off < 0x40000 then icuReg (o - 0xC000)
  else if off < 0x50000 then ptnReg (o - 0x10000)
  else if off < 0x60000 then (if off = 0x50000 then some .resetDone else none)
  else if off < 0x100000 then gbkReg (o - 0x18000)
  else prtReg (o - 0x40000)

/-! ## What they read as -/

/-- A bit of a word. -/
def bitW (b : Bool) (k : Nat) : Nat := if b then 2 ^ k else 0

/-- The low word of a number. -/
def loW (n : Nat) : Word := BitVec.ofNat 32 n
/-- The high word of a 64-bit number. -/
def hiW (n : Nat) : Word := BitVec.ofNat 32 (n / 2 ^ 32)

/-- A high half under the capture rule of R27: what the last read of its low half captured, or the live value. -/
def capturedHi (s : State) (key live : Nat) : Word := (tFind s.glb.capture key).getD (hiW live)

/-- `GLB_` (R556). -/
def readGlb (s : State) (k : Nat) : Word :=
  match k with
  | 0 => 0x019620B1
  | 1 => loW (bitW s.glb.lock 0)
  | 2 => s.glb.wrerr.setWidth 32
  | _ => s.glb.wraddr.setWidth 32 ||| bitW s.glb.wraddrValid 31

/-- `GLB_BBn_` (R406). -/
def readBb (s : State) (n k : Nat) : Word :=
  let b := bbOf s n
  match k with
  | 0 => loW (bitW b.en 0 + b.rate.toNat * 2 + bitW b.an 3 + bitW b.macsec 4)
  | 1 => b.lat
  | _ => loW (bitW b.link 0 + b.speed.toNat * 2)

/-- `LSY_` (R557). -/
def readLsy (s : State) (k : Nat) : Word :=
  let t := s.tb
  match k with
  | 0 => loW t.time
  | 1 => capturedHi s 0x1000 t.time
  | 2 => loW t.lsn
  | 3 => capturedHi s 0x1008 t.lsn
  | 4 => t.rate
  | 5 => loW (t.source.toNat + bitW t.holdover 2 + bitW t.gptpSync 3 + t.misses * 2 ^ 4)
  | 6 => BitVec.ofInt 32 t.p
  | 7 => loW (t.div + t.w.toNat * 2 ^ 16)
  | 8 => loW t.t0
  | 9 => loW (t.m1 + t.m2 * 2 ^ 16)
  | 10 => loW (t.m3 + t.c * 2 ^ 16)
  | _ => s.glb.landoutWidth.setWidth 32

/-- `FRY_` (R148). -/
def readFry (s : State) (k : Nat) : Word :=
  let m := admittedSums s
  match k with
  | 0 => loW (s.sch.inService.toNat + (slotList s).length * 2 ^ 16)
  | 1 => loW (s.sch.admBrate.toNat + s.sch.quantum.toNat * 2 ^ 16)
  | 2 => s.sch.admCells.setWidth 32
  | 3 => loW m.cycles
  | _ => loW (m.count + m.pages.length * 2 ^ 11)

/-- The page of a START's header is being filled (R61, R138): its fetch is on its way, and the page not in the cache. -/
def headerFilling (s : State) (x : Voyage) : Bool := x.hdr.isEmpty && inOnePage x && (headerPage s x).isNone

/-- `MFC_STATUS` (R558). -/
def readMfc (s : State) : Word :=
  loW (s.sch.pages.length + bitW (!s.sch.fills.isEmpty || s.sch.starting.any fun y => headerFilling s y.2) 16)

/-- The state of the queue that `DCK_QSEL` selects. -/
def readQstate (s : State) : Word :=
  let n := s.deck.qsel.toNat
  match tFind s.deck.queues n with
  | none => 0
  | some q =>
    loW (heldOf q + q.owner * 2 ^ 19 + bitW true 24 + bitW (s.deck.stalls.any fun x => x.queue == n && !x.granted) 25
      + bitW (!q.waiting.isEmpty) 26)

/-- `DCK_` (R263). -/
def readDck (s : State) (k : Nat) : Word :=
  match k with
  | 0 => loW (freeCells s)
  | 1 => flatWord s
  | 2 => s.deck.quarantined ++ s.deck.corrected
  | 3 => loW (s.deck.eccCell.toNat + bitW s.deck.eccValid 31)
  | 4 => s.deck.qsel.setWidth 32
  | 5 => readQstate s
  | _ => loW (((tFind s.deck.queues s.deck.qsel.toNat).map fun q => min 0xFFFFFF (visible q)).getD 0)

/-- `PWR_` (R531). -/
def readPwr (s : State) (k : Nat) : Word :=
  let p := s.pwr
  match k with
  | 0 => loW (p.lastReset.toNat + bitW p.mooring.isSome 4 + bitW p.hold 5 + bitW p.thermal 6 + bitW p.holdRefused 7
      + p.wakeSrc.toNat * 2 ^ 8)
  | 1 => p.domains.setWidth 32
  | 2 => (p.domains >>> 32).setWidth 32
  | 3 => 0
  | 4 => p.holdLimit.setWidth 32
  | 5 => loW (p.sticky.toNat + bitW p.hold 5 + bitW (!p.railsWarn.isEmpty) 6 + bitW (p.critOn != 0) 7 + bitW p.nofw 8)
  | 10 => loW (p.twarn.toNat + p.tcrit.toNat * 2 ^ 8 + bitW p.thermAct 16)
  | _ => (tGet p.temp (k - 6) 0).setWidth 32

/-- FAULT_N is driven low while any bit of `PWR_FAULT` is 1 (R524). -/
def faultLow (s : State) : Bool := readPwr s 5 != 0

/-- `SEC_` (R504). -/
def readSec (s : State) (k : Nat) : Word :=
  match k with
  | 0 => loW (bitW s.sec.kekSet 0 + bitW s.sec.trngFail 1 + bitW s.sec.noSealKey 2 + s.sec.dbgLevel.toNat * 2 ^ 3
      + s.sec.dbgFails.toNat * 2 ^ 8)
  | 1 => Config.devSerial.setWidth 32
  | _ => (Config.devSerial >>> 32).setWidth 32

/-- `SEC_SEALPUBi` (R504): 0 while slot 0 is empty. -/
def readSealPub (s : State) (i : Nat) : Word :=
  let m := (slotOf s 0).material
  if m.isEmpty then 0 else wordAt (ecdsaPublic (beNat m)) i

/-- `SEC_SLOTn` (R504): slots 0 and 1 are kept through resets, whether or not they are filled (R479). -/
def readSlot (s : State) (n : Nat) : Word :=
  let k := slotOf s n
  loW (k.kind.toNat + k.filler.toNat * 2 ^ 4 + bitW (k.persist || decide (n < 2)) 9)

/-- An association register (R491). -/
def saWord (a : MacSa) : Word := loW (a.an.toNat + a.slot.toNat * 4 + bitW a.en 8)

/-- The transmit registers of a MACsec group (R491). -/
def readMacTx (s : State) (n k : Nat) : Word :=
  let m := macOfPort s n
  match k with
  | 0 => loW (m.replayWin.toNat + bitW m.txsel 16)
  | 1 => m.txSciLo
  | 2 => m.txSciHi
  | 3 => saWord (tGet m.tx 0 {})
  | 4 => (tGet m.tx 0 {}).pn
  | 5 => saWord (tGet m.tx 1 {})
  | _ => (tGet m.tx 1 {}).pn

/-- The receive registers of a MACsec group (R491). -/
def readMacRx (s : State) (n c k : Nat) : Word :=
  let m := macOfPort s n
  match k with
  | 0 => tGet m.rxSciLo c 0
  | 1 => tGet m.rxSciHi c 0
  | 2 => saWord (tGet m.rx (2 * c) {})
  | 3 => saWord (tGet m.rx (2 * c + 1) {})
  | 4 => (tGet m.rx (2 * c) {}).pn
  | _ => (tGet m.rx (2 * c + 1) {}).pn

/-- `LOG_` (R504). -/
def readLog (s : State) (k : Nat) : Word :=
  match k with
  | 0 => loW (unexported s + bitW (logFull s) 13 + min 0xFFFF s.log.lost * 2 ^ 16)
  | 1 => loW s.log.next
  | 2 => capturedHi s 0x7004 s.log.next
  | 3 => loW s.log.mark
  | _ => capturedHi s 0x700C s.log.mark

/-- `STATE` of an endpoint entry. -/
def epStateCode : EpState → Nat
  | .free => 0
  | .pending => 1
  | .ready => 2

/-- `EPD_` (R430). -/
def readEpd (s : State) (k : Nat) : Word :=
  let n := s.ep.sel.toNat
  let e := epOf s n
  match k with
  | 0 => loW (s.ep.selfId.toNat + bitW s.ep.announce 8 + bitW s.ep.idConflict 9)
  | 1 => s.ep.sel.setWidth 32
  | 2 => if n = 0x3FFF then 3 else loW (epStateCode e.state + e.kind.toNat * 4 + e.owner.toNat * 2 ^ 4 + e.number.toNat * 2 ^ 16)
  | _ => e.portCom ++ e.neg

/-- `EPD_LINKn_` (R430): the parts 32 to 63 in the high words, those without a common version in words 2 and 3. -/
def readLink (s : State) (n k : Nat) : Word :=
  let base := 32 * (k % 2)
  loW ((linkOf s n).peers.foldl (fun w x =>
    if base ≤ x.1 ∧ x.1 < base + 32 ∧ ((x.2.version == 0) == decide (2 ≤ k)) then w + 2 ^ (x.1 - base) else w) 0)

/-- `BRG_n_` (R285). -/
def readBrg (s : State) (n k : Nat) : Word :=
  let c := chanOf s n
  match k with
  | 0 => loW ((c.owner.getD 0) + bitW c.owner.isSome 5 + c.prio.toNat * 2 ^ 8 + c.rate.toNat * 2 ^ 16)
  | 1 => loW (bitW c.active.isSome 0 + bitW c.shadow.isSome 1 + bitW (c.active.any fun t => t.desc.timed) 2 + bitW c.descBad 3
      + bitW c.loadRefused 4 + c.err.toNat * 2 ^ 8)
  | 2 => c.latch.getD 0
  | 3 => loW (bitW c.latch.isSome 0)
  | 4 => c.addrLo
  | 5 => c.addrHi
  | _ => 0

/-- `BRT_a_STAT` (R449). -/
def readBrtStat (s : State) (a : Nat) : Word :=
  let x := arbOf s a
  loW (bitW (x.slots.any fun y => y.2.starved) 0 + bitW (x.slots.any fun y => y.2.cutoff) 1 + bitW x.busy 2 + x.owner.toNat * 2 ^ 8)

/-- `BRT_a_REQs` (R449): 0 where the slot holds no requester. -/
def readReq (s : State) (a k : Nat) : Word :=
  let r := requesterOf s a k
  if slotPresent a k then
    loW (baseOf s a k + effective s a k * 2 ^ 4 + r.limit.toNat * 2 ^ 8 + r.losses.toNat * 2 ^ 16 + bitW r.starved 29
      + bitW r.cutoff 30 + bitW true 31)
  else 0

/-- The layout of `ICU_SRCs` and `ICU_PSRC` (R470). -/
def srcWord (s : State) (n tgt : Nat) : Word :=
  let a := srcOf s n
  loW (a.prio.toNat + a.vec.toNat * 2 ^ 8 + a.group.toNat * 2 ^ 16 + tgt * 2 ^ 24 + bitW (isLevel n) 29
    + bitW ((ownTarget s n).isSome && pendingOwn s n) 30 + bitW (inService s n) 31)

/-- `ICU_GRPg` (R471). -/
def grpWord (s : State) (g : Nat) : Word :=
  let x := tGet s.icu.group g {}
  loW (x.holdoff.toNat + bitW x.running 16)

/-- `PTN_n_STATUS`, `PTN_n_CELLS` (R235). -/
def readPtn (s : State) (n k : Nat) : Word :=
  match k with
  | 0 => loW (bitW (partOf s n).reset.isSome 0 + bitW (s.fw.bound == some n) 1 + bitW (doorOpen s n) 2
      + (partOf s n).wins.length * 2 ^ 8
      + ((List.range 8).foldl (fun w m => w + bitW (sqOf s n m).isSome (16 + m) + bitW (cqOf s n m).isSome (24 + m)) 0))
  | _ => loW (usedOf s n)

/-- `PTN_n_WINm` (R224). -/
def readWin (s : State) (n m k : Nat) : Word :=
  match tFind (partOf s n).wins m with
  | none => 0
  | some w =>
    match k with
    | 0 => loW (n + m * 2 ^ 8 + bitW w.r 16 + bitW w.w 17 + bitW w.x 18 + w.space.toNat * 2 ^ 20 + w.bank.toNat * 2 ^ 24)
    | 1 => loW w.base
    | 2 => hiW w.base
    | 3 => loW w.size
    | 4 => hiW w.size
    | 5 => loW w.target
    | _ => hiW w.target

/-- POWER_STATE is switching a general bank. -/
def bankSwitching (s : State) (n : Nat) : Bool := s.pwr.switching.any fun w => w.domain == 24 + n

/-- `PSTATE` of a bank (R545): in transition while it leaves retention, and while POWER_STATE switches it (R509). -/
def bankPstate (s : State) (n : Nat) : Nat :=
  let b := bankOf s n
  if bankSwitching s n || b.leaving then 3 else if !bankPowered s n then 0 else if b.ret then 2 else 1

/-- `GBK_n_` (R545). -/
def readGbk (s : State) (n k : Nat) : Word :=
  let b := bankOf s n
  match k with
  | 0 => ownWord b
  | 1 => retWord b
  | 2 => if !bankPowered s n then loW (bankPstate s n) else loW (bankPstate s n + bitW b.ownRefused 2 + bitW b.waiting 3 + (Config.repaired n).toNat * 2 ^ 8)
  | _ => b.uncorr ++ b.corrected

/-- `GBK_ECC_ADDR` (R545). -/
def readGbkEcc (s : State) : Word :=
  loW (s.glb.eccBank.toNat + s.glb.eccWord.toNat * 2 ^ 4 + bitW s.glb.eccValid 31)

/-- `STATE` of a port engine (R385). -/
def engCode : EngState → Nat
  | .noImage => 0
  | .running => 1
  | .failed => 2

/-- `PORT_XSTAT` and `PRT_n_XSTAT` (R385). -/
def xstatWord (s : State) (n : Nat) : Word :=
  let q := portOf s n
  loW (engCode q.eng.state + bitW q.swap.isSome 2 + bitW q.active 3 + q.flags.toNat * 2 ^ 4 + min 255 q.holds.toNat * 2 ^ 8
    + q.number.toNat * 2 ^ 16)

/-- The register belongs to a unit whose domain is off (R507); `PSTATE` stays, to tell of it. -/
def regOff (s : State) : GReg → Bool
  | .bb n _ => !domainOn s (57 + n)
  | .macTx n _ => !domainOn s (57 + n)
  | .macRx n _ _ => !domainOn s (57 + n)
  | .gbk _ 2 => false
  | .prt n _ => !domainOn s (n / 4)
  | .gbk n _ => !bankPowered s n
  | .idb => !domainOn s 61
  | .maker _ => !domainOn s 61
  | _ => false

/-- A register of BAR2 as it reads while its unit is on (R6). -/
def readLive (s : State) : GReg → Word
  | .glb k => readGlb s k
  | .bb n k => readBb s n k
  | .lsy k => readLsy s k
  | .fry k => readFry s k
  | .mfc => readMfc s
  | .dck k => readDck s k
  | .pwr k => readPwr s k
  | .sec k => readSec s k
  | .sealPub i => readSealPub s i
  | .slot n => readSlot s n
  | .macTx n k => readMacTx s n k
  | .macRx n c k => readMacRx s n c k
  | .log k => readLog s k
  | .epd k => readEpd s k
  | .epdLink n k => readLink s n k
  | .epdCnt n => tGet s.ep.cnt n 0
  | .idb => loW (bitW s.ep.idbSpeed 0)
  | .maker m => tGet s.ep.makers m 0
  | .brg n k => readBrg s n k
  | .brtCfg a => (arbOf s a).starveLimit.setWidth 32
  | .brtStat a => readBrtStat s a
  | .brtReq a k => readReq s a k
  | .icuCtl => loW (bitW s.icu.gdis 0)
  | .icuGrp g => grpWord s g
  | .icuHattn k => tGet s.icu.hattn k 0
  | .icuT33 k => if k = 0 then loW (bitW s.icu.t33dis 1 + bitW (anyElig33 s) 2) else 0
  | .icuSrc n => srcWord s n (srcOf s n).tgt.toNat
  | .ptn n k => readPtn s n k
  | .win n m k => readWin s n m k
  | .resetDone => s.resetDone
  | .gbk n k => readGbk s n k
  | .gbkEcc => readGbkEcc s
  | .prt n k => if k = 0 then xstatWord s n else (portOf s n).spadCorrected.setWidth 32
  | .wake n k => tGet (portOf s n).wake k 0

/-- A register of BAR2 as it reads: 0 while its unit is off (R6, R507). -/
def readG (s : State) (g : GReg) : Word := if regOff s g then 0 else readLive s g

end Sys2Proof.Machine
end

