-- ==== Sys2Proof/Machine/PageRegs.lean ====
section
/-!
DEFINITION. What the registers of a partition page read as (05_rings.md R177; 06_control_interface.md R179; 16_events_and_interrupts.md R469, R470; 20_register_map.md R552, R553), and read requests with their effects (R6, R27, R458, R547).
-/
namespace Sys2Proof.Machine

/-- The registers of a submission ring (R177): 0 where the ring does not exist. -/
def readSq (s : State) (p n k : Nat) : Word :=
  match sqOf s p n with
  | none => 0
  | some r =>
    match k with
    | 1 => r.p ++ r.c
    | 2 =>
      loW (bitW r.overrun 0 + bitW r.regress 1 + bitW r.refused 2 + bitW r.fault 3 + bitW true 4 + r.reason.toNat * 2 ^ 8
        + r.index.toNat * 2 ^ 16)
    | _ => 0

/-- The registers of a completion ring (R177). -/
def readCq (s : State) (p m k : Nat) : Word :=
  match cqOf s p m with
  | none => 0
  | some c =>
    match k with
    | 0 => c.c.setWidth 32
    | 1 => loW (c.p.toNat + c.held * 2 ^ 16)
    | 2 => loW (bitW c.ciBad 0 + bitW c.fault 1 + bitW true 2 + bitW (!c.parked.isEmpty) 3)
    | _ => 0

/-- The registers of a target (R469, R470); the read that claims is a command. -/
def readTarget (s : State) (p k : Nat) : Word :=
  let t := targetOf s p
  match k with
  | 0 => loW (bitW t.priority 0 + bitW t.dis 1 + t.thresh.toNat * 2 ^ 8)
  | 1 => loW (runLevel s p + (servAt s p).length * 2 ^ 8)
  | 4 => t.psel.setWidth 32
  | 5 => if ownTarget s t.psel.toNat = some p then srcWord s t.psel.toNat 0 else 0
  | 6 => loW (bitW t.eoiBad 0 + bitW (anyElig s p) 1)
  | _ => 0

/-- A word of a function's MSI-X table. -/
def readMsix (s : State) (p v k : Nat) : Word :=
  let e := msixOf s p v
  match k with
  | 0 => e.addrLo
  | 1 => e.addrHi
  | 2 => e.data
  | _ => e.ctl

/-- A word of a function's MSI-X pending bits. -/
def readPba (s : State) (p k : Nat) : Word :=
  loW ((targetOf s p).pba.foldl (fun w v => if v / 32 = k then w + 2 ^ (v % 32) else w) 0)

/-- The status block (R553); `PORT_XSTAT` reads 0 for a port of another partition (R385). -/
def readStatus (s : State) (p k : Nat) : Word :=
  let x := partOf s p
  let key (k : Nat) : Nat := 2 ^ 24 + 2 ^ 16 * p + 0x3000 + 4 * k
  match k with
  | 0 => loW s.tb.time
  | 1 => capturedHi s (key 0) s.tb.time
  | 2 => loW s.tb.lsn
  | 3 => capturedHi s (key 2) s.tb.lsn
  | 4 => loW s.tb.lsn
  | 5 => capturedHi s (key 4) s.tb.lsn
  | 6 => x.snap.status.setWidth 32
  | 7 => x.snap.lsn
  | 8 => x.event.setWidth 32
  | 9 => x.xsel.setWidth 32
  | _ => if (portOf s x.xsel.toNat).owner = some p then xstatWord s x.xsel.toNat else 0

/-! ## The MSI-X capability (R552): BAR0 holds the table and the pending bit array of every function -/

/-- The BAR that the capability names for both. -/
def msixBar : Nat := 0
/-- The offset of the table. -/
def msixTable : Nat := 0x2800
/-- The offset of the pending bit array. -/
def msixPba : Nat := 0x2C00
/-- The entries of the table. -/
def msixSize : Nat := 64

/-- A word of a partition page as it reads at a word-aligned offset; reserved offsets read 0. -/
def readP (s : State) (p off : Nat) : Word :=
  let o := off / 4
  if off < 0x100 then tGet (mbxOf s p).req o 0
  else if off < 0x200 then tGet (mbxOf s p).rsp (o - 64) 0
  else if off = 0x204 then mbxStatus s p
  else if 0x1000 ≤ off ∧ off < 0x1080 then readSq s p ((o - 0x400) / 4) (o % 4)
  else if 0x1080 ≤ off ∧ off < 0x1100 then readCq s p ((o - 0x420) / 4) (o % 4)
  else if 0x2000 ≤ off ∧ off < 0x201C then readTarget s p (o - 0x800)
  else if msixTable ≤ off ∧ off < msixTable + 16 * msixSize then readMsix s p ((o - msixTable / 4) / 4) (o % 4)
  else if msixPba ≤ off ∧ off < msixPba + msixSize / 8 then readPba s p (o - msixPba / 4)
  else if 0x3000 ≤ off ∧ off < 0x302C then readStatus s p (o - 0xC00)
  else 0

/-! ## Reads with an effect (R6, R27, R458) -/

/-- The word-aligned offset of the word that a read of 1 to 4 bytes falls in (R547). -/
def alignedOff (n : Nat) : Nat := n / 4 * 4

/-- The 64-bit value whose low half lies at an address that captures, with the key of its capture register. -/
def pairAt (s : State) : RegAddr → Option (Nat × Nat)
  | .glob off =>
    match alignedOff off.toNat with
    | 0x1000 => some (0x1000, s.tb.time)
    | 0x1008 => some (0x1008, s.tb.lsn)
    | 0x7004 => some (0x7004, s.log.next)
    | 0x700C => some (0x700C, s.log.mark)
    | _ => none
  | .page p off =>
    let key := 2 ^ 24 + 2 ^ 16 * p.val + alignedOff off.toNat
    match alignedOff off.toNat with
    | 0x3000 => some (key, s.tb.time)
    | 0x3008 => some (key, s.tb.lsn)
    | 0x3010 => some (key, s.tb.lsn)
    | _ => none

/-- The RC field of a register of BAR2 is cleared by a read. -/
def clearRead (s : State) : GReg → State
  | .dck 2 => modDeck s fun d => { d with corrected := 0 }
  | .gbk n 3 => modBank s n fun b => { b with corrected := 0 }
  | .prt n 1 => modPort s n fun q => { q with spadCorrected := 0 }
  | _ => s

/-- The key and the value of the capture register that a read of a low half sets (R27). -/
def captureHigh (s : State) (key live : Nat) : State := modGlb s fun g => { g with capture := tPut g.capture key (hiW live) }

/-- A word of BAR2 is read: a low half captures its high half (R27), an RC field is cleared (R6), and a reserved offset reads as 0 (R548). -/
def readWordGlob (s : State) (off : BitVec 24) : State :=
  match pairAt s (.glob off), gregAt (alignedOff off.toNat) with
  | some (key, v), _ => answerRead (captureHigh s key v) (loW v)
  | none, some g => answerRead (if regOff s g then s else clearRead s g) (readG s g)
  | none, none => answerRead s 0

/-- A word of a partition page is read; `ICU_CLAIM` claims (R458). -/
def readWordPage (s : State) (p : Fin 32) (off : BitVec 16) : State :=
  match pairAt s (.page p off) with
  | some (key, v) => answerRead (captureHigh s key v) (loW v)
  | none => if alignedOff off.toNat = 0x2008 then settle s (claimAt s p.val) else answerRead s (readP s p.val (alignedOff off.toNat))

/-- A word is read, with every side effect of a read (R547). -/
def readWord (s : State) : RegAddr → State
  | .glob off => readWordGlob s off
  | .page p off => readWordPage s p off

/-- The byte offset of a register access. -/
def offsetOf : RegAddr → Nat
  | .glob off => off.toNat
  | .page _ off => off.toNat

/-- The address of the next word. -/
def nextWord : RegAddr → RegAddr
  | .glob off => .glob (off + 4)
  | .page p off => .page p (off + 4)

/-- The bytes of a word that a read within it asks for (R547). -/
def askedBytes (w : Word) (first len : Nat) : Word := (w >>> (8 * first)) &&& BitVec.ofNat 32 (2 ^ (8 * len) - 1)

/-- A read request (R547): within one word, of eight aligned bytes as two word reads, or completed with Unsupported Request. -/
def readRequest (s : State) (r : RegRead) : State :=
  let n := offsetOf r.addr
  let t := readWord s r.addr
  if 1 ≤ r.len ∧ n % 4 + r.len ≤ 4 then completeRead t (t.out.readData.map fun w => askedBytes w (n % 4) r.len)
  else if r.len = 8 ∧ n % 8 = 0 then
    let u := readWord t (nextWord r.addr)
    completeRead u (t.out.readData ++ u.out.readData)
  else completeRead s []

/-- LOW_HALF_CAPTURE_READ (R27): a read request, whose effects are those of the words it reads. -/
def execLowHalfCaptureRead (a : RegRead) (s : State) : Host.Outcome State Fault Refusal := .next (whenRun s (readRequest s a))

/-- RC_FIELD_READ (R6): a read request, whose effects are those of the words it reads. -/
def execRcFieldRead (a : RegRead) (s : State) : Host.Outcome State Fault Refusal := .next (whenRun s (readRequest s a))

end Sys2Proof.Machine
end

