-- ==== Sys2Proof/Machine/Power.lean ====
section
/-!
DEFINITION. Resets, supplies, temperature, QUIESCE_N, autonomous hold, moored and cast-off (01_architecture.md R20 to R22; 15_berth_arbitration.md R447, R448; 18_power_reset_startup.md; 21_pins_electrical_package.md R566).
-/
namespace Sys2Proof.Machine

/-! ## Reset pins and triggers (R518 to R520) -/

/-- PORST_N_ASSERTED (R518). -/
def execPorstNAsserted (s : State) : Host.Outcome State Fault Refusal :=
  .next (modPwr (coldOf s) fun p => { p with porstLow := true })

/-- Start-up begins: the reset has ended, and the root PLL has still to lock (R510, R521). -/
def beginStart (s : State) : State :=
  if s.pwr.porstLow || !s.pwr.railsLow.isEmpty || !s.pwr.vddioLow.isEmpty then s else modPwr s fun p => { p with phase := .locking }

/-- PORST_N_RELEASE (R22, R521). -/
def execPorstNRelease (refsel : Bool) (s : State) : Host.Outcome State Fault Refusal :=
  .next (if s.pwr.porstLow then beginStart (modPwr s fun p => { p with porstLow := false, refsel := refsel }) else s)

/-- WRST_N_ASSERTED (R518, R519). -/
def execWrstNAsserted (s : State) : Host.Outcome State Fault Refusal := .next (whenRun s (warmReset s 0))

/-- WARM_RESET_COMMAND (R531). -/
def execWarmResetCommand (s : State) : Host.Outcome State Fault Refusal := .next (whenRun s (warmReset s 1))

/-- PF0_FLR (R231): not answered before `READY` (R519). -/
def execPf0Flr (s : State) : Host.Outcome State Fault Refusal := .next (whenConfig s (warmReset s 3))

/-- PLL_LOCK_LOSS (R21): the fault bit is kept through the warm reset. -/
def execPllLockLoss (s : State) : Host.Outcome State Fault Refusal :=
  .next (whenRun s (warmReset (setFault s 3) 2))

/-- PLL_LOCK (R20). -/
def execPllLock (b : BootInputs) (s : State) : Host.Outcome State Fault Refusal :=
  .next (if s.pwr.phase == .locking then conclude s (bootRun s b) else s)

/-- The boot attempt that runs fails (R477): the other slot is tried once. -/
def failAttempt (s : State) (b : BootInputs) : State :=
  if s.fw.tried = 1 then bootSecond s b else noFirmware (attemptFailed s)

/-- BOOT_WATCHDOG_EXPIRY (R477). -/
def execBootWatchdogExpiry (b : BootInputs) (s : State) : Host.Outcome State Fault Refusal :=
  .next (if isRun s && s.fw.watchdog then conclude s (failAttempt s b) else s)

/-! ## Supplies and temperature (R525 to R527, R566) -/

/-- A list of rails with one added. -/
def addRail (l : List Rail) (r : Rail) : List Rail := if l.contains r then l else l ++ [r]

/-- A brown-out holds the device in cold reset; the strap is not sampled at its end. -/
def brownOut (s : State) (f : Power → Power) : State :=
  modPwr (coldOf (drawn s)) fun p => { f p with refsel := (freeOf s).getLsbD 0 }

/-- BROWN_OUT (R525). -/
def execBrownOut (r : Rail) (s : State) : Host.Outcome State Fault Refusal :=
  .next (if r == .sds then s else brownOut s fun p => { p with railsLow := addRail p.railsLow r })

/-- BROWN_OUT_RECOVERY (R525). -/
def execBrownOutRecovery (r : Rail) (s : State) : Host.Outcome State Fault Refusal :=
  .next <|
    if s.pwr.railsLow.contains r then beginStart (modPwr s fun p => { p with railsLow := p.railsLow.filter (· != r) }) else s

/-- SUPPLY_WARNING (R525): VDD_SDS is monitored in RUN only. -/
def execSupplyWarning (r : Rail) (outside : Bool) (s : State) : Host.Outcome State Fault Refusal :=
  .next <|
    let t := modPwr s fun p =>
      { p with railsWarn := if outside then addRail p.railsWarn r else p.railsWarn.filter (· != r) }
    if isRun s then settle s t else if s.pwr.phase == .moored && r != .sds then t else s

/-- `TWARN` or `TCRIT` as it acts, in units of 0.25 °C (R531). -/
def threshold (lo hi n : Nat) : Int := 4 * (max lo (min hi n) : Nat)

/-- A sensor's source after a reading: asserted at or above its threshold, deasserted 5 °C below it (R526). -/
def sensorOn (on : Bool) (t lim : Int) : Bool := decide (lim ≤ t) || (on && decide (lim - 20 < t))

/-- The PIN record of R527. -/
def thermalRecord (entered : Bool) : LogDraft := { door := 4, kind := 0x0A, object := (if entered then 0 else 1) + 0xFF00 }

/-- Active voyages give up their slots at their next break point (R448). -/
def stopVoyages (s : State) : State :=
  (s.sch.voy.filter fun x => x.2.state == .active).foldl (fun s x => giveUpSlot s x.1) s

/-- The condition of R527 is entered or left. -/
def followThermal (s : State) (l : List Int) : State :=
  let warn := threshold 85 150 s.pwr.twarn.toNat
  let crit := threshold 100 165 s.pwr.tcrit.toNat
  if !s.pwr.thermal && s.pwr.thermAct && l.any (fun t => crit ≤ t) then
    logDue (stopVoyages (modPwr s fun p => { p with thermal := true, thermSafe := true })) (thermalRecord true)
  else if s.pwr.thermal && l.all (fun t => t ≤ warn - 40) then
    logDue (modPwr s fun p => { p with thermal := false, thermSafe := false }) (thermalRecord false)
  else s

/-- The sources of four sensors, as a mask. -/
def sensorMask (old : BitVec 4) (l : List Int) (lim : Int) : BitVec 4 :=
  BitVec.ofNat 4 ((l.zipIdx).foldl (fun n x => if sensorOn (old.getLsbD x.2) x.1 lim then n + 2 ^ x.2 else n) 0)

/-- The readings take effect. -/
def takeReadings (s : State) (l : List (BitVec 16)) : State :=
  let v := l.map BitVec.toInt
  let t := modPwr s fun p =>
    { p with temp := l.zipIdx.map fun x => (x.2, x.1)
             warnOn := sensorMask p.warnOn v (threshold 85 150 p.twarn.toNat)
             critOn := sensorMask p.critOn v (threshold 100 165 p.tcrit.toNat) }
  followThermal t v

/-- TEMPERATURE_READING (R526, R527). -/
def execTemperatureReading (t0 t1 t2 t3 : BitVec 16) (s : State) : Host.Outcome State Fault Refusal :=
  .next (if isRun s then conclude s (takeReadings s [t0, t1, t2, t3]) else s)

/-- The supply of a port group takes a range: one that a brown-out waits for ends it. -/
def takeVddio (s : State) (g : Nat) (v : VddioRange) : State :=
  let t := modPwr s fun p => { p with vddio := tPut p.vddio g v }
  if v != .out && s.pwr.vddioLow.contains g then beginStart (modPwr t fun p => { p with vddioLow := p.vddioLow.filter (· != g) }) else t

/-- VDDIO_SUPPLY_CHANGE (R566): the selection holds until the supply leaves both ranges. A loss of the supply of groups 0 or 1 while moored is a brown-out (R506). -/
def execVddioSupplyChange (g : Fin 24) (v : VddioRange) (s : State) : Host.Outcome State Fault Refusal :=
  .next <|
    let old := tGet s.pwr.vddio g.val .out
    if v == .out || old == .out then
      let t := takeVddio s g.val v
      if s.pwr.phase == .moored && v == .out && old != .out && decide (g.val < 2) then
        brownOut t fun p => { p with vddioLow := [g.val] }
      else t
    else s

/-! ## QUIESCE_N (R447, R448) -/

/-- The PIN record of an assertion or a release. -/
def quiesceRecord (released : Bool) : LogDraft := { door := 4, kind := 0x0A, object := if released then 1 else 0 }

/-- QUIESCE_ASSERT (R447, R448). -/
def execQuiesceAssert (s : State) : Host.Outcome State Fault Refusal :=
  .next <|
    if s.pwr.quiesce then s
    else
      let t := modPwr s fun p => { p with quiesce := true }
      if isRun s then conclude s (logDue (stopVoyages t) (quiesceRecord false)) else t

/-- QUIESCE_RELEASE (R448). -/
def execQuiesceRelease (s : State) : Host.Outcome State Fault Refusal :=
  .next <|
    if !s.pwr.quiesce then s
    else
      let t := modPwr s fun p => { p with quiesce := false }
      if isRun s then conclude s (logDue t (quiesceRecord true)) else t

/-! ## Autonomous hold (R528) -/

/-- The loads under way fail (R191, R318). -/
def endLoads (s : State) : State := (s.port.filter fun x => x.2.loading.isSome).foldl (fun s x => endLoad s x.1) s

/-- Autonomous hold begins. -/
def enterHold (s : State) : State :=
  let s := modPwr (setFault s 4) fun p => { p with hold := true, holdCtr := p.holdLimit }
  let s := answerAllBusy (modFw (endLoads s) fun f => { f with running := false, current := none })
  logAlways s { kind := 0x0B, object := 1 }

/-- What the boot that goes on after a mismatch meets: the row does not say, and it is free. -/
def freeBoot (s : State) : BootInputs :=
  let w := freeOf s
  { fuseError := false, selfTest := 0, inTime := false, inTime2 := w.getLsbD 0,
    sfdpLimit := if w.getLsbD 1 then some (fieldOf w 2 8) else none }

/-- FERRYMASTER_MISMATCH (R528); during the boot it is a boot failure (R517). -/
def execFerrymasterMismatch (s : State) : Host.Outcome State Fault Refusal :=
  .next <|
    if !isRun s then s
    else if s.fw.watchdog then conclude s (failAttempt (drawn s) (freeBoot s))
    else if s.fw.running then conclude s (enterHold s)
    else s

/-! ## Moored (R511, R517) -/

/-- The partitions under reset complete with the entry (R517). -/
def completeAll (s : State) : State := (List.range 32).foldl completeReset s

/-- A wake of a port's filter, or the frame at the safety port that is discarded, is counted (R399, R513). -/
def countWake (s : State) (src : Nat) : State :=
  if src < 8 then bumpPort s src 17
  else if src = 9 then modFw s fun f => { f with discarded := f.discarded + 1 }
  else s

/-- Posted writes reach their destinations (R511 step 4). -/
def landPosted (s : State) : State := (List.range 32).foldl landWrites s

/-- MOORED_ENTRY (R511 steps 3 to 8): a cast-off source met during the entry acts once it is complete (R517). -/
def execMooredEntry (s : State) : Host.Outcome State Fault Refusal :=
  .next <|
    if isRun s && s.pwr.mooring.any (·.landed) then
      let t := mooredOf (landPosted (completeAll s))
      match s.pwr.wakeDue with
      | none => t
      | some (src, us, b) => conclude t (castOff (countWake t src) src us.toNat b)
    else s

/-! ## Cast-off (R399, R513 to R515) -/

/-- Entry to moored is under way. -/
def entering (s : State) : Bool := isRun s && s.pwr.mooring.isSome

/-- A cast-off begins and runs; during the entry to moored the first source waits for its end (R517). -/
def wakeBy (s : State) (src : Nat) (us : BitVec 64) (b : BootInputs) : State :=
  if s.pwr.phase == .moored then conclude s (castOff (countWake s src) src us.toNat b)
  else if entering s && s.pwr.wakeDue.isNone then modPwr s fun p => { p with wakeDue := some (src, us, b) }
  else s

/-- Word `k` of the wake filter's registers of a port: 0 `CFG`, 1 `ID`, 2 `IDMASK`, 3 and 4 `DATA`, 5 and 6 `DMASK`. -/
def wakeWord (q : Port) (k : Nat) : Word := tGet q.wake k 0

/-- The 64 bits of two wake words. -/
def wakePair (q : Port) (k : Nat) : BitVec 64 := wakeWord q (k + 1) ++ wakeWord q k

/-- The frame matches the wake filter (R399). -/
def frameMatches (q : Port) (f : WakeFrame) : Bool :=
  let cfg := wakeWord q 0
  let mask : BitVec 29 := (wakeWord q 2).setWidth 29
  let dmask := wakePair q 5
  cfg.getLsbD 4 == f.ide && (f.id &&& mask) == (((wakeWord q 1).setWidth 29 : BitVec 29) &&& mask)
    && (!cfg.getLsbD 12
        || (f.dlc.toNat == fieldOf cfg 8 4 && (dmask == 0 || (f.data &&& dmask) != 0)))

/-- What the wake filter has seen is a wake, of this port. -/
def isWake (s : State) : WakeMatch → Option Nat
  | .frame n f => if fieldOf (wakeWord (portOf s n) 0) 0 2 = 2 ∧ frameMatches (portOf s n) f then some n.val else none
  | .level n us =>
    let w := wakeWord (portOf s n) 0
    if fieldOf w 0 2 = 1 ∧ fieldOf w 16 8 ≤ us.toNat then some n.val else none
  | .decodeErrors n => if fieldOf (wakeWord (portOf s n) 0) 0 2 = 2 then some n.val else none

/-- WAKE_FILTER_MATCH (R399, R513). -/
def execWakeFilterMatch (m : WakeMatch) (us : BitVec 64) (b : BootInputs) (s : State) : Host.Outcome State Fault Refusal :=
  .next <|
    match isWake s m with
    | some n => wakeBy s n us b
    | none => s

/-- WAKE_PIN_ASSERTED (R513): the pin is a source only while the device is moored (R514). -/
def execWakePinAsserted (us : BitVec 64) (b : BootInputs) (s : State) : Host.Outcome State Fault Refusal :=
  .next (if entering s then s else wakeBy s 8 us b)

/-- SAFETY_PORT_WAKE (R513): the frame is discarded and counted. -/
def execSafetyPortWake (us : BitVec 64) (b : BootInputs) (s : State) : Host.Outcome State Fault Refusal :=
  .next (wakeBy s 9 us b)

/-- WAKE_N_DRIVE_TIMEOUT (R514). -/
def execWakeNDriveTimeout (s : State) : Host.Outcome State Fault Refusal :=
  .next (whenRun s (modPwr s fun p => { p with wakeDriven := false }))

/-- The partitions that are being reset lose the writes that they still have on the host link (R232). -/
def loseQueued (s : State) : State :=
  (List.range 32).foldl (fun s p => if (partOf s p).reset.isSome then loseWrites s p else s) s

/-- PCIE_LINK_CHANGE (R514, R232): a link that goes down during step 4 of a reset discards the writes still queued. -/
def execPcieLinkChange (up : Bool) (s : State) : Host.Outcome State Fault Refusal :=
  .next <|
    if s.pwr.phase == .run || s.pwr.phase == .locking then
      modPwr (if up then s else loseQueued s) fun p => { p with linkUp := up, wakeDriven := p.wakeDriven && !up }
    else s

end Sys2Proof.Machine
end

