-- ==== Sys2Proof/Machine/PowerCtl.lean ====
section
/-!
DEFINITION. POWER_STATE and the switching of power domains (06_control_interface.md R207, R208; 18_power_reset_startup.md R507 to R511, R517; 19_onchip_memories.md R537).
-/
namespace Sys2Proof.Machine

/-! ## Conditions (R508) -/

/-- A power transition is running. -/
def transitioning (s : State) : Bool := s.pwr.mooring.isSome || s.pwr.switching.isSome

/-- POWER_STATE switches the domain. -/
def switchable (k : Nat) : Bool := decide (k < 52) || k == 57 || k == 58 || k == 61 || k == 63

/-- No port of a group has a commission. -/
def groupFree (s : State) (g : Nat) : Bool := (List.range 4).all fun i => (portOf s (4 * g + i)).owner.isNone

/-- Every cell of a deck quad is on a free list, and none lies in the flat area. -/
def quadFree (s : State) (q : Nat) : Bool :=
  s.deck.flatPages == 0 && (List.range 4).all fun i => (bankBusy s (4 * q + i)).isEmpty

/-- No timed voyage is admitted. -/
def noTimed (s : State) : Bool := s.sch.voy.all fun x => !isAdmitted x.2

/-- No voyage is active on a quad of ferry engines. -/
def quadIdle (s : State) (q : Nat) : Bool :=
  s.sch.voy.all fun x => !(x.2.state == .active && x.2.slot.any fun k => k / 16 == q)

/-- A partition has a snapshot to come, or one that is still being exported. -/
def snapPending (x : Partition) : Bool := x.snap.once || x.snap.repeatN != 0 || x.snap.exporting.isSome

/-- An IDENTITY_SCAN is running. -/
def scanRuns (s : State) : Bool := s.fw.long.any fun d => reqOp s d == 0x80

/-- The condition under which a domain can be switched off. -/
def offAllowed (s : State) (k : Nat) : Bool :=
  if k < 24 then groupFree s k
  else if k < 40 then !anyWindow s fun w => w.space == 1 && w.bank.toNat == k - 24
  else if k < 48 then quadFree s (k - 40)
  else if k < 52 then noTimed s && quadIdle s (k - 48)
  else if k = 57 ∨ k = 58 then !(bbOf s (k - 57)).en
  else if k = 61 then !scanRuns s
  else if k = 63 then s.part.all fun x => !snapPending x.2
  else true

/-! ## Effects (R509) -/

/-- A port whose group is off: what R512 keeps of it, and the levels that the outside drives. -/
def offPort (q : Port) : Port :=
  { owner := q.owner, lastOwner := q.lastOwner, xclass := q.xclass, txq := q.txq, number := q.number,
    pins := q.pins.map fun x => (x.1, { ball := x.2.ball }), wake := q.wake }

/-- What a port of a group under way of being switched off still does ends: its requests as at a safe state (R371), its stalls and waits. -/
def quietPort (s : State) (p : Nat) : State :=
  unstall (stopWaiting (endRequests (busStop (abortShifts s p) p) p 0x12 0x01) (.port p)) (.port p)

/-- The ports of a group changed. -/
def modGroup (s : State) (g : Nat) (f : Port → Port) : State :=
  (List.range 4).foldl (fun s i => modPort s (4 * g + i) f) s

/-- The identity table is lost, and the entries it made READY are re-evaluated (R427). -/
def loseIdentities (s : State) : State :=
  let ports := (List.range 96).filter fun p => (identOf s p).isSome
  ports.foldl reviewPort { s with ep := { s.ep with ident := [] } }

/-- The state with a domain's bit of `ON` set or cleared. -/
def setDomain (s : State) (k : Nat) (on : Bool) : State :=
  modPwr s fun p => { p with domains := if on then p.domains ||| (1#64 <<< k) else p.domains &&& ~~~ (1#64 <<< k) }

/-- What switching a domain off does. -/
def offEffect (s : State) (k : Nat) : State :=
  if k < 24 then modGroup ((List.range 4).foldl (fun s i => quietPort s (4 * k + i)) s) k offPort
  else if k < 40 then
    let t := modBank s (k - 24) fun b => { kind := b.kind, owner := b.owner }
    { t with bankMem := memClear t.bankMem (2 ^ 18 * (k - 24)) (2 ^ 18) }
  else if k < 48 then s
  else if k < 52 then modSch s fun c => { c with inService := c.inService &&& ~~~ (0xF#16 <<< (4 * (k - 48))) }
  else if k = 57 ∨ k = 58 then
    modLink (modBb s (k - 57) fun b => { b with link := false, speed := 0, gptp := [], cnt := [] }) (k - 57) fun l =>
      { l with inbox := [] }
  else if k = 61 then loseIdentities s
  else if k = 63 then modTb s fun t => { t with snapRam := none }
  else s

/-- A cell lies in a deck quad. -/
def cellIn (q c : Nat) : Bool := c % 32 / 4 == q

/-- A deck quad is written to zero with valid ECC. -/
def scrubQuad (s : State) (q : Nat) : State :=
  modDeck s fun d =>
    { d with bad := d.bad.filter fun c => !cellIn q c, soft := d.soft.filter fun k => !cellIn q (k / 8),
             mem := d.mem.filter fun b => !cellIn q (b.1 / 64) }

/-- What switching a domain on does; which engines pass their self-test is a free value, and a retired one stays out of service (R141). -/
def onEffect (s : State) (k : Nat) : State :=
  if k < 24 then modGroup s k fun q => { q with eng := { q.eng with scrub := true } }
  else if k < 40 then scrubBank s (k - 24)
  else if k < 48 then scrubQuad s (k - 40)
  else if k < 52 then
    let pass : BitVec 16 := ((freeOf s).setWidth 16 &&& 0xF#16) <<< (4 * (k - 48))
    modSch (drawn s) fun c => { c with inService := c.inService ||| (pass &&& ~~~ c.retired) }
  else s

/-! ## The commands (R207, R208) -/

/-- `OP` and `DOMAIN` of POWER_STATE. -/
def powerOp (s : State) (d : Nat) : Nat := payField s d 0 0 4
def powerDomain (s : State) (d : Nat) : Nat := payField s d 0 16 6

/-- The bits of p0 of POWER_STATE that fields occupy. -/
def powerMask : Word := 0x003F000F

/-- Entry to moored is committed (R511 step 1); any other `OP` than 1 to 3 is bad. -/
def powerMoor (s : State) (d _p : Nat) : GciOut :=
  checked [badWord s d 0 powerMask (powerOp s d != 1), (transitioning s || !noTimed s, .no 0x0C)]
    fun _ => .done (modPwr s fun p => { p with mooring := some { commit := dueLsn s 0, landed := false } }) []

/-- POWER_STATE with `OP` 1 (R511). -/
def execGPowerStateMoor (d : Door) (s : State) : Host.Outcome State Fault Refusal :=
  gciRow 0x0090 true true (fun s d => powerOp s d != 2 && powerOp s d != 3) powerMoor d s

/-- The domain is that of a general bank whose handover is pending (R537). -/
def bankPending (s : State) (k : Nat) : Bool := decide (24 ≤ k) && decide (k < 40) && (bankOf s (k - 24)).handover.isSome

/-- The checks of a switch that both directions share. -/
def switchChecks (s : State) (d : Nat) : List (Bool × GciOut) :=
  let k := powerDomain s d
  [badWord s d 0 powerMask (!switchable k), (transitioning s || bankPending s k, .no 0x0C)]

/-- The switch runs until its completion. -/
def beginSwitch (s : State) (d k : Nat) (on : Bool) : State :=
  modPwr s fun p => { p with switching := some { domain := k, on := on, door := d } }

/-- A domain is switched off, in the commit cycle. -/
def powerOff (s : State) (d _p : Nat) : GciOut :=
  let k := powerDomain s d
  checked (switchChecks s d ++ [(domainOn s k && !offAllowed s k, .no 0x0C)])
    fun _ => if domainOn s k then .wait (beginSwitch (offEffect (setDomain s k false) k) d k false) else .done s []

/-- POWER_STATE with `OP` 2 (R509). -/
def execGPowerStateDomainOff (d : Door) (s : State) : Host.Outcome State Fault Refusal :=
  gciRow 0x0090 true true (fun s d => powerOp s d == 2) powerOff d s

/-- A domain is switched on: it is on when its transition has completed. -/
def powerOn (s : State) (d _p : Nat) : GciOut :=
  let k := powerDomain s d
  checked (switchChecks s d) fun _ => if domainOn s k then .done s [] else .wait (beginSwitch s d k true)

/-- POWER_STATE with `OP` 3 (R509). -/
def execGPowerStateDomainOn (d : Door) (s : State) : Host.Outcome State Fault Refusal :=
  gciRow 0x0090 true true (fun s d => powerOp s d == 3) powerOn d s

/-- The transition has completed: the response is written and source 710 is raised. -/
def endSwitch (s : State) (w : DomainSwitch) : State :=
  let s := modPwr s fun p => { p with switching := none }
  let s := if w.on then onEffect (setDomain s w.domain true) w.domain else s
  raise (answerLate s w.door 0x00 []) 710

/-- DOMAIN_TRANSITION_DONE (R509): nothing where no transition is running. -/
def execDomainTransitionDone (s : State) : Host.Outcome State Fault Refusal :=
  .next <|
    match (if isRun s then s.pwr.switching else none) with
    | none => s
    | some w => conclude s (endSwitch s w)

end Sys2Proof.Machine
end

