-- ==== Sys2Proof/Machine/RegWrite.lean ====
section
/-!
DEFINITION. Writes of registers: the fields each register takes, which writes are configuration changes, the request forms, and the partition page (00_scope.md R6 to R9; 20_register_map.md R547 to R559, and the field tables of the chapters that own the registers).
-/
namespace Sys2Proof.Machine

/-! ## The global space -/

/-- The state that a command's own meaning leads to. -/
def after (o : Host.Outcome State Fault Refusal) (s : State) : State :=
  match o with
  | .next t => t
  | _ => s

/-- A configuration change of a register, recorded with what the register reads as before and after. -/
def cfgWrite (s : State) (off : Nat) (g : GReg) (t : State) : State := configChange s off (readG s g) (readG t g) t

/-- A configuration change of a register all of whose fields are RWL (R8). -/
def rwlWrite (s : State) (off : Nat) (g : GReg) (t : State) : State := if s.glb.lock then s else cfgWrite s off g t

/-- `GLB_WRERR` (R556). -/
def writeGlb (s : State) (k : Nat) (w : Word) : State :=
  match k with
  | 2 =>
    let e := s.glb.wrerr &&& ~~~ (w.setWidth 3)
    modGlb s fun g => { g with wrerr := e, wraddrValid := g.wraddrValid && !(g.wrerr ≠ 0 && e = 0) }
  | _ => s

/-- `GLB_BBn_` (R406): a write that sets `EN` of a port that is off has no effect (R507); one that clears it takes the link down, and without auto-negotiation the rate follows `RATE`. -/
def writeBb (s : State) (off n k : Nat) (w : Word) : State :=
  match k with
  | 0 =>
    if w.getLsbD 0 && !domainOn s (57 + n) then s
    else rwlWrite s off (.bb n 0) (modBb s n fun b =>
      { b with en := w.getLsbD 0, rate := (w >>> 1).setWidth 2, an := w.getLsbD 3, macsec := w.getLsbD 4,
               link := b.link && w.getLsbD 0, speed := if b.link && !w.getLsbD 3 then (w >>> 1).setWidth 2 else b.speed,
               cnt := if b.link && !w.getLsbD 0 then bump b.cnt 7 else b.cnt })
  | 1 => rwlWrite s off (.bb n 1) (modBb s n fun b => { b with lat := w })
  | _ => s

/-- `FRY_` (R148, R149): `QUANTUM` is not locked. -/
def writeFry (s : State) (off k : Nat) (w : Word) : State :=
  match k with
  | 1 =>
    cfgWrite s off (.fry 1) (modSch s fun c =>
      { c with admBrate := if s.glb.lock then c.admBrate else w.setWidth 14, quantum := (w >>> 16).setWidth 16 })
  | 2 => rwlWrite s off (.fry 2) (modSch s fun c => { c with admCells := w.setWidth 19 })
  | _ => s

/-- `DCK_` (R263). -/
def writeDck (s : State) (k : Nat) (w : Word) : State :=
  match k with
  | 3 => if w.getLsbD 31 then modDeck s fun d => { d with eccValid := false } else s
  | 4 => modDeck s fun d => { d with qsel := w.setWidth 13 }
  | _ => s

/-- `PWR_` (R531). -/
def writePwr (s : State) (off k : Nat) (w : Word) : State :=
  match k with
  | 0 => if w.getLsbD 7 then modPwr s fun p => { p with holdRefused := false } else s
  | 4 => rwlWrite s off (.pwr 4) (modPwr s fun p => { p with holdLimit := w.setWidth 16 })
  | 5 => modPwr s fun p => { p with sticky := p.sticky &&& ~~~ (w.setWidth 5) }
  | 10 =>
    rwlWrite s off (.pwr 10) (modPwr s fun p =>
      { p with twarn := w.setWidth 8, tcrit := (w >>> 8).setWidth 8, thermAct := w.getLsbD 16 })
  | _ => s

/-- An association as a write leaves it: one that sets `EN` sets the packet number to 1 (R492). -/
def writeSa (a : MacSa) (w : Word) : MacSa :=
  { an := w.setWidth 2, slot := (w >>> 2).setWidth 6, en := w.getLsbD 8, pn := if w.getLsbD 8 then 1 else a.pn }

/-- The transmit registers of a MACsec group (R491): a write of a read-only packet number is a configuration change as well, which changes nothing. -/
def writeMacTx (s : State) (off n k : Nat) (w : Word) : State :=
  let put (f : MacPort → MacPort) : State := cfgWrite s off (.macTx n k) (modMac s n f)
  match k with
  | 0 => put fun m => { m with replayWin := w.setWidth 16, txsel := w.getLsbD 16 }
  | 1 => put fun m => { m with txSciLo := w }
  | 2 => put fun m => { m with txSciHi := w }
  | 3 => put fun m => { m with tx := tUpd m.tx 0 {} (writeSa · w) }
  | 5 => put fun m => { m with tx := tUpd m.tx 1 {} (writeSa · w) }
  | _ => put id

/-- The receive registers of a MACsec group (R491), `LPN` read-only. -/
def writeMacRx (s : State) (off n c k : Nat) (w : Word) : State :=
  let put (f : MacPort → MacPort) : State := cfgWrite s off (.macRx n c k) (modMac s n f)
  match k with
  | 0 => put fun m => { m with rxSciLo := tPut m.rxSciLo c w }
  | 1 => put fun m => { m with rxSciHi := tPut m.rxSciHi c w }
  | 2 => put fun m => { m with rx := tUpd m.rx (2 * c) {} (writeSa · w) }
  | 3 => put fun m => { m with rx := tUpd m.rx (2 * c + 1) {} (writeSa · w) }
  | _ => put id

/-- The state with the endpoint unit changed. -/
def modEpu (s : State) (f : Endpoints → Endpoints) : State := { s with ep := f s.ep }

/-- `EPD_` (R430): under the lock a write of `EPD_CFG` acts only on `ID_CONFLICT`. -/
def writeEpd (s : State) (off k : Nat) (w : Word) : State :=
  match k with
  | 0 =>
    let t := if w.getLsbD 9 then modEpu s fun e => { e with idConflict := false } else s
    if s.glb.lock then t else cfgWrite s off (.epd 0) (modEpu t fun e => { e with selfId := w.setWidth 6, announce := w.getLsbD 8 })
  | 1 => modEpu s fun e => { e with sel := w.setWidth 14 }
  | _ => s

/-- `BRG_n_` (R285). -/
def writeBrg (s : State) (n k : Nat) (w : Word) : State :=
  match k with
  | 1 =>
    modChan s n fun c =>
      { c with descBad := c.descBad && !w.getLsbD 3, loadRefused := c.loadRefused && !w.getLsbD 4 }
  | 4 => modChan s n fun c => { c with addrLo := w }
  | 5 => modChan s n fun c => { c with addrHi := w }
  | _ => s

/-- `BASE` can be written (R449). -/
def baseWritable (a k : Nat) : Bool := k != 0 && !isScrubber a k && decide (a < 36)

/-- `BRT_a_REQs` (R449, R450): a write is one to `BASE` and `LIMIT`, where the arbiter has them, and so a configuration change, but for one that writes 1 to `STARVED` or `CUTOFF` and leaves both as they are. -/
def writeReq (s : State) (off a k : Nat) (w : Word) : State :=
  if !slotPresent a k then s
  else
    let old := requesterOf s a k
    let t := modRequester s a k fun r => { r with starved := r.starved && !w.getLsbD 29, cutoff := r.cutoff && !w.getLsbD 30 }
    let base := if baseWritable a k then w.setWidth 4 else old.base
    let limit := if a < 36 then (w >>> 8).setWidth 8 else old.limit
    if 36 ≤ a ∨ base = old.base ∧ limit = old.limit ∧ (w.getLsbD 29 || w.getLsbD 30) then t
    else cfgWrite s off (.brtReq a k) (modRequester t a k fun r => { r with base := base, limit := limit })

/-- The sources whose `TGT` the steward sets (R470). -/
def tgtWritable (n : Nat) : Bool := decide (576 ≤ n) && decide (n ≤ 711)

/-- `ICU_` (R470, R471). -/
def writeSrc (s : State) (off n : Nat) (w : Word) : State :=
  let old := srcOf s n
  let a : SrcAttr :=
    { prio := w.setWidth 4, vec := (w >>> 8).setWidth 6, group := (w >>> 16).setWidth 6,
      tgt := if tgtWritable n then (w >>> 24).setWidth 2 else old.tgt }
  cfgWrite s off (.icuSrc n) (modIcu s fun i => { i with attr := tPut i.attr n a })

/-- `GBK_n_` (R545). -/
def writeGbk (s : State) (n k : Nat) (w : Word) : State :=
  match k with
  | 1 => if w.getLsbD 0 then s else leaveRetention s n
  | 2 => if w.getLsbD 2 then modBank s n fun b => { b with ownRefused := false } else s
  | _ => s

/-- The bits of the wake-filter registers (R399). -/
def wakeMask : Nat → Word
  | 0 => 0x00FF1F1F
  | 1 => 0x1FFFFFFF
  | 2 => 0x1FFFFFFF
  | _ => 0xFFFFFFFF

/-- The RW1C bits of a port's status are cleared (R385). -/
def clearXstat (s : State) (n : Nat) (w : Word) : State :=
  modPort s n fun q => { q with flags := q.flags &&& ~~~ ((w >>> 4).setWidth 4) }

/-- A write of a word to a register of BAR2 at its offset. -/
def writeG (s : State) (off : Nat) (w : Word) : GReg → State
  | .glb k => writeGlb s k w
  | .bb n k => writeBb s off n k w
  | .lsy k => if k = 12 then rwlWrite s off (.lsy k) (modGlb s fun g => { g with landoutWidth := w.setWidth 7 }) else s
  | .fry k => writeFry s off k w
  | .dck k => writeDck s k w
  | .pwr k => writePwr s off k w
  | .macTx n k => writeMacTx s off n k w
  | .macRx n c k => writeMacRx s off n c k w
  | .epd k => writeEpd s off k w
  | .idb => rwlWrite s off .idb (modEpu s fun e => { e with idbSpeed := w.getLsbD 0 })
  | .maker m => rwlWrite s off (.maker m) (modEpu s fun e => { e with makers := tPut e.makers m (w &&& 0x803FFFFF) })
  | .brg n k => writeBrg s n k w
  | .brtCfg a => cfgWrite s off (.brtCfg a) (modArb s a fun x => { x with starveLimit := w.setWidth 13 })
  | .brtReq a k => writeReq s off a k w
  | .icuCtl => cfgWrite s off .icuCtl (modIcu s fun i => { i with gdis := w.getLsbD 0 })
  | .icuGrp g =>
    cfgWrite s off (.icuGrp g) (modIcu s fun i => { i with group := tUpd i.group g {} fun x => { x with holdoff := w.setWidth 16 } })
  | .icuHattn k => cfgWrite s off (.icuHattn k) (modIcu s fun i => { i with hattn := tPut i.hattn k (w &&& 0x8000003F) })
  | .icuT33 k =>
    if k = 0 then cfgWrite s off (.icuT33 0) (modIcu s fun i => { i with t33dis := w.getLsbD 1 }) else s
  | .icuSrc n => writeSrc s off n w
  | .resetDone => { s with resetDone := s.resetDone &&& ~~~ w }
  | .gbk n k => writeGbk s n k w
  | .gbkEcc => if w.getLsbD 31 then modGlb s fun g => { g with eccValid := false } else s
  | .prt n k => if k = 0 then clearXstat s n w else s
  | .wake n k =>
    rwlWrite s off (.wake n k) (modPort s n fun q => { q with wake := tPut q.wake k (w &&& wakeMask k) })
  | .mfc => s
  | .sec _ => s
  | .sealPub _ => s
  | .slot _ => s
  | .log _ => s
  | .epdLink _ _ => s
  | .epdCnt _ => s
  | .brtStat _ => s
  | .ptn _ _ => s
  | .win _ _ _ => s

/-- What a command does to a state. -/
abbrev Meaning := State → Host.Outcome State Fault Refusal

/-- The command that a write of a word to a register of BAR2 is, where it has a row of its own. -/
def ownGlobal (w : Word) : GReg → Option Meaning
  | .glb k => if k = 1 ∧ w.getLsbD 0 then some execGlbLockSet else none
  | .dck k => if k = 1 then some (execDckFlatWrite w) else none
  | .pwr k => if k = 3 ∧ fieldOf w 0 16 = 0x5752 then some execWarmResetCommand else none
  | .brg n k => if k = 6 ∧ w.getLsbD 0 then some (execBargeLoad (Fin.ofNat 32 n)) else none
  | .icuT33 k => if k = 1 then some (execIcuT33Ack w) else none
  | .gbk n k =>
    if k = 0 then some (execGbkOwnWrite (Fin.ofNat 16 n) w)
    else if k = 1 ∧ w.getLsbD 0 then some (execRetentionEntry (Fin.ofNat 16 n))
    else none
  | _ => none

/-- The state in which a write has taken effect: its own command's, or the register's. -/
def performWrite (own : Option Meaning) (s t : State) : State :=
  if !isRun s then s
  else
    match own with
    | some f => after (f s) s
    | none => conclude s t

/-- A word is written at a word-aligned offset of BAR2 (R547, R548): without effect where the unit is off (R507). -/
def writeWord (s : State) (off : Nat) (w : Word) : State :=
  match gregAt off with
  | some g => if regOff s g then s else performWrite (ownGlobal w g) s (writeG s off w g)
  | none => refuseWrite s off 1

/-- A write request to BAR2 (R547): any that is not one aligned word or two is discarded with `WIDTH`. -/
def writeGlobal (s : State) (off : Nat) : RegWrite → State
  | .word w => if off % 4 = 0 then writeWord s off w else refuseWrite s off 0
  | .pair w =>
    if off % 8 = 0 then writeWord (writeWord s off (w.setWidth 32)) (off + 4) ((w >>> 32).setWidth 32)
    else refuseWrite s off 0
  | .other => refuseWrite s off 0

/-! ## The partition page (R552) -/

/-- A word of a mailbox's request buffer is written: ignored while the buffer is locked (R180). -/
def writeRequest (s : State) (p k : Nat) (w : Word) : State :=
  modMbx s p fun m =>
    if m.state = .pending ∨ m.state = .busy then { m with wrIgnored := true } else { m with req := tPut m.req k w }

/-- A word of a ring's registers is written (R177). -/
def writeRing (s : State) (p o : Nat) (w : Word) : State :=
  let n := Fin.ofNat 8 (o / 4)
  if o < 32 then
    match o % 4 with
    | 2 =>
      modSq s p n fun r =>
        { r with overrun := r.overrun && !w.getLsbD 0, regress := r.regress && !w.getLsbD 1, refused := r.refused && !w.getLsbD 2 }
    | _ => s
  else
    match o % 4 with
    | 2 => modCq s p n fun c => { c with ciBad := c.ciBad && !w.getLsbD 0 }
    | _ => s

/-- The attributes that a partition sets of a source of its own target (R455, R469). -/
def writePsrc (s : State) (p : Nat) (w : Word) : State :=
  let n := (targetOf s p).psel.toNat
  if ownTarget s n = some p then
    modIcu s fun i => { i with attr := tPut i.attr n { srcOf s n with prio := w.setWidth 4, vec := (w >>> 8).setWidth 6 } }
  else s

/-- A word of the interrupt block of a page is written (R469). -/
def writeTarget (s : State) (p k : Nat) (w : Word) : State :=
  match k with
  | 0 => modTarget s p fun t => { t with priority := w.getLsbD 0, dis := w.getLsbD 1, thresh := (w >>> 8).setWidth 4 }
  | 4 => modTarget s p fun t => { t with psel := w.setWidth 10 }
  | 5 => writePsrc s p w
  | 6 => if w.getLsbD 0 then modTarget s p fun t => { t with eoiBad := false } else s
  | _ => s

/-- A word of an MSI-X table entry is written. -/
def writeMsix (s : State) (p v k : Nat) (w : Word) : State :=
  let put (f : MsixEntry → MsixEntry) : State := modTarget s p fun t => { t with msix := tUpd t.msix v {} f }
  match k with
  | 0 => put fun e => { e with addrLo := w }
  | 1 => put fun e => { e with addrHi := w }
  | 2 => put fun e => { e with data := w }
  | _ => put fun e => { e with ctl := w &&& 1 }

/-- A word of the status block of a page is written (R553). -/
def writeStatus (s : State) (p k : Nat) (w : Word) : State :=
  match k with
  | 8 => modPart s p fun x => { x with event := x.event &&& ~~~ (w.setWidth 7) }
  | 9 => modPart s p fun x => { x with xsel := w.setWidth 7 }
  | 10 =>
    let n := (partOf s p).xsel.toNat
    if (portOf s n).owner = some p then clearXstat s n w else s
  | _ => s

/-- The fields that a word written at a word-aligned offset of a partition page sets (R552). -/
def setPage (s : State) (p off : Nat) (w : Word) : State :=
  let o := off / 4
  if off < 0x100 then writeRequest s p o w
  else if off = 0x204 then
    modMbx s p fun m => { m with dbIgnored := m.dbIgnored && !w.getLsbD 8, wrIgnored := m.wrIgnored && !w.getLsbD 9 }
  else if 0x1000 ≤ off ∧ off < 0x1100 then writeRing s p (o - 0x400) w
  else if 0x2000 ≤ off ∧ off < 0x201C then writeTarget s p (o - 0x800) w
  else if 0x2800 ≤ off ∧ off < 0x2C00 then writeMsix s p ((o - 0xA00) / 4) ((o - 0xA00) % 4) w
  else if 0x3000 ≤ off ∧ off < 0x302C then writeStatus s p (o - 0xC00) w
  else s

/-- The vector that a write of a word at an offset of a page unmasks. -/
def unmasked (s : State) (p off : Nat) (w : Word) : Option Nat :=
  let v := (off - 0x2800) / 16
  if 0x2800 ≤ off ∧ off < 0x2C00 ∧ off % 16 = 12 ∧ (msixOf s p v).ctl.getLsbD 0 ∧ !w.getLsbD 0 then some v else none

/-- The command that a write of a word to a partition page is, where it has a row of its own. -/
def ownPage (s : State) (p off : Nat) (w : Word) : Option Meaning :=
  let n := Fin.ofNat 8 (off / 16)
  let f := Fin.ofNat 32 p
  if off = 0x200 then some (execMbxGo f w)
  else if 0x1000 ≤ off ∧ off < 0x1080 ∧ off % 16 = 0 then some (execSqDoorbell f n w)
  else if 0x1080 ≤ off ∧ off < 0x1100 ∧ off % 16 = 0 then some (execCqCiWrite f n w)
  else if off = 0x200C then some (execIcuEoi f w)
  else (unmasked s p off w).map fun v => execMsixVectorUnmask f (Fin.ofNat 64 v)

/-- A word is written at a word-aligned offset of a partition page. -/
def writePage (s : State) (p off : Nat) (w : Word) : State := performWrite (ownPage s p off w) s (setPage s p off w)

/-- A write request to a partition page (R547): any that is not one aligned word or two is discarded. -/
def writeLocal (s : State) (p off : Nat) : RegWrite → State
  | .word w => if off % 4 = 0 then writePage s p off w else s
  | .pair w =>
    if off % 8 = 0 then writePage (writePage s p off (w.setWidth 32)) p (off + 4) ((w >>> 32).setWidth 32) else s
  | .other => s

/-- REGISTER_WRITE (R547): a register with a row of its own takes that row's effect. -/
def execRegisterWrite (a : RegAddr) (w : RegWrite) (s : State) : Host.Outcome State Fault Refusal :=
  .next <| whenRun s <|
    match a with
    | .glob off => writeGlobal s off.toNat w
    | .page p off => writeLocal s p.val off.toNat w

end Sys2Proof.Machine
end

