-- ==== Sys2Proof/Machine/RoridAcc.lean ====
section
/-!
DEFINITION. The Rorid MAC and accumulator families (11_rorid_instructions.md R347 to R350).
-/
namespace Sys2Proof.Machine

/-- The accumulator that `ACN` or `ACM` names (R347). -/
def accOf (q : Port) (n : Bool) : BitVec 40 := if n then q.eng.ac1 else q.eng.ac0

/-- The state with an accumulator written. -/
def putAcc (s : State) (p : Nat) (n : Bool) (x : BitVec 40) : State :=
  modEng s p fun e => if n then { e with ac1 := x } else { e with ac0 := x }

/-- The effect of an instruction that forms an exact result x (R349): the accumulator, `AOV`, and the AOV trap after it completes. -/
def accEffect (p : Nat) (w : Word) (n : Bool) (f : Port → Int) (s : State) : State × Ctl :=
  let q := portOf s p
  let r := accResult (imageSat q) (f q)
  let s := putAcc s p n r.1
  if r.2 then (setFlags s p flagAOV, if imageAovTrap q then .after 0x07 w else .next) else (s, .next)

/-- MAC (R347): x = ACn + s(Ra) × s(Rb). -/
def execRMac (p : Fin 96) (g : Guard) (acn : Bool) (ra rb : BitVec 4) (s : State) : Host.Outcome State Fault Refusal :=
  let w := encA g 0x13 0x0 acn false ra rb 0
  .next (runRorid p g w 1 1 (accEffect p w acn fun q => (accOf q acn).toInt + (readReg q ra).toInt * (readReg q rb).toInt) s)

/-- MSU (R347): x = ACn − s(Ra) × s(Rb). -/
def execRMsu (p : Fin 96) (g : Guard) (acn : Bool) (ra rb : BitVec 4) (s : State) : Host.Outcome State Fault Refusal :=
  let w := encA g 0x13 0x1 acn false ra rb 0
  .next (runRorid p g w 1 1 (accEffect p w acn fun q => (accOf q acn).toInt - (readReg q ra).toInt * (readReg q rb).toInt) s)

/-- MPY (R347): x = s(Ra) × s(Rb). -/
def execRMpy (p : Fin 96) (g : Guard) (acn : Bool) (ra rb : BitVec 4) (s : State) : Host.Outcome State Fault Refusal :=
  let w := encA g 0x13 0x2 acn false ra rb 0
  .next (runRorid p g w 1 1 (accEffect p w acn fun q => (readReg q ra).toInt * (readReg q rb).toInt) s)

/-- MACU (R347): x = ACn + u(Ra) × u(Rb). -/
def execRMacu (p : Fin 96) (g : Guard) (acn : Bool) (ra rb : BitVec 4) (s : State) : Host.Outcome State Fault Refusal :=
  let w := encA g 0x13 0x3 acn false ra rb 0
  .next (runRorid p g w 1 1 (accEffect p w acn fun q => (accOf q acn).toInt + ((readReg q ra).toNat * (readReg q rb).toNat : Nat)) s)

/-- CLRA (R348): ACn = 0. -/
def execRClra (p : Fin 96) (g : Guard) (acn : Bool) (s : State) : Host.Outcome State Fault Refusal :=
  .next (runRorid p g (encA g 0x14 0x0 acn false 0 0 0) 1 1 (fun s => (putAcc s p acn 0, .next)) s)

/-- ADDA (R348): x = ACn + s(Ra). -/
def execRAdda (p : Fin 96) (g : Guard) (acn : Bool) (ra : BitVec 4) (s : State) : Host.Outcome State Fault Refusal :=
  let w := encA g 0x14 0x1 acn false ra 0 0
  .next (runRorid p g w 1 1 (accEffect p w acn fun q => (accOf q acn).toInt + (readReg q ra).toInt) s)

/-- SUBA (R348): x = ACn − s(Ra). -/
def execRSuba (p : Fin 96) (g : Guard) (acn : Bool) (ra : BitVec 4) (s : State) : Host.Outcome State Fault Refusal :=
  let w := encA g 0x14 0x2 acn false ra 0 0
  .next (runRorid p g w 1 1 (accEffect p w acn fun q => (accOf q acn).toInt - (readReg q ra).toInt) s)

/-- MOVA (R348): ACn = ACm. -/
def execRMova (p : Fin 96) (g : Guard) (acn acm : Bool) (s : State) : Host.Outcome State Fault Refusal :=
  .next (runRorid p g (encA g 0x14 0x3 acn acm 0 0 0) 1 1 (fun s => (putAcc s p acn (accOf (portOf s p) acm), .next)) s)

/-- ADDAA (R348): x = ACn + ACm. -/
def execRAddaa (p : Fin 96) (g : Guard) (acn acm : Bool) (s : State) : Host.Outcome State Fault Refusal :=
  let w := encA g 0x14 0x4 acn acm 0 0 0
  .next (runRorid p g w 1 1 (accEffect p w acn fun q => (accOf q acn).toInt + (accOf q acm).toInt) s)

/-- NEGA (R348): x = −ACn. -/
def execRNega (p : Fin 96) (g : Guard) (acn : Bool) (s : State) : Host.Outcome State Fault Refusal :=
  let w := encA g 0x14 0x5 acn false 0 0 0
  .next (runRorid p g w 1 1 (accEffect p w acn fun q => -(accOf q acn).toInt) s)

/-- SHRA (R348): ACn = floor(ACn / 2^k). -/
def execRShra (p : Fin 96) (g : Guard) (acn : Bool) (k : BitVec 6) (s : State) : Host.Outcome State Fault Refusal :=
  .next (runRorid p g (encA g 0x14 0x6 acn false 0 0 k) 1 1
    (fun s => (putAcc s p acn (BitVec.ofInt 40 ((accOf (portOf s p) acn).toInt / 2 ^ k.toNat)), .next)) s)

/-- SHLA (R348): x = ACn × 2^k. -/
def execRShla (p : Fin 96) (g : Guard) (acn : Bool) (k : BitVec 6) (s : State) : Host.Outcome State Fault Refusal :=
  let w := encA g 0x14 0x7 acn false 0 0 k
  .next (runRorid p g w 1 1 (accEffect p w acn fun q => (accOf q acn).toInt * 2 ^ k.toNat) s)

/-- EXTA (R350): Ra takes the saturated value of ACn shifted right. -/
def execRExta (p : Fin 96) (g : Guard) (acn : Bool) (ra : BitVec 4) (k : BitVec 6) (s : State) : Host.Outcome State Fault Refusal :=
  runAlu p g (encA g 0x14 0x8 acn false ra 0 k) 1 ra (fun q => extaFlags (accOf q acn) k.toNat) s

end Sys2Proof.Machine
end

