-- ==== Sys2Proof/Machine/RoridAlu.lean ====
section
/-!
DEFINITION. Rorid arithmetic, logic, multiply and divide, constants, compares and carries (11_rorid_instructions.md R326 to R336).
-/
namespace Sys2Proof.Machine

/-- ADD (R326, R327): Rd = Ra + Rb. -/
def execRAdd (p : Fin 96) (g : Guard) (rd ra rb : BitVec 4) (s : State) : Host.Outcome State Fault Refusal :=
  runAlu p g (encR g 0x01 0x0 rd ra rb) 1 rd (fun q => let r := addFlags (readReg q ra) (readReg q rb) 0; (r.1, r.2.1)) s

/-- SUB (R326, R327): Rd = Ra − Rb. -/
def execRSub (p : Fin 96) (g : Guard) (rd ra rb : BitVec 4) (s : State) : Host.Outcome State Fault Refusal :=
  runAlu p g (encR g 0x01 0x1 rd ra rb) 1 rd (fun q => let r := subFlags (readReg q ra) (readReg q rb) 0; (r.1, r.2.1)) s

/-- AND (R326): Rd = Ra AND Rb. -/
def execRAnd (p : Fin 96) (g : Guard) (rd ra rb : BitVec 4) (s : State) : Host.Outcome State Fault Refusal :=
  runAlu p g (encR g 0x01 0x2 rd ra rb) 1 rd (fun q => (readReg q ra &&& readReg q rb, 0)) s

/-- OR (R326): Rd = Ra OR Rb. -/
def execROr (p : Fin 96) (g : Guard) (rd ra rb : BitVec 4) (s : State) : Host.Outcome State Fault Refusal :=
  runAlu p g (encR g 0x01 0x3 rd ra rb) 1 rd (fun q => (readReg q ra ||| readReg q rb, 0)) s

/-- XOR (R326): Rd = Ra XOR Rb. -/
def execRXor (p : Fin 96) (g : Guard) (rd ra rb : BitVec 4) (s : State) : Host.Outcome State Fault Refusal :=
  runAlu p g (encR g 0x01 0x4 rd ra rb) 1 rd (fun q => (readReg q ra ^^^ readReg q rb, 0)) s

/-- ANDN (R326): Rd = Ra AND NOT Rb. -/
def execRAndn (p : Fin 96) (g : Guard) (rd ra rb : BitVec 4) (s : State) : Host.Outcome State Fault Refusal :=
  runAlu p g (encR g 0x01 0x5 rd ra rb) 1 rd (fun q => (readReg q ra &&& ~~~ readReg q rb, 0)) s

/-- SHL (R328): logical shift left by Rb[5:0]. -/
def execRShl (p : Fin 96) (g : Guard) (rd ra rb : BitVec 4) (s : State) : Host.Outcome State Fault Refusal :=
  runAlu p g (encR g 0x01 0x6 rd ra rb) 1 rd (fun q => (shlBy (readReg q ra) (fieldOf (readReg q rb) 0 6), 0)) s

/-- SHR (R328): logical shift right by Rb[5:0]. -/
def execRShr (p : Fin 96) (g : Guard) (rd ra rb : BitVec 4) (s : State) : Host.Outcome State Fault Refusal :=
  runAlu p g (encR g 0x01 0x7 rd ra rb) 1 rd (fun q => (shrBy (readReg q ra) (fieldOf (readReg q rb) 0 6), 0)) s

/-- SAR (R328): arithmetic shift right by Rb[5:0]. -/
def execRSar (p : Fin 96) (g : Guard) (rd ra rb : BitVec 4) (s : State) : Host.Outcome State Fault Refusal :=
  runAlu p g (encR g 0x01 0x8 rd ra rb) 1 rd (fun q => (sarBy (readReg q ra) (fieldOf (readReg q rb) 0 6), 0)) s

/-- ROL (R328): rotate left by Rb[5:0] mod 32. -/
def execRRol (p : Fin 96) (g : Guard) (rd ra rb : BitVec 4) (s : State) : Host.Outcome State Fault Refusal :=
  runAlu p g (encR g 0x01 0x9 rd ra rb) 1 rd (fun q => ((readReg q ra).rotateLeft (fieldOf (readReg q rb) 0 6 % 32), 0)) s

/-- ROR (R328): rotate right by Rb[5:0] mod 32. -/
def execRRor (p : Fin 96) (g : Guard) (rd ra rb : BitVec 4) (s : State) : Host.Outcome State Fault Refusal :=
  runAlu p g (encR g 0x01 0xA rd ra rb) 1 rd (fun q => ((readReg q ra).rotateRight (fieldOf (readReg q rb) 0 6 % 32), 0)) s

/-- MOV (R329): Rd = Ra. -/
def execRMov (p : Fin 96) (g : Guard) (rd ra : BitVec 4) (s : State) : Host.Outcome State Fault Refusal :=
  runAlu p g (encU g 0x0 rd ra) 1 rd (fun q => (readReg q ra, 0)) s

/-- NEG (R329): Rd = 0 − Ra. -/
def execRNeg (p : Fin 96) (g : Guard) (rd ra : BitVec 4) (s : State) : Host.Outcome State Fault Refusal :=
  runAlu p g (encU g 0x1 rd ra) 1 rd (fun q => negFlags (readReg q ra)) s

/-- NOT (R329): Rd = NOT Ra. -/
def execRNot (p : Fin 96) (g : Guard) (rd ra : BitVec 4) (s : State) : Host.Outcome State Fault Refusal :=
  runAlu p g (encU g 0x2 rd ra) 1 rd (fun q => (~~~ readReg q ra, 0)) s

/-- ABS (R329): Rd = the absolute value of Ra. -/
def execRAbs (p : Fin 96) (g : Guard) (rd ra : BitVec 4) (s : State) : Host.Outcome State Fault Refusal :=
  runAlu p g (encU g 0x3 rd ra) 1 rd (fun q => absFlags (readReg q ra)) s

/-- SXB (R329): Rd = Ra[7:0] sign-extended. -/
def execRSxb (p : Fin 96) (g : Guard) (rd ra : BitVec 4) (s : State) : Host.Outcome State Fault Refusal :=
  runAlu p g (encU g 0x4 rd ra) 1 rd (fun q => (((readReg q ra).setWidth 8).signExtend 32, 0)) s

/-- SXH (R329): Rd = Ra[15:0] sign-extended. -/
def execRSxh (p : Fin 96) (g : Guard) (rd ra : BitVec 4) (s : State) : Host.Outcome State Fault Refusal :=
  runAlu p g (encU g 0x5 rd ra) 1 rd (fun q => (((readReg q ra).setWidth 16).signExtend 32, 0)) s

/-- ZXB (R329): Rd = Ra[7:0] zero-extended. -/
def execRZxb (p : Fin 96) (g : Guard) (rd ra : BitVec 4) (s : State) : Host.Outcome State Fault Refusal :=
  runAlu p g (encU g 0x6 rd ra) 1 rd (fun q => (((readReg q ra).setWidth 8).setWidth 32, 0)) s

/-- ZXH (R329): Rd = Ra[15:0] zero-extended. -/
def execRZxh (p : Fin 96) (g : Guard) (rd ra : BitVec 4) (s : State) : Host.Outcome State Fault Refusal :=
  runAlu p g (encU g 0x7 rd ra) 1 rd (fun q => (((readReg q ra).setWidth 16).setWidth 32, 0)) s

/-- CLZ (R329): Rd = number of leading zero bits of Ra. -/
def execRClz (p : Fin 96) (g : Guard) (rd ra : BitVec 4) (s : State) : Host.Outcome State Fault Refusal :=
  runAlu p g (encU g 0x8 rd ra) 1 rd (fun q => (clz (readReg q ra), 0)) s

/-- ADDI (R330): Rd = Ra + the signed immediate. -/
def execRAddi (p : Fin 96) (g : Guard) (rd ra : BitVec 4) (imm : BitVec 11) (s : State) : Host.Outcome State Fault Refusal :=
  runAlu p g (encI g 0x0 rd ra imm) 1 rd (fun q => let r := addFlags (readReg q ra) (imm.signExtend 32) 0; (r.1, r.2.1)) s

/-- SUBI (R330): Rd = Ra − the signed immediate. -/
def execRSubi (p : Fin 96) (g : Guard) (rd ra : BitVec 4) (imm : BitVec 11) (s : State) : Host.Outcome State Fault Refusal :=
  runAlu p g (encI g 0x1 rd ra imm) 1 rd (fun q => let r := subFlags (readReg q ra) (imm.signExtend 32) 0; (r.1, r.2.1)) s

/-- ANDI (R330): Rd = Ra AND the unsigned immediate. -/
def execRAndi (p : Fin 96) (g : Guard) (rd ra : BitVec 4) (imm : BitVec 11) (s : State) : Host.Outcome State Fault Refusal :=
  runAlu p g (encI g 0x2 rd ra imm) 1 rd (fun q => (readReg q ra &&& imm.setWidth 32, 0)) s

/-- ORI (R330): Rd = Ra OR the unsigned immediate. -/
def execROri (p : Fin 96) (g : Guard) (rd ra : BitVec 4) (imm : BitVec 11) (s : State) : Host.Outcome State Fault Refusal :=
  runAlu p g (encI g 0x3 rd ra imm) 1 rd (fun q => (readReg q ra ||| imm.setWidth 32, 0)) s

/-- XORI (R330): Rd = Ra XOR the unsigned immediate. -/
def execRXori (p : Fin 96) (g : Guard) (rd ra : BitVec 4) (imm : BitVec 11) (s : State) : Host.Outcome State Fault Refusal :=
  runAlu p g (encI g 0x4 rd ra imm) 1 rd (fun q => (readReg q ra ^^^ imm.setWidth 32, 0)) s

/-- SHLI (R330): logical shift left by n. -/
def execRShli (p : Fin 96) (g : Guard) (rd ra : BitVec 4) (n : BitVec 6) (s : State) : Host.Outcome State Fault Refusal :=
  runAlu p g (encI g 0x5 rd ra (n.setWidth 11)) 1 rd (fun q => (shlBy (readReg q ra) n.toNat, 0)) s

/-- SHRI (R330): logical shift right by n. -/
def execRShri (p : Fin 96) (g : Guard) (rd ra : BitVec 4) (n : BitVec 6) (s : State) : Host.Outcome State Fault Refusal :=
  runAlu p g (encI g 0x6 rd ra (n.setWidth 11)) 1 rd (fun q => (shrBy (readReg q ra) n.toNat, 0)) s

/-- SARI (R330): arithmetic shift right by n. -/
def execRSari (p : Fin 96) (g : Guard) (rd ra : BitVec 4) (n : BitVec 6) (s : State) : Host.Outcome State Fault Refusal :=
  runAlu p g (encI g 0x7 rd ra (n.setWidth 11)) 1 rd (fun q => (sarBy (readReg q ra) n.toNat, 0)) s

/-- MOVI (R331): Rd = the immediate sign-extended. -/
def execRMovi (p : Fin 96) (g : Guard) (rd : BitVec 4) (imm : BitVec 18) (s : State) : Host.Outcome State Fault Refusal :=
  runAlu p g (encMovi g rd imm) 1 rd (fun _ => (imm.signExtend 32, 0)) s

/-- MOVHI (R331): Rd[31:16] = the immediate; Rd[15:0] is unchanged. -/
def execRMovhi (p : Fin 96) (g : Guard) (rd : BitVec 4) (imm : BitVec 16) (s : State) : Host.Outcome State Fault Refusal :=
  runAlu p g (encMovhi g rd imm) 1 rd (fun q => (imm ++ (readReg q rd).setWidth 16, 0)) s

/-- The effect of a compare (R300, R334, R335). -/
def compareEffect (p : Nat) (pd : BitVec 3) (acc : BitVec 2) (t : Port → Bool) (s : State) : State × Ctl :=
  let q := portOf s p
  (modEng s p fun e => setPred e pd.toNat (accumulate acc (predOf e pd.toNat) (t q)), .next)

/-- CMP (R334, R335). -/
def execRCmp (p : Fin 96) (g : Guard) (pd : BitVec 3) (acc : BitVec 2) (cond ra rb : BitVec 4) (s : State) : Host.Outcome State Fault Refusal :=
  let w := encC g pd acc cond ra rb
  .next (runRorid p g w 1 1 (compareEffect p pd acc fun q => condHolds cond.toNat (readReg q ra) (readReg q rb)) s)

/-- The second operand of CMPI (R334): signed for the first six conditions, unsigned for the others. -/
def cmpiOperand (cond : BitVec 4) (imm : BitVec 9) : Word :=
  if cond.toNat < 6 then imm.signExtend 32 else imm.setWidth 32

/-- CMPI (R334, R335). -/
def execRCmpi (p : Fin 96) (g : Guard) (pd : BitVec 3) (acc : BitVec 2) (cond ra : BitVec 4) (imm : BitVec 9) (s : State) : Host.Outcome State Fault Refusal :=
  let w := encCI g pd acc cond ra imm
  .next (runRorid p g w 1 1 (compareEffect p pd acc fun q => condHolds cond.toNat (readReg q ra) (cmpiOperand cond imm)) s)

/-- The carry-in of ADDX and SUBX (R336): 0 for `PCI` 0, else that predicate. -/
def carryIn (e : Engine) (pci : BitVec 3) : Nat := if pci ≠ 0 && predOf e pci.toNat then 1 else 0

/-- The effect of ADDX and SUBX (R336): the result, the flags, and the carry or borrow in predicate `PD`. -/
def carryEffect (p : Nat) (rd : BitVec 4) (pd : BitVec 3) (f : Port → Word × BitVec 5 × Bool) (s : State) :
    State × Ctl :=
  let r := f (portOf s p)
  (modEng (setFlags (putReg s p rd r.1) p r.2.1) p fun e => setPred e pd.toNat r.2.2, .next)

/-- ADDX (R336). -/
def execRAddx (p : Fin 96) (g : Guard) (rd ra rb : BitVec 4) (pci pd : BitVec 3) (s : State) : Host.Outcome State Fault Refusal :=
  let w := encX g 0x0 rd ra rb pci pd
  .next (runRorid p g w 1 1 (carryEffect p rd pd fun q => addFlags (readReg q ra) (readReg q rb) (carryIn q.eng pci)) s)

/-- SUBX (R336). -/
def execRSubx (p : Fin 96) (g : Guard) (rd ra rb : BitVec 4) (pci pd : BitVec 3) (s : State) : Host.Outcome State Fault Refusal :=
  let w := encX g 0x1 rd ra rb pci pd
  .next (runRorid p g w 1 1 (carryEffect p rd pd fun q => subFlags (readReg q ra) (readReg q rb) (carryIn q.eng pci)) s)

/-- MUL (R332). -/
def execRMul (p : Fin 96) (g : Guard) (rd ra rb : BitVec 4) (s : State) : Host.Outcome State Fault Refusal :=
  runAlu p g (encR g 0x09 0x0 rd ra rb) 2 rd (fun q => mulFlags (readReg q ra) (readReg q rb)) s

/-- MULHS (R332). -/
def execRMulhs (p : Fin 96) (g : Guard) (rd ra rb : BitVec 4) (s : State) : Host.Outcome State Fault Refusal :=
  runAlu p g (encR g 0x09 0x1 rd ra rb) 2 rd (fun q => (highWord ((readReg q ra).toInt * (readReg q rb).toInt), 0)) s

/-- MULHU (R332). -/
def execRMulhu (p : Fin 96) (g : Guard) (rd ra rb : BitVec 4) (s : State) : Host.Outcome State Fault Refusal :=
  runAlu p g (encR g 0x09 0x2 rd ra rb) 2 rd (fun q => (highWord ((readReg q ra).toNat * (readReg q rb).toNat : Nat), 0)) s

/-- DIV (R333). -/
def execRDiv (p : Fin 96) (g : Guard) (rd ra rb : BitVec 4) (s : State) : Host.Outcome State Fault Refusal :=
  runAlu p g (encR g 0x09 0x4 rd ra rb) 34 rd (fun q => divFlags (readReg q ra) (readReg q rb)) s

/-- DIVU (R333). -/
def execRDivu (p : Fin 96) (g : Guard) (rd ra rb : BitVec 4) (s : State) : Host.Outcome State Fault Refusal :=
  runAlu p g (encR g 0x09 0x5 rd ra rb) 34 rd (fun q => divuFlags (readReg q ra) (readReg q rb)) s

/-- REM (R333). -/
def execRRem (p : Fin 96) (g : Guard) (rd ra rb : BitVec 4) (s : State) : Host.Outcome State Fault Refusal :=
  runAlu p g (encR g 0x09 0x6 rd ra rb) 34 rd (fun q => remFlags (readReg q ra) (readReg q rb)) s

/-- REMU (R333). -/
def execRRemu (p : Fin 96) (g : Guard) (rd ra rb : BitVec 4) (s : State) : Host.Outcome State Fault Refusal :=
  runAlu p g (encR g 0x09 0x7 rd ra rb) 34 rd (fun q => remuFlags (readReg q ra) (readReg q rb)) s

end Sys2Proof.Machine
end

