-- ==== Sys2Proof/Machine/RoridCtl.lean ====
section
/-!
DEFINITION. Rorid control transfer, waiting, traps by instruction and illegal words (10_rorid_architecture.md R306 to R311; 11_rorid_instructions.md R342 to R346).
-/
namespace Sys2Proof.Machine

/-- The target of BR and CALL (R342). -/
def branchTarget (q : Port) (ra : BitVec 4) (ind : Bool) (target : BitVec 12) : Nat :=
  if ind then ((readReg q ra).toNat + target.toNat) % 4096 else target.toNat

/-- BR (R342). -/
def execRBr (p : Fin 96) (g : Guard) (ra : BitVec 4) (ind : Bool) (target : BitVec 12) (s : State) :
    Host.Outcome State Fault Refusal :=
  .next (runRorid p g (encB g 0x10 ra ind target) 2 2 (fun s => (s, .jump (branchTarget (portOf s p) ra ind target))) s)

/-- CALL (R306, R342). -/
def execRCall (p : Fin 96) (g : Guard) (ra : BitVec 4) (ind : Bool) (target : BitVec 12) (s : State) :
    Host.Outcome State Fault Refusal :=
  .next (runRorid p g (encB g 0x11 ra ind target) 2 2 (fun s =>
    let q := portOf s p
    let t := branchTarget q ra ind target
    if q.eng.pc = 4095 then (s, .trap 0x06 4096)
    else if 16 ≤ q.eng.rstack.length then (s, .trap 0x02 (BitVec.ofNat 32 t))
    else (modEng s p fun e => { e with rstack := (e.pc + 1) :: e.rstack }, .jump t)) s)

/-- NOP (R343). -/
def execRNop (p : Fin 96) (g : Guard) (s : State) : Host.Outcome State Fault Refusal :=
  .next (runRorid p g (encK g 0x0 0 false 0) 1 1 (fun s => (s, .next)) s)

/-- RET (R306). -/
def execRRet (p : Fin 96) (g : Guard) (s : State) : Host.Outcome State Fault Refusal :=
  .next (runRorid p g (encK g 0x1 0 false 0) 2 2 (fun s =>
    match (portOf s p).eng.rstack with
    | [] => (s, .trap 0x03 0)
    | t :: l => (modEng s p fun e => { e with rstack := l }, .jump t.toNat)) s)

/-- RETT (R310). -/
def execRRett (p : Fin 96) (g : Guard) (s : State) : Host.Outcome State Fault Refusal :=
  let w := encK g 0x2 0 false 0
  .next (runRorid p g w 2 2 (fun s =>
    match (portOf s p).eng.trapped with
    | none => (s, .trap 0x01 w)
    | some t => (modEng s p fun e => { e with trapped := none }, .jump t.toNat)) s)

/-- YIELD (R346). -/
def execRYield (p : Fin 96) (g : Guard) (s : State) : Host.Outcome State Fault Refusal :=
  .next (runRorid p g (encK g 0x3 0 false 0) 1 1 (fun s => (s, .next)) s)

/-- The address of word `k` of the event table (R315). -/
def eventWord (q : Port) (k : Nat) : Word := bankWord q (fieldOf (imageHdr q 4) 0 12 + k)

/-- The event that WAITEV takes under mask `m`: the lowest that is pending, enabled and not masked (R344). -/
def eventChoice (q : Port) (m : Word) : Option Nat :=
  (List.range 32).find? fun k => q.evPend.getLsbD k && (eventWord q k).getLsbD 31 && m.getLsbD k

/-- The words that WAITEV reads to choose event `k`: those of the events up to it that are pending and not masked, its own included. -/
def eventReads (q : Port) (m : Word) (k : Nat) : List Nat :=
  (List.range (k + 1)).filter fun i => q.evPend.getLsbD i && m.getLsbD i

/-- A correctable error of a word of the event table is corrected and counted (R312). -/
def correctEvent (q : Port) (k : Nat) : Port :=
  let a := fieldOf (imageHdr q 4) 0 12 + k
  if (activeBank q).soft.contains a then correctBank q a else q

/-- WAITEV reads the event table under mask `m`, up to the event that it takes, or whole: correctable errors are corrected and counted (R312). -/
def readEvents (s : State) (p : Nat) (m : Word) : State :=
  modPort s p fun q => (eventReads q m ((eventChoice q m).getD 31)).foldl correctEvent q

/-- Event `k` is taken: its pending state is cleared, and the handler's address is the target. -/
def takeEvent (s : State) (p k : Nat) : State × Ctl :=
  (clearEvents s p (1#32 <<< k),
    .jump (fieldOf (eventWord (portOf s p) k) 0 12))

/-- WAITEV (R344). -/
def execRWaitev (p : Fin 96) (g : Guard) (ra : BitVec 4) (all : Bool) (s : State) : Host.Outcome State Fault Refusal :=
  .next (runRorid p g (encK g 0x4 ra all 0) 2 1 (fun s =>
    let q := portOf s p
    let m := if all then BitVec.allOnes 32 else readReg q ra
    let s := readEvents s p m
    match eventChoice q m with
    | some k => takeEvent s p k
    | none => (s, .wait (.event m))) s)

/-- WAITEV_EVENT_TAKEN (R344): `waited` is the number of whole cycles waited. -/
def execWaitevEventTaken (p : Fin 96) (waited : BitVec 32) (s : State) : Host.Outcome State Fault Refusal :=
  let e := (portOf s p).eng
  .next <|
    match e.state, e.wait with
    | .running, .event m =>
      match eventChoice (portOf s p) m with
      | some k =>
        if isRun s then
          let r := takeEvent (readEvents s p m) p k
          endInstr s r.1 p e.pc.toNat (1 + max 1 waited.toNat) (0, .clean) r.2
        else s
      | none => s
    | _, _ => s

/-- SWT (R308, R343). -/
def execRSwt (p : Fin 96) (g : Guard) (code : BitVec 12) (s : State) : Host.Outcome State Fault Refusal :=
  .next (runRorid p g (encK g 0x5 0 false code) 1 1 (fun s => (s, .after 0x08 (code.setWidth 32))) s)

/-- The word that the engine stands before cannot be carried out: it is illegal (R299), or its guard is true and it names P0 (R298, R300). -/
def cannotRun (q : Port) : Bool :=
  !roridLegal (imageModeC q) q.eng.fetched || (guardTrue q.eng (wordGuard q.eng.fetched) && namesP0 q.eng.fetched)

/-- RORID_ILLEGAL_INSTRUCTION (R299, R300): the word that the engine has fetched is illegal. -/
def execRIllegal (p : Fin 96) (s : State) : Host.Outcome State Fault Refusal :=
  let q := portOf s p
  .next <|
    if engineAt s p q.eng.fetched && cannotRun q then
      if q.eng.mark == .bad then conclude s (failByWord s p q.eng.pc.toNat)
      else trapEntry (modPort s p correctFetched) p 0x01 q.eng.fetched q.eng.pc.toNat
    else s

end Sys2Proof.Machine
end

