-- ==== Sys2Proof/Machine/Security.lean ====
section
/-!
DEFINITION. What happens in the logbook and the security unit beside commands: firmware's records, seal signatures, the TRNG's health test, and the debug unlock (17_security_and_logbook.md R486, R493 to R500; 18_power_reset_startup.md R530).
-/
namespace Sys2Proof.Machine

/-! ## The logbook -/

/-- FIRMWARE_LOG_RECORD (R530): the oldest record that is due is written. -/
def execFirmwareLogRecord (s : State) : Host.Outcome State Fault Refusal :=
  .next <|
    match (if isRun s then s.log.due else []) with
    | [] => s
    | r :: l => settle s (logOwed (modLog s fun x => { x with due := l }) r)

/-- The 72 bytes that a seal signs: SEAL_HEAD, H, `DEVSERIAL`. -/
def sealInput (l : Logbook) (head : Nat) : List Byte :=
  (recordsAt l head 2).flatMap (fun r => leBytes 32 r.toNat) ++ leBytes 8 Config.devSerial.toNat

/-- The signature of a seal group: zeros while slot 0 is empty (R486). -/
def sealSignature (s : State) (head : Nat) : List Byte :=
  let k := (slotOf s 0).material
  if k.isEmpty then List.replicate 64 0 else ecdsaSign (beNat k) (sha256 (sealInput s.log head))

/-- The signature's two records take their places, where the ring still holds them. -/
def putSignature (l : Logbook) (head : Nat) (sig : List Byte) : Logbook :=
  let i := head + 2 - oldestSeq l
  { l with ring := if oldestSeq l ≤ head + 2 then (l.ring.set i (recOf (sig.take 32))).set (i + 1) (recOf (sig.drop 32)) else l.ring }

/-- The oldest unsigned seal group is signed (R500). -/
def signGroup (s : State) (g : SealPending) (rest : List SealPending) : State :=
  let sig := sealSignature s g.head
  let s := modLog s fun l => putSignature { l with seals := rest } g.head sig
  let s := raise s 706
  g.doors.foldl (fun s d => answerLate s d 0x00 (wordsOf (g.head - 1))) s

/-- SEAL_GROUP_SIGNED (R500): firmware, running, has made the signature. -/
def execSealGroupSigned (s : State) : Host.Outcome State Fault Refusal :=
  .next <|
    match (if isRun s && s.fw.running then s.log.seals else []) with
    | [] => s
    | g :: l => settle s (signGroup s g l)

/-! ## The TRNG (R486) -/

/-- A health test has failed. -/
def trngFails (s : State) : State :=
  let empty := (slotOf s 0).material.isEmpty
  raise { s with sec := { s.sec with trngFail := true, noSealKey := s.sec.noSealKey || empty } } 707

/-- TRNG_HEALTH_FAIL (R486). -/
def execTrngHealthFail (s : State) : Host.Outcome State Fault Refusal := .next (whenRun s (settle s (trngFails s)))

/-! ## Debug (R493 to R495) -/

/-- The debug level at which an instruction of the test access port acts (R493, R495): 0 also while debug is locked. -/
def tapLevel : TapInstr → Nat
  | .bypass => 0
  | .idcode => 0
  | .sample => 0
  | .dbgChal => 0
  | .dbgResp => 0
  | .extest => 1
  | .intest => 1
  | .access => 2

/-- The instruction that acts: one that the level does not open acts as BYPASS (R493). -/
def tapActs (s : State) (i : TapInstr) : TapInstr := if tapLevel i ≤ s.sec.dbgLevel.toNat then i else .bypass

/-- The boundary scan drives the pins (R495). -/
def scanDrives (s : State) : Bool := tapActs s s.sec.tapIr == .extest

/-- The state with security changed. -/
def modSec (s : State) (f : Security → Security) : State := { s with sec := f s.sec }

/-- A challenge is issued. -/
def issueNonce (s : State) (level : BitVec 8) : State :=
  let n := Config.drbg s.freeCtr
  modSec (drawn s) fun x => { x with dbgReq := level, nonce := some (n, s.tb.time), nonceSent := n }

/-- DBG_CHAL (R494): refused after a failed health test, and after 8 refused attempts. -/
def execDbgChal (level : BitVec 8) (s : State) : Host.Outcome State Fault Refusal :=
  .next <|
    let s := whenRun s (modSec s fun x => { x with tapIr := .dbgChal })
    if isRun s && (level == 1 || level == 2) && !s.sec.trngFail && decide (s.sec.dbgFails.toNat < 8) then issueNonce s level else s

/-- The response to the latest challenge is right (R494). -/
def debugOk (s : State) (key sig : BitVec 512) : Bool :=
  match s.sec.nonce with
  | none => false
  | some (n, t) =>
    let k := bvBytes 64 key
    decide (s.tb.time ≤ t + 10000000000) && sha256v k == Config.dbgRoot
      && ecdsaVerify k (sha256 (bvBytes 32 n ++ leBytes 8 Config.devSerial.toNat ++ [s.sec.dbgReq])) (bvBytes 64 sig)

/-- The DEBUG record of an attempt (R497). -/
def debugRecord (s : State) (granted : Bool) : LogDraft :=
  { door := 3, kind := 0x0D, object := fieldOf (s.sec.dbgReq.setWidth 32) 0 2 + if granted then 2 ^ 8 else 0 }

/-- The level is granted: level 2 erases slots 3 to 63 first (R495). -/
def grantDebug (s : State) : State :=
  let s := if s.sec.dbgReq = 2 then modSec s fun x => { x with keys := x.keys.filter fun k => k.1 < 3 } else s
  raise (modSec s fun x => { x with dbgLevel := x.dbgReq.setWidth 2 }) 708

/-- The level is refused. -/
def refuseDebug (s : State) : State :=
  modSec s fun x => { x with dbgFails := if 8 ≤ x.dbgFails.toNat then x.dbgFails else x.dbgFails + 1 }

/-- An attempt to unlock debug. -/
def debugAttempt (s : State) (key sig : BitVec 512) : State :=
  let ok := debugOk s key sig
  let t := modSec s fun x => { x with nonce := none }
  logAlways (if ok then grantDebug t else refuseDebug t) (debugRecord s ok)

/-- DBG_RESP (R494). -/
def execDbgResp (key sig : BitVec 512) (s : State) : Host.Outcome State Fault Refusal :=
  .next (whenRun s (settle s (debugAttempt (modSec s fun x => { x with tapIr := .dbgResp }) key sig)))

end Sys2Proof.Machine
end

