-- ==== Sys2Proof/Machine/Dispatch.lean ====
section
/-!
DEFINITION. The dispatch: one arm per command.
-/
namespace Sys2Proof.Machine

/-- The effect of a command on everything but the queue of waiting commands. -/
def exec (i : Instr) (s : State) : Host.Outcome State Fault Refusal :=
  match i with
  | .porstNAsserted => Sys2Proof.Machine.execPorstNAsserted s
  | .porstNRelease refsel => Sys2Proof.Machine.execPorstNRelease refsel s
  | .wrstNAsserted => Sys2Proof.Machine.execWrstNAsserted s
  | .warmResetCommand => Sys2Proof.Machine.execWarmResetCommand s
  | .pf0Flr => Sys2Proof.Machine.execPf0Flr s
  | .pllLock b => Sys2Proof.Machine.execPllLock b s
  | .pllLockLoss => Sys2Proof.Machine.execPllLockLoss s
  | .bootWatchdogExpiry b => Sys2Proof.Machine.execBootWatchdogExpiry b s
  | .brownOut r => Sys2Proof.Machine.execBrownOut r s
  | .supplyWarning r outside => Sys2Proof.Machine.execSupplyWarning r outside s
  | .temperatureReading t0 t1 t2 t3 => Sys2Proof.Machine.execTemperatureReading t0 t1 t2 t3 s
  | .ferrymasterMismatch => Sys2Proof.Machine.execFerrymasterMismatch s
  | .quiesceAssert => Sys2Proof.Machine.execQuiesceAssert s
  | .quiesceRelease => Sys2Proof.Machine.execQuiesceRelease s
  | .landsyncEdge => Sys2Proof.Machine.execLandsyncEdge s
  | .syncWindowClose => Sys2Proof.Machine.execSyncWindowClose s
  | .gangwayCutoff => Sys2Proof.Machine.execGangwayCutoff s
  | .landing => Sys2Proof.Machine.execLanding s
  | .startLanding gptpTime => Sys2Proof.Machine.execStartLanding gptpTime s
  | .landoutEnd => Sys2Proof.Machine.execLandoutEnd s
  | .mbxGo p w => Sys2Proof.Machine.execMbxGo p w s
  | .commandTakeUp => Sys2Proof.Machine.execCommandTakeUp s
  | .gHello d => Sys2Proof.Machine.execGHello d s
  | .gPortCommission d => Sys2Proof.Machine.execGPortCommission d s
  | .gPortDecommission d => Sys2Proof.Machine.execGPortDecommission d s
  | .gRoleImageLoad d => Sys2Proof.Machine.execGRoleImageLoad d s
  | .gRoleImageSwap d => Sys2Proof.Machine.execGRoleImageSwap d s
  | .gCrossingConfig d => Sys2Proof.Machine.execGCrossingConfig d s
  | .gCrossingConfigCutoffOnly d => Sys2Proof.Machine.execGCrossingConfigCutoffOnly d s
  | .gSyncConfig d => Sys2Proof.Machine.execGSyncConfig d s
  | .gRingCreate d => Sys2Proof.Machine.execGRingCreate d s
  | .gWindowSet d => Sys2Proof.Machine.execGWindowSet d s
  | .gWindowRemove d => Sys2Proof.Machine.execGWindowRemove d s
  | .gQueueCreate d => Sys2Proof.Machine.execGQueueCreate d s
  | .gBargeAssign d => Sys2Proof.Machine.execGBargeAssign d s
  | .gPartitionConfig d => Sys2Proof.Machine.execGPartitionConfig d s
  | .gPartitionReset d => Sys2Proof.Machine.execGPartitionReset d s
  | .gQuotaSet d => Sys2Proof.Machine.execGQuotaSet d s
  | .gKeyImport d => Sys2Proof.Machine.execGKeyImport d s
  | .gKekBootstrapImport d => Sys2Proof.Machine.execGKekBootstrapImport d s
  | .gKeyDerive d => Sys2Proof.Machine.execGKeyDerive d s
  | .gLogRead d => Sys2Proof.Machine.execGLogRead d s
  | .gLogSeal d => Sys2Proof.Machine.execGLogSeal d s
  | .gSnapshotRequest d => Sys2Proof.Machine.execGSnapshotRequest d s
  | .gIdentityScan d mems => Sys2Proof.Machine.execGIdentityScan d mems s
  | .gEndpointSet d => Sys2Proof.Machine.execGEndpointSet d s
  | .gEndpointRemove d => Sys2Proof.Machine.execGEndpointRemove d s
  | .gPowerStateMoor d => Sys2Proof.Machine.execGPowerStateMoor d s
  | .gPowerStateDomainOff d => Sys2Proof.Machine.execGPowerStateDomainOff d s
  | .gPowerStateDomainOn d => Sys2Proof.Machine.execGPowerStateDomainOn d s
  | .domainTransitionDone => Sys2Proof.Machine.execDomainTransitionDone s
  | .gFwUpdateBegin d => Sys2Proof.Machine.execGFwUpdateBegin d s
  | .gFwUpdateChunk d => Sys2Proof.Machine.execGFwUpdateChunk d s
  | .fwFlashBackgroundDone => Sys2Proof.Machine.execFwFlashBackgroundDone s
  | .gFwUpdateCommit d => Sys2Proof.Machine.execGFwUpdateCommit d s
  | .gFwUpdateConfirm d => Sys2Proof.Machine.execGFwUpdateConfirm d s
  | .gFwUpdateAbandon d => Sys2Proof.Machine.execGFwUpdateAbandon d s
  | .gBankAssign d => Sys2Proof.Machine.execGBankAssign d s
  | .bankHandoverDone n => Sys2Proof.Machine.execBankHandoverDone n s
  | .sspRequest frame => Sys2Proof.Machine.execSspRequest frame s
  | .sspFetch frame => Sys2Proof.Machine.execSspFetch frame s
  | .sspStatus frame => Sys2Proof.Machine.execSspStatus frame s
  | .sspReset frame => Sys2Proof.Machine.execSspReset frame s
  | .vfFlr p => Sys2Proof.Machine.execVfFlr p s
  | .vfEnableClear => Sys2Proof.Machine.execVfEnableClear s
  | .pcieDoorChange vfEnable p busMaster msixEnable functionMask => Sys2Proof.Machine.execPcieDoorChange vfEnable p busMaster msixEnable functionMask s
  | .partitionResetDrained p => Sys2Proof.Machine.execPartitionResetDrained p s
  | .sqDoorbell p n w => Sys2Proof.Machine.execSqDoorbell p n w s
  | .sqEntryFetchDone p n count poisoned => Sys2Proof.Machine.execSqEntryFetchDone p n count poisoned s
  | .manifestHeaderArrival v poisoned => Sys2Proof.Machine.execManifestHeaderArrival v poisoned s
  | .cqCiWrite p m w => Sys2Proof.Machine.execCqCiWrite p m w s
  | .shadowWrite p submission m => Sys2Proof.Machine.execShadowWrite p submission m s
  | .mNop v => Sys2Proof.Machine.execMNop v s
  | .mRead v => Sys2Proof.Machine.execMRead v s
  | .mWrite v => Sys2Proof.Machine.execMWrite v s
  | .mControl v => Sys2Proof.Machine.execMControl v s
  | .mSense v => Sys2Proof.Machine.execMSense v s
  | .mJump v => Sys2Proof.Machine.execMJump v s
  | .mWait v => Sys2Proof.Machine.execMWait v s
  | .mTest v => Sys2Proof.Machine.execMTest v s
  | .mSetv v => Sys2Proof.Machine.execMSetv v s
  | .mAddv v => Sys2Proof.Machine.execMAddv v s
  | .mInvoke v => Sys2Proof.Machine.execMInvoke v s
  | .mBarge v => Sys2Proof.Machine.execMBarge v s
  | .mForward v => Sys2Proof.Machine.execMForward v s
  | .mQueueMark v => Sys2Proof.Machine.execMQueueMark v s
  | .mQueueRewind v => Sys2Proof.Machine.execMQueueRewind v s
  | .mQueueRelease v => Sys2Proof.Machine.execMQueueRelease v s
  | .mQueueDepth v => Sys2Proof.Machine.execMQueueDepth v s
  | .mQueueBytes v => Sys2Proof.Machine.execMQueueBytes v s
  | .mPostv v => Sys2Proof.Machine.execMPostv v s
  | .mSignal v => Sys2Proof.Machine.execMSignal v s
  | .mAuth v => Sys2Proof.Machine.execMAuth v s
  | .mEndpoint v => Sys2Proof.Machine.execMEndpoint v s
  | .mEnd v => Sys2Proof.Machine.execMEnd v s
  | .manifestPageFillDone p poisoned => Sys2Proof.Machine.execManifestPageFillDone p poisoned s
  | .tmoExpiry v => Sys2Proof.Machine.execTmoExpiry v s
  | .cryptoAnswer v => Sys2Proof.Machine.execCryptoAnswer v s
  | .voyagePreemption v => Sys2Proof.Machine.execVoyagePreemption v s
  | .quantumExpiry v => Sys2Proof.Machine.execQuantumExpiry v s
  | .engineRetirement e => Sys2Proof.Machine.execEngineRetirement e s
  | .firmwareLogRecord => Sys2Proof.Machine.execFirmwareLogRecord s
  | .producerStallEnd => Sys2Proof.Machine.execProducerStallEnd s
  | .patrolScrub => Sys2Proof.Machine.execPatrolScrub s
  | .bargeLoad n => Sys2Proof.Machine.execBargeLoad n s
  | .bargeBurst n => Sys2Proof.Machine.execBargeBurst n s
  | .bargeTransferEnd n => Sys2Proof.Machine.execBargeTransferEnd n s
  | .shareGateWindow => Sys2Proof.Machine.execShareGateWindow s
  | .snapshotExportDone p => Sys2Proof.Machine.execSnapshotExportDone p s
  | .berthDecision a requests => Sys2Proof.Machine.execBerthDecision a requests s
  | .berthCutoff a served => Sys2Proof.Machine.execBerthCutoff a served s
  | .icuClaim t => Sys2Proof.Machine.execIcuClaim t s
  | .icuEoi t w => Sys2Proof.Machine.execIcuEoi t w s
  | .icuT33Ack w => Sys2Proof.Machine.execIcuT33Ack w s
  | .msixVectorUnmask t v => Sys2Proof.Machine.execMsixVectorUnmask t v s
  | .holdOffExpiry g => Sys2Proof.Machine.execHoldOffExpiry g s
  | .glbLockSet => Sys2Proof.Machine.execGlbLockSet s
  | .dckFlatWrite w => Sys2Proof.Machine.execDckFlatWrite w s
  | .gbkOwnWrite n w => Sys2Proof.Machine.execGbkOwnWrite n w s
  | .retentionEntry n => Sys2Proof.Machine.execRetentionEntry n s
  | .retentionExitDone n => Sys2Proof.Machine.execRetentionExitDone n s
  | .lowHalfCaptureRead a => Sys2Proof.Machine.execLowHalfCaptureRead a s
  | .rcFieldRead a => Sys2Proof.Machine.execRcFieldRead a s
  | .registerWrite a w => Sys2Proof.Machine.execRegisterWrite a w s
  | .sealGroupSigned => Sys2Proof.Machine.execSealGroupSigned s
  | .trngHealthFail => Sys2Proof.Machine.execTrngHealthFail s
  | .dbgChal level => Sys2Proof.Machine.execDbgChal level s
  | .dbgResp key sig => Sys2Proof.Machine.execDbgResp key sig s
  | .backboneFrameReceived n f => Sys2Proof.Machine.execBackboneFrameReceived n f s
  | .crossingFragmentReceived n h payload => Sys2Proof.Machine.execCrossingFragmentReceived n h payload s
  | .announceReceived n part versions => Sys2Proof.Machine.execAnnounceReceived n part versions s
  | .announceTimer => Sys2Proof.Machine.execAnnounceTimer s
  | .peerTimeout n part => Sys2Proof.Machine.execPeerTimeout n part s
  | .fragmentGapTimeout n part => Sys2Proof.Machine.execFragmentGapTimeout n part s
  | .crossingFragmentSent n => Sys2Proof.Machine.execCrossingFragmentSent n s
  | .sinkDecision => Sys2Proof.Machine.execSinkDecision s
  | .gptpFrameReceived n f => Sys2Proof.Machine.execGptpFrameReceived n f s
  | .gptpSyncLoss => Sys2Proof.Machine.execGptpSyncLoss s
  | .backboneLinkChange n up speed => Sys2Proof.Machine.execBackboneLinkChange n up speed s
  | .wakeFilterMatch m us b => Sys2Proof.Machine.execWakeFilterMatch m us b s
  | .wakePinAsserted us b => Sys2Proof.Machine.execWakePinAsserted us b s
  | .safetyPortWake us b => Sys2Proof.Machine.execSafetyPortWake us b s
  | .mooredEntry => Sys2Proof.Machine.execMooredEntry s
  | .timerMatch p c => Sys2Proof.Machine.execTimerMatch p c s
  | .timerWrap p c => Sys2Proof.Machine.execTimerWrap p c s
  | .edgeCapture p k level => Sys2Proof.Machine.execEdgeCapture p k level s
  | .timerCapture p c => Sys2Proof.Machine.execTimerCapture p c s
  | .shiftWordComplete p u rx ferr => Sys2Proof.Machine.execShiftWordComplete p u rx ferr s
  | .busFrameReceived p bytes => Sys2Proof.Machine.execBusFrameReceived p bytes s
  | .busFrameSent p how => Sys2Proof.Machine.execBusFrameSent p how s
  | .busOffRecovery p => Sys2Proof.Machine.execBusOffRecovery p s
  | .plcaStatusChange p active => Sys2Proof.Machine.execPlcaStatusChange p active s
  | .scratchpadScrubDone p => Sys2Proof.Machine.execScratchpadScrubDone p s
  | .rAdd p g rd ra rb => Sys2Proof.Machine.execRAdd p g rd ra rb s
  | .rSub p g rd ra rb => Sys2Proof.Machine.execRSub p g rd ra rb s
  | .rAnd p g rd ra rb => Sys2Proof.Machine.execRAnd p g rd ra rb s
  | .rOr p g rd ra rb => Sys2Proof.Machine.execROr p g rd ra rb s
  | .rXor p g rd ra rb => Sys2Proof.Machine.execRXor p g rd ra rb s
  | .rAndn p g rd ra rb => Sys2Proof.Machine.execRAndn p g rd ra rb s
  | .rShl p g rd ra rb => Sys2Proof.Machine.execRShl p g rd ra rb s
  | .rShr p g rd ra rb => Sys2Proof.Machine.execRShr p g rd ra rb s
  | .rSar p g rd ra rb => Sys2Proof.Machine.execRSar p g rd ra rb s
  | .rRol p g rd ra rb => Sys2Proof.Machine.execRRol p g rd ra rb s
  | .rRor p g rd ra rb => Sys2Proof.Machine.execRRor p g rd ra rb s
  | .rMov p g rd ra => Sys2Proof.Machine.execRMov p g rd ra s
  | .rNeg p g rd ra => Sys2Proof.Machine.execRNeg p g rd ra s
  | .rNot p g rd ra => Sys2Proof.Machine.execRNot p g rd ra s
  | .rAbs p g rd ra => Sys2Proof.Machine.execRAbs p g rd ra s
  | .rSxb p g rd ra => Sys2Proof.Machine.execRSxb p g rd ra s
  | .rSxh p g rd ra => Sys2Proof.Machine.execRSxh p g rd ra s
  | .rZxb p g rd ra => Sys2Proof.Machine.execRZxb p g rd ra s
  | .rZxh p g rd ra => Sys2Proof.Machine.execRZxh p g rd ra s
  | .rClz p g rd ra => Sys2Proof.Machine.execRClz p g rd ra s
  | .rAddi p g rd ra imm => Sys2Proof.Machine.execRAddi p g rd ra imm s
  | .rSubi p g rd ra imm => Sys2Proof.Machine.execRSubi p g rd ra imm s
  | .rAndi p g rd ra imm => Sys2Proof.Machine.execRAndi p g rd ra imm s
  | .rOri p g rd ra imm => Sys2Proof.Machine.execROri p g rd ra imm s
  | .rXori p g rd ra imm => Sys2Proof.Machine.execRXori p g rd ra imm s
  | .rShli p g rd ra n => Sys2Proof.Machine.execRShli p g rd ra n s
  | .rShri p g rd ra n => Sys2Proof.Machine.execRShri p g rd ra n s
  | .rSari p g rd ra n => Sys2Proof.Machine.execRSari p g rd ra n s
  | .rMovi p g rd imm => Sys2Proof.Machine.execRMovi p g rd imm s
  | .rMovhi p g rd imm => Sys2Proof.Machine.execRMovhi p g rd imm s
  | .rCmp p g pd acc cond ra rb => Sys2Proof.Machine.execRCmp p g pd acc cond ra rb s
  | .rCmpi p g pd acc cond ra imm => Sys2Proof.Machine.execRCmpi p g pd acc cond ra imm s
  | .rAddx p g rd ra rb pci pd => Sys2Proof.Machine.execRAddx p g rd ra rb pci pd s
  | .rSubx p g rd ra rb pci pd => Sys2Proof.Machine.execRSubx p g rd ra rb pci pd s
  | .rMul p g rd ra rb => Sys2Proof.Machine.execRMul p g rd ra rb s
  | .rMulhs p g rd ra rb => Sys2Proof.Machine.execRMulhs p g rd ra rb s
  | .rMulhu p g rd ra rb => Sys2Proof.Machine.execRMulhu p g rd ra rb s
  | .rDiv p g rd ra rb => Sys2Proof.Machine.execRDiv p g rd ra rb s
  | .rDivu p g rd ra rb => Sys2Proof.Machine.execRDivu p g rd ra rb s
  | .rRem p g rd ra rb => Sys2Proof.Machine.execRRem p g rd ra rb s
  | .rRemu p g rd ra rb => Sys2Proof.Machine.execRRemu p g rd ra rb s
  | .rLd p g rd ra size sx off met => Sys2Proof.Machine.execRLd p g rd ra size sx off met s
  | .rSt p g rs ra size off => Sys2Proof.Machine.execRSt p g rs ra size off s
  | .rPush p g rs => Sys2Proof.Machine.execRPush p g rs s
  | .rPop p g rd met => Sys2Proof.Machine.execRPop p g rd met s
  | .rIld p g rd ra off => Sys2Proof.Machine.execRIld p g rd ra off s
  | .rIst p g rs ra off => Sys2Proof.Machine.execRIst p g rs ra off s
  | .rIn p g rd ra ind io => Sys2Proof.Machine.execRIn p g rd ra ind io s
  | .rOut p g rd ra ind io => Sys2Proof.Machine.execROut p g rd ra ind io s
  | .rBr p g ra ind target => Sys2Proof.Machine.execRBr p g ra ind target s
  | .rCall p g ra ind target => Sys2Proof.Machine.execRCall p g ra ind target s
  | .rNop p g => Sys2Proof.Machine.execRNop p g s
  | .rRet p g => Sys2Proof.Machine.execRRet p g s
  | .rRett p g => Sys2Proof.Machine.execRRett p g s
  | .rYield p g => Sys2Proof.Machine.execRYield p g s
  | .rWaitev p g ra all => Sys2Proof.Machine.execRWaitev p g ra all s
  | .waitevEventTaken p waited => Sys2Proof.Machine.execWaitevEventTaken p waited s
  | .rSwt p g code => Sys2Proof.Machine.execRSwt p g code s
  | .rMac p g acn ra rb => Sys2Proof.Machine.execRMac p g acn ra rb s
  | .rMsu p g acn ra rb => Sys2Proof.Machine.execRMsu p g acn ra rb s
  | .rMpy p g acn ra rb => Sys2Proof.Machine.execRMpy p g acn ra rb s
  | .rMacu p g acn ra rb => Sys2Proof.Machine.execRMacu p g acn ra rb s
  | .rClra p g acn => Sys2Proof.Machine.execRClra p g acn s
  | .rAdda p g acn ra => Sys2Proof.Machine.execRAdda p g acn ra s
  | .rSuba p g acn ra => Sys2Proof.Machine.execRSuba p g acn ra s
  | .rMova p g acn acm => Sys2Proof.Machine.execRMova p g acn acm s
  | .rAddaa p g acn acm => Sys2Proof.Machine.execRAddaa p g acn acm s
  | .rNega p g acn => Sys2Proof.Machine.execRNega p g acn s
  | .rShra p g acn k => Sys2Proof.Machine.execRShra p g acn k s
  | .rShla p g acn k => Sys2Proof.Machine.execRShla p g acn k s
  | .rExta p g acn ra k => Sys2Proof.Machine.execRExta p g acn ra k s
  | .rQput p g rd rq rs size => Sys2Proof.Machine.execRQput p g rd rq rs size s
  | .rQcommit p g rd rq => Sys2Proof.Machine.execRQcommit p g rd rq s
  | .rQdrop p g rd rq => Sys2Proof.Machine.execRQdrop p g rd rq s
  | .rQclaim p g rd rq nw => Sys2Proof.Machine.execRQclaim p g rd rq nw s
  | .rQget p g rd rq size => Sys2Proof.Machine.execRQget p g rd rq size s
  | .rQend p g rd rq => Sys2Proof.Machine.execRQend p g rd rq s
  | .rQmark p g rd rq => Sys2Proof.Machine.execRQmark p g rd rq s
  | .rQrew p g rd rq => Sys2Proof.Machine.execRQrew p g rd rq s
  | .rQrel p g rd rq => Sys2Proof.Machine.execRQrel p g rd rq s
  | .rQdepth p g rd rq => Sys2Proof.Machine.execRQdepth p g rd rq s
  | .qclaimWaitEnd p => Sys2Proof.Machine.execQclaimWaitEnd p s
  | .qputStallEnd p => Sys2Proof.Machine.execQputStallEnd p s
  | .qcommitWaitEnd p => Sys2Proof.Machine.execQcommitWaitEnd p s
  | .qgetCellArrival p => Sys2Proof.Machine.execQgetCellArrival p s
  | .deviceTimeAdvance => Sys2Proof.Machine.execDeviceTimeAdvance s
  | .brownOutRecovery r => Sys2Proof.Machine.execBrownOutRecovery r s
  | .pcieLinkChange up => Sys2Proof.Machine.execPcieLinkChange up s
  | .wakeNDriveTimeout => Sys2Proof.Machine.execWakeNDriveTimeout s
  | .vddioSupplyChange g v => Sys2Proof.Machine.execVddioSupplyChange g v s
  | .mReserved v => Sys2Proof.Machine.execMReserved v s
  | .rIllegal p => Sys2Proof.Machine.execRIllegal p s

end Sys2Proof.Machine
end

