-- ==== Sys2Proof/Safety.lean ====
section
/-!
DEFINITION. What every state that the device reaches satisfies, and what a safe outcome is.
-/
namespace Sys2Proof.Machine

/-- Every byte memory has its canonical form. -/
def State.memWf (s : State) : Bool :=
  Machine.memWf s.deck.mem && Machine.memWf s.bankMem && Machine.memWf s.hostMem && Machine.memWf s.fw.flash &&
    s.port.all fun q => Machine.memWf q.2.spad

/-- The outcome is a next state: no command of this device stops it. -/
def goesOn : Host.Outcome State Fault Refusal → Bool
  | .next _ => true
  | .fault _ => false
  | .refused _ => false

/-- A table in its canonical form: keys rise strictly. -/
def keysRise {α : Type} (t : Tab α) : Prop := (t.map Prod.fst).Pairwise (· < ·)

/-- The tables of voyages, slots, mailboxes and ports have their canonical form. -/
def State.inOrder (s : State) : Prop := keysRise s.sch.voy ∧ keysRise s.sch.slots ∧ keysRise s.mbx ∧ keysRise s.port

/-- `t` is `u` once free slots have been given out (R131 to R138) and the sources that became eligible have sent their messages (R463): but for the scheduler, the partitions' credits, pending vectors and messages sent, nothing has changed, and of the voyages only the state, slot and park of those that were Ready have (the voyage table being in its canonical form). -/
def Concluded (u t : State) : Prop :=
  { t with sch := u.sch, part := u.part, icu := { t.icu with target := u.icu.target },
           out := { t.out with msi := u.out.msi } } = u ∧
    { t.sch with voy := u.sch.voy, slots := u.sch.slots, tick := u.sch.tick, lastPart := u.sch.lastPart, fills := u.sch.fills } = u.sch ∧
    (∀ p, { partOf t p with credit := (partOf u p).credit } = partOf u p) ∧
    (∀ k, { targetOf t k with pba := (targetOf u k).pba } = targetOf u k) ∧
    (keysRise u.sch.voy → keysRise t.sch.voy ∧ ∀ v x, voyOf u v = some x → x.state ≠ .ready → voyOf t v = some x) ∧
    (∀ v, voyOf u v = none → voyOf t v = none) ∧
    (∀ v x, voyOf u v = some x → ∃ y, voyOf t v = some y ∧
      { y with state := x.state, slot := x.slot, since := x.since, park := x.park } = x) ∧
    ∃ l, t.out.msi = u.out.msi ++ l

/-! ## Rorid instructions, in the terms that statements about them use -/

/-- Port `p`'s engine stands before the instruction whose word is `w` and whose guard is `g`, and executes it: it runs, waits for nothing, the word is legal, was fetched without an uncorrectable error and does not name P0 as the destination of a compare, and the guard is true. -/
def Executes (s : State) (p : Nat) (g : Guard) (w : Word) : Prop :=
  engineAt s p w = true ∧ (portOf s p).eng.mark ≠ .bad ∧
    roridLegal (imageModeC (portOf s p)) w = true ∧ guardTrue (portOf s p).eng g = true ∧ namesP0 w = false

/-- The port, the guard and the word of the instruction that a row of the Rorid table carries out, in the encodings of R325. -/
def roridWord : Instr → Option (Fin 96 × Guard × Word)
  | .rAdd p g rd ra rb => some (p, g, encR g 0x01 0x0 rd ra rb)
  | .rSub p g rd ra rb => some (p, g, encR g 0x01 0x1 rd ra rb)
  | .rAnd p g rd ra rb => some (p, g, encR g 0x01 0x2 rd ra rb)
  | .rOr p g rd ra rb => some (p, g, encR g 0x01 0x3 rd ra rb)
  | .rXor p g rd ra rb => some (p, g, encR g 0x01 0x4 rd ra rb)
  | .rAndn p g rd ra rb => some (p, g, encR g 0x01 0x5 rd ra rb)
  | .rShl p g rd ra rb => some (p, g, encR g 0x01 0x6 rd ra rb)
  | .rShr p g rd ra rb => some (p, g, encR g 0x01 0x7 rd ra rb)
  | .rSar p g rd ra rb => some (p, g, encR g 0x01 0x8 rd ra rb)
  | .rRol p g rd ra rb => some (p, g, encR g 0x01 0x9 rd ra rb)
  | .rRor p g rd ra rb => some (p, g, encR g 0x01 0xA rd ra rb)
  | .rMov p g rd ra => some (p, g, encU g 0x0 rd ra)
  | .rNeg p g rd ra => some (p, g, encU g 0x1 rd ra)
  | .rNot p g rd ra => some (p, g, encU g 0x2 rd ra)
  | .rAbs p g rd ra => some (p, g, encU g 0x3 rd ra)
  | .rSxb p g rd ra => some (p, g, encU g 0x4 rd ra)
  | .rSxh p g rd ra => some (p, g, encU g 0x5 rd ra)
  | .rZxb p g rd ra => some (p, g, encU g 0x6 rd ra)
  | .rZxh p g rd ra => some (p, g, encU g 0x7 rd ra)
  | .rClz p g rd ra => some (p, g, encU g 0x8 rd ra)
  | .rAddi p g rd ra imm => some (p, g, encI g 0x0 rd ra imm)
  | .rSubi p g rd ra imm => some (p, g, encI g 0x1 rd ra imm)
  | .rAndi p g rd ra imm => some (p, g, encI g 0x2 rd ra imm)
  | .rOri p g rd ra imm => some (p, g, encI g 0x3 rd ra imm)
  | .rXori p g rd ra imm => some (p, g, encI g 0x4 rd ra imm)
  | .rShli p g rd ra n => some (p, g, encI g 0x5 rd ra (n.setWidth 11))
  | .rShri p g rd ra n => some (p, g, encI g 0x6 rd ra (n.setWidth 11))
  | .rSari p g rd ra n => some (p, g, encI g 0x7 rd ra (n.setWidth 11))
  | .rMovi p g rd imm => some (p, g, encMovi g rd imm)
  | .rMovhi p g rd imm => some (p, g, encMovhi g rd imm)
  | .rCmp p g pd acc cond ra rb => some (p, g, encC g pd acc cond ra rb)
  | .rCmpi p g pd acc cond ra imm => some (p, g, encCI g pd acc cond ra imm)
  | .rAddx p g rd ra rb pci pd => some (p, g, encX g 0x0 rd ra rb pci pd)
  | .rSubx p g rd ra rb pci pd => some (p, g, encX g 0x1 rd ra rb pci pd)
  | .rMul p g rd ra rb => some (p, g, encR g 0x09 0x0 rd ra rb)
  | .rMulhs p g rd ra rb => some (p, g, encR g 0x09 0x1 rd ra rb)
  | .rMulhu p g rd ra rb => some (p, g, encR g 0x09 0x2 rd ra rb)
  | .rDiv p g rd ra rb => some (p, g, encR g 0x09 0x4 rd ra rb)
  | .rDivu p g rd ra rb => some (p, g, encR g 0x09 0x5 rd ra rb)
  | .rRem p g rd ra rb => some (p, g, encR g 0x09 0x6 rd ra rb)
  | .rRemu p g rd ra rb => some (p, g, encR g 0x09 0x7 rd ra rb)
  | .rLd p g rd ra size sx off _ => some (p, g, encL g 0x0A rd ra size sx off)
  | .rSt p g rs ra size off => some (p, g, encL g 0x0B rs ra size false off)
  | .rPush p g rs => some (p, g, encS g 0x0 rs)
  | .rPop p g rd _ => some (p, g, encS g 0x1 rd)
  | .rIld p g rd ra off => some (p, g, encW g 0x0D rd ra off)
  | .rIst p g rs ra off => some (p, g, encW g 0x0E rs ra off)
  | .rIn p g rd ra ind io => some (p, g, encIO g 0x0 rd ra ind io)
  | .rOut p g rd ra ind io => some (p, g, encIO g 0x1 rd ra ind io)
  | .rBr p g ra ind target => some (p, g, encB g 0x10 ra ind target)
  | .rCall p g ra ind target => some (p, g, encB g 0x11 ra ind target)
  | .rNop p g => some (p, g, encK g 0x0 0 false 0)
  | .rRet p g => some (p, g, encK g 0x1 0 false 0)
  | .rRett p g => some (p, g, encK g 0x2 0 false 0)
  | .rYield p g => some (p, g, encK g 0x3 0 false 0)
  | .rWaitev p g ra all => some (p, g, encK g 0x4 ra all 0)
  | .rSwt p g code => some (p, g, encK g 0x5 0 false code)
  | .rMac p g acn ra rb => some (p, g, encA g 0x13 0x0 acn false ra rb 0)
  | .rMsu p g acn ra rb => some (p, g, encA g 0x13 0x1 acn false ra rb 0)
  | .rMpy p g acn ra rb => some (p, g, encA g 0x13 0x2 acn false ra rb 0)
  | .rMacu p g acn ra rb => some (p, g, encA g 0x13 0x3 acn false ra rb 0)
  | .rClra p g acn => some (p, g, encA g 0x14 0x0 acn false 0 0 0)
  | .rAdda p g acn ra => some (p, g, encA g 0x14 0x1 acn false ra 0 0)
  | .rSuba p g acn ra => some (p, g, encA g 0x14 0x2 acn false ra 0 0)
  | .rMova p g acn acm => some (p, g, encA g 0x14 0x3 acn acm 0 0 0)
  | .rAddaa p g acn acm => some (p, g, encA g 0x14 0x4 acn acm 0 0 0)
  | .rNega p g acn => some (p, g, encA g 0x14 0x5 acn false 0 0 0)
  | .rShra p g acn k => some (p, g, encA g 0x14 0x6 acn false 0 0 k)
  | .rShla p g acn k => some (p, g, encA g 0x14 0x7 acn false 0 0 k)
  | .rExta p g acn ra k => some (p, g, encA g 0x14 0x8 acn false ra 0 k)
  | .rQput p g rd rq rs size => some (p, g, encQ g 0x0 rd rq rs size false)
  | .rQcommit p g rd rq => some (p, g, encQ g 0x1 rd rq 0 0 false)
  | .rQdrop p g rd rq => some (p, g, encQ g 0x2 rd rq 0 0 false)
  | .rQclaim p g rd rq nw => some (p, g, encQ g 0x3 rd rq 0 0 nw)
  | .rQget p g rd rq size => some (p, g, encQ g 0x4 rd rq 0 size false)
  | .rQend p g rd rq => some (p, g, encQ g 0x5 rd rq 0 0 false)
  | .rQmark p g rd rq => some (p, g, encQ g 0x6 rd rq 0 0 false)
  | .rQrew p g rd rq => some (p, g, encQ g 0x7 rd rq 0 0 false)
  | .rQrel p g rd rq => some (p, g, encQ g 0x8 rd rq 0 0 false)
  | .rQdepth p g rd rq => some (p, g, encQ g 0x9 rd rq 0 0 false)
  | _ => none

/-- The cycles of an instruction whose guard is false: 2 of a transfer of control, else 1 (R298, R301). -/
def skipCycles : Instr → Nat
  | .rBr .. => 2
  | .rCall .. => 2
  | .rRet .. => 2
  | .rRett .. => 2
  | _ => 1

/-- The state in which a correctable error of the word that port `p` executes has been corrected and counted (R312). -/
def met (s : State) (p : Nat) : State := modPort s p correctFetched

/-- The effect `u` of an instruction that took `n` cycles is followed by the next instruction in program order; past word 4095 there is none, and the engine traps (R290). -/
def advanced (s u : State) (p n : Nat) : State :=
  let q := portOf s p
  if q.eng.pc.toNat = 4095 then trapEntry (addCycles u p n) p 0x06 4096 4095
  else modEng (addCycles u p n) p fun e =>
    { e with pc := BitVec.ofNat 12 (q.eng.pc.toNat + 1), fetched := bankWord q (q.eng.pc.toNat + 1),
             mark := bankMark q (q.eng.pc.toNat + 1), wait := .no }

/-- The effect `u` of an instruction that took `n` cycles is followed by the instruction at `a`. -/
def transferred (u : State) (p n a : Nat) : State :=
  modPort (addCycles u p n) p fun q =>
    { q with eng := { q.eng with pc := BitVec.ofNat 12 a, fetched := bankWord q (a % 4096), mark := bankMark q (a % 4096), wait := .no } }

/-- An instruction that writes `x` to a register and sets the flags `f` has completed in `n` cycles. -/
def regWritten (s : State) (p : Nat) (rd : BitVec 4) (x : Word) (f : BitVec 5) (n : Nat) : State :=
  advanced s (setFlags (putReg (met s p) p rd x) p f) p n

/-- Flags `C`, `V` and `DZ` (R294). -/
def flagsOf (c v dz : Bool) : BitVec 5 := flagIf c flagC ||| flagIf v flagV ||| flagIf dz flagDZ

/-- Queue `n`, whose state is `q`, is attached to port `p`, which no reset of its partition has fenced; `w` names it (R352, R356). -/
def Attached (s : State) (p : Nat) (w : Word) (n : Nat) (q : Queue) : Prop :=
  (portOf s p).fencers.contains q.owner = false ∧ w.toNat = n ∧ n < 2 ^ 13 ∧ queueOf s n = some q ∧ q.port = some p

/-- The word that `n` bytes of the scratchpad of port `q` at `a` spell, low byte first. -/
def spadWord (q : Port) (a n : Nat) : Nat := leNat ((List.range n).map fun i => memRead q.spad (a + i))

/-! ## Manifest entries, in the terms that statements about them use -/

/-- Untimed voyage `v`, whose state is `x`, stands active before a fresh entry with words `w` that continues no chain; the pages that step 2 looks at are in the cache (R73). -/
def EntryStands (s : State) (v : Nat) (x : Voyage) (w : List Word) : Prop :=
  isRun s = true ∧ keysRise s.sch.voy ∧ voyOf s v = some x ∧ x.state = .active ∧ x.stage = .fresh ∧ x.timed = false ∧
    x.entry = x.ckEntry ∧ x.countedTo ≤ x.entry ∧ x.answer = none ∧ x.suspending = false ∧ x.halting = false ∧ x.saw = false ∧ x.chainK = 0 ∧
    entryWords s x x.entry = some w ∧ (lookAhead s x).2 = none

/-- The entry begins no chain, passes the checks of step 2, is not skipped, does not pause, and names nothing that its partition does not own. -/
def EntryRuns (s : State) (v : Nat) (x : Voyage) (w : List Word) : Prop :=
  EntryStands s v x w ∧ entryFormat s x w = none ∧ (condOf w).testBit x.cond.toNat = true ∧ fPause w = false ∧
    fSpan w = false ∧ ownFail s x w = none

/-- The row of the command table under which voyage `v` executes an entry. -/
def entryRowOf (v : Fin 4096) (w : List Word) : Instr :=
  match opOf w with
  | 0x00 => .mNop v | 0x01 => .mRead v | 0x02 => .mWrite v | 0x03 => .mControl v | 0x04 => .mSense v | 0x05 => .mJump v
  | 0x06 => .mWait v | 0x07 => .mTest v | 0x08 => .mSetv v | 0x09 => .mAddv v | 0x0A => .mInvoke v | 0x0B => .mBarge v
  | 0x0C => .mForward v
  | 0x0D => match fieldOf (wd w 5) 0 3 with
    | 1 => .mQueueRewind v | 2 => .mQueueRelease v | 3 => .mQueueDepth v | 4 => .mQueueBytes v | _ => .mQueueMark v
  | 0x0E => .mPostv v | 0x0F => .mSignal v | 0x10 => .mAuth v | 0x11 => .mEndpoint v | 0x1F => .mEnd v
  | _ => .mReserved v

/-- The entry asks for no record and no pulse, and the manifest goes on after it. -/
def quiet (w : List Word) : Prop := fOnward w = true ∧ fPost w = false ∧ fEvt w = false

/-- Voyage `v`, which was `x`, stands before entry `n` with its checkpoint there, the registers `regs` and the condition `c`, and still holds its slot unless the manifest page of that entry is missing. -/
def GoesTo (t : State) (v : Nat) (x : Voyage) (n : Nat) (regs : Tab Word) (c : BitVec 2) : Prop :=
  ∃ y, voyOf t v = some y ∧ y.part = x.part ∧ y.entry = n ∧ y.ckEntry = n ∧ y.regs = regs ∧ y.ckRegs = regs ∧ y.cond = c ∧
    y.ckCond = c ∧ y.stage = .fresh ∧ y.reached = x.reached + 1 ∧ y.effect = false ∧ y.chainK = 0 ∧
    (y.state = .active ∧ y.slot = x.slot ∨ y.state = .parked ∧ y.park = .miss (pageOf (entryAddr x n)) ∧ y.slot = none)

/-- The voyage stands at a break point of the transfer of its entry, whose words are `w`, in no chain (R132). -/
def AtBreak (s : State) (v : Nat) (x : Voyage) (w : List Word) : Prop :=
  isRun s = true ∧ keysRise s.sch.voy ∧ voyOf s v = some x ∧ x.state = .active ∧ x.stage = .woken ∧ x.timed = false ∧
    x.halting = false ∧ x.suspending = false ∧ x.answer = none ∧ x.cur = w ∧ x.first = w ∧ x.chainK = 0 ∧ fSpan w = false

/-- The voyage stands at byte `b` of the transfer of its entry: before the entry, or at a break point of it. -/
def MovesFrom (s : State) (v : Nat) (x : Voyage) (w : List Word) (b : Nat) : Prop :=
  quiet w ∧ ((EntryRuns s v x w ∧ x.path = none ∧ x.gather = [] ∧ b = 0) ∨ (AtBreak s v x w ∧ x.burst = b ∧ 0 < b))

/-- What the entry's transfer from memory meets at partition address `a`, of `n` bytes of the entry, for a burst of `m` bytes: a window that passes the tests of R72, no bank in retention, and no byte that is lost (R222). -/
def MemoryReads (s : State) (x : Voyage) (a n m : Nat) (win : Window) : Prop :=
  windowFail s x.part a n .read = none ∧ windowAt s x.part a = some win ∧ asleepAt s x.part a = none ∧
    ∀ i, i < m → lostByte s win (a + i) = false

/-- What the entry's transfer to memory meets at partition address `a`. -/
def MemoryWrites (s : State) (x : Voyage) (a n : Nat) (win : Window) : Prop :=
  windowFail s x.part a n .write = none ∧ windowAt s x.part a = some win ∧ asleepAt s x.part a = none

/-- The `m` bytes of memory at partition address `a`. -/
def memoryBytes (s : State) (win : Window) (a m : Nat) : List Byte := (List.range m).map fun i => byteAt s win (a + i)

/-- The cells of packet `k` hold no error, and are as many as its bytes need. -/
def Sound (s : State) (k : Packet) : Prop :=
  (∀ c, c ∈ k.cells → c ∉ s.deck.bad ∧ (∀ j, j ∈ s.deck.soft → j / 8 ≠ c) ∧ c ∉ s.deck.quar) ∧ k.cells.length = (k.len + 63) / 64

/-- No packet is under production in queue `n`, whose state is `q`, and no producer is stalled on it. -/
def NoneBuilds (s : State) (n : Nat) (q : Queue) : Prop :=
  queueOf s n = some q ∧ q.building = [] ∧ ∀ y, y ∈ s.deck.stalls → y.queue ≠ n

/-- The host memory and the general banks are as they were. -/
def HostAndBanksKept (s t : State) : Prop := t.hostMem = s.hostMem ∧ t.bankMem = s.bankMem

/-- A burst has brought the transfer of `n` bytes to byte `b`: the voyage stands at the break point there, or has gone on to the next entry with the condition `c`. -/
def MovedTo (t : State) (v : Nat) (x : Voyage) (w : List Word) (b n : Nat) (regs : Tab Word) (c : BitVec 2) : Prop :=
  ∃ y, voyOf t v = some y ∧
    (b < n → y.state = .active ∧ y.stage = .woken ∧ y.cur = w ∧ y.burst = b ∧ y.entry = x.entry ∧ y.regs = regs ∧ y.cond = x.cond) ∧
    (n ≤ b → y.stage = .fresh ∧ y.entry = x.entry + 1 ∧ y.regs = regs ∧ y.cond = c)

/-- Voyage `v`, which was `x`, has parked in the entry before which it stood, for `why`, and holds no slot; the deadline follows `TMO` (R68, R136). -/
def Waits (s t : State) (v : Nat) (x : Voyage) (w : List Word) (why : Park) : Prop :=
  ∃ y, voyOf t v = some y ∧ y.state = .parked ∧ y.park = why ∧ y.stage = .waiting ∧ y.slot = none ∧ y.entry = x.entry ∧
    y.cur = w ∧ y.regs = x.regs ∧ (tmoOf w ≠ 0 → x.deadline = none → y.deadline = some (s.tb.time + 10000 * tmoOf w))

/-- Every memory of the device is as it was: the deck, the general banks, the flash, the ports with their scratchpads, and host memory. -/
def MemoriesKept (s t : State) : Prop :=
  t.deck.mem = s.deck.mem ∧ t.bankMem = s.bankMem ∧ t.hostMem = s.hostMem ∧ t.fw = s.fw ∧ t.port = s.port

/-- Completion ring `m` of partition `p` has room for an untimed record, and takes `r` as its next (R168, R172). -/
def Publishes (s t : State) (p m : Nat) (r : BitVec 128) : Prop :=
  ∃ c, cqOf s p m = some c ∧ c.fault = false ∧ occupancy c < c.size ∧
    cqOf t p m = some { c with p := c.p + 1, unwritten := c.unwritten ++ [(c.p, r)], cnt := bump c.cnt 0 }

/-- No earlier record of voyage `v`, which is `x`, waits for a landing, behind such a record, or for room (R107, R122, R170). -/
def NothingOwed (s : State) (v : Nat) (x : Voyage) : Prop :=
  x.heldRecs = [] ∧ (∀ y, y ∈ s.sch.following → y.1 ≠ v) ∧ (∀ y, y ∈ s.sch.notAdmitted → y.vid ≠ v) ∧
    ∀ m c, x.cring = some m → cqOf s x.part m = some c → ∀ r, r ∈ c.late → recordVid r ≠ v

/-- The completion ring of the voyage exists, is not faulted and has room, and no earlier record of the voyage waits (R107). -/
def RingHasRoom (s : State) (v : Nat) (x : Voyage) (m : Nat) : Prop :=
  NothingOwed s v x ∧ x.cring = some m ∧ ∃ c, cqOf s x.part m = some c ∧ c.fault = false ∧ occupancy c < c.size

/-- The record of an untimed voyage: `TAG`, residual, status, extended status, entry, voyage ID and LSN (R110). -/
def recordOf (tag : Word) (residual status ext entry vid : Nat) (value : Bool) (x : Voyage) (lsn : Nat) : BitVec 128 :=
  BitVec.ofNat 128 (tag.toNat + residual % 2 ^ 32 * 2 ^ 32 + status * 2 ^ 64 + ext * 2 ^ 72 + entry % 2 ^ 16 * 2 ^ 80 + vid * 2 ^ 96
    + (if x.demoted then 2 ^ 108 else 0) + (if x.repeated then 2 ^ 109 else 0) + (if x.late then 2 ^ 110 else 0)
    + (if value then 2 ^ 111 else 0) + lsn % 2 ^ 16 * 2 ^ 112)

/-- Voyage `v`, which was `x` in state `s`, has ended: its context is free, or Ending while earlier records of it wait (R115, R119). -/
def HasEnded (s t : State) (v : Nat) (x : Voyage) : Prop :=
  (NothingOwed s v x → voyOf t v = none) ∧ (¬ NothingOwed s v x → ∃ y, voyOf t v = some y ∧ y.state = .ending)

/-- Voyage `v` has ended, and the record of its end is published. -/
def EndsWith (s t : State) (v m : Nat) (x : Voyage) (tag : Word) (residual status ext : Nat) : Prop :=
  HasEnded s t v x ∧ Publishes s t x.part m (recordOf tag residual status ext x.entry v false x s.tb.lsn)

/-! ## Commands of the control interface, in the terms that statements about them use -/

/-- Firmware, running, has taken up command `op` of door `d`, which acts for partition `p` (R11, R189, R190), in the session that the door still has. -/
def Holds (s : State) (d : Door) (op p : Nat) : Prop :=
  isRun s = true ∧ s.fw.running = true ∧ (s.fw.current = some (doorNo d) ∨ doorNo d ∈ s.fw.long) ∧
    (mbxOf s (doorNo d)).state = .busy ∧ (∃ l, (mbxOf s (doorNo d)).taken = some (l, (mbxOf s (doorNo d)).version)) ∧
    reqOp s (doorNo d) = op ∧ doorPart s (doorNo d) = some p

/-- Firmware holds command `op` of door `d`, whose header has 0 in `RESULT` and in bits [23:22] of its second word (R181), and whose words beyond the command's layout are 0 (R10). -/
def Serves (s : State) (d : Door) (op p : Nat) : Prop :=
  Holds s d op p ∧ fieldOf (reqWord s (doorNo d) 1) 22 10 = 0 ∧ wordBeyond s (doorNo d) = none

/-- The command has the effect `u`, and is answered with a result and a payload. -/
def Answers (o : Host.Outcome State Fault Refusal) (u : State) (d : Door) (result : Nat) (l : List Word) : Prop :=
  ∃ t, o = .next t ∧ Concluded (respond u (doorNo d) result l) t

/-- A logged command commits its effect `u` together with its record (R186, R497), and answers OK. -/
def Commits (o : Host.Outcome State Fault Refusal) (s u : State) (d : Door) (l : List Word) : Prop :=
  Answers o (logNormal u (commandRecord s (doorNo d))) d 0x00 l

/-- The command is refused with a result and has no effect (R185). -/
def Refuses (o : Host.Outcome State Fault Refusal) (s : State) (d : Door) (result : Nat) : Prop := Answers o s d result []

end Sys2Proof.Machine
end

