-- ==== Sys2Proof/Certificates/Slice0/Obligations.lean ====
section
/-!
DEFINITION. The statements: what the specification's rules say of the machine, family by family.
The rules named before a statement are those it draws on; it states of them what the text after the colon says, and what rests on a
choice of the model names the row of the assumption log.
-/
open Sys2Proof Sys2Proof.Machine
/-! ## Port engines: arithmetic (11_rorid_instructions.md) -/

/-- R326 to R331: the register operations of major 0x01, the unary operations of major 0x02, the immediate operations of major 0x03, MOVI and MOVHI, each with its result, flags and cycle; every other part of the state is as it was, but for a corrected error of the instruction's word. -/
def Obligations.RoridIntegerOperations : Prop :=
  (∀ (s : State) (p : Fin 96) (g : Guard) (rd ra rb : BitVec 4),
     let a := readReg (portOf s p) ra
     let b := readReg (portOf s p) rb
     let n := b.toNat % 64
     let does (i : Instr) (minor : Nat) (x : Word) (f : BitVec 5) : Prop :=
       Executes s p g (encR g 0x01 minor rd ra rb) → exec i s = .next (regWritten s p rd x f 1)
     does (.rAdd p g rd ra rb) 0 (BitVec.ofNat 32 (a.toNat + b.toNat))
         (flagsOf (2 ^ 32 ≤ a.toNat + b.toNat) (a.toInt + b.toInt < -2 ^ 31 ∨ 2 ^ 31 - 1 < a.toInt + b.toInt) false) ∧
       does (.rSub p g rd ra rb) 1 (BitVec.ofInt 32 (a.toNat - b.toNat))
         (flagsOf (a.toNat < b.toNat) (a.toInt - b.toInt < -2 ^ 31 ∨ 2 ^ 31 - 1 < a.toInt - b.toInt) false) ∧
       does (.rAnd p g rd ra rb) 2 (a &&& b) 0 ∧
       does (.rOr p g rd ra rb) 3 (a ||| b) 0 ∧
       does (.rXor p g rd ra rb) 4 (a ^^^ b) 0 ∧
       does (.rAndn p g rd ra rb) 5 (a &&& ~~~ b) 0 ∧
       does (.rShl p g rd ra rb) 6 (if n < 32 then BitVec.ofNat 32 (a.toNat * 2 ^ n) else 0) 0 ∧
       does (.rShr p g rd ra rb) 7 (if n < 32 then BitVec.ofNat 32 (a.toNat / 2 ^ n) else 0) 0 ∧
       does (.rSar p g rd ra rb) 8
         (if n < 32 then BitVec.ofInt 32 (a.toInt / 2 ^ n) else if a.getLsbD 31 then 0xFFFFFFFF else 0) 0 ∧
       does (.rRol p g rd ra rb) 9 (a.rotateLeft (n % 32)) 0 ∧
       does (.rRor p g rd ra rb) 0xA (a.rotateRight (n % 32)) 0) ∧
  (∀ (s : State) (p : Fin 96) (g : Guard) (rd ra : BitVec 4),
     let a := readReg (portOf s p) ra
     let does (i : Instr) (minor : Nat) (x : Word) (f : BitVec 5) : Prop :=
       Executes s p g (encU g minor rd ra) → exec i s = .next (regWritten s p rd x f 1)
     does (.rMov p g rd ra) 0 a 0 ∧
       does (.rNeg p g rd ra) 1 (0 - a) (flagsOf false (a = 0x80000000) false) ∧
       does (.rNot p g rd ra) 2 (~~~ a) 0 ∧
       does (.rAbs p g rd ra) 3 (if 0 ≤ a.toInt then a else 0 - a) (flagsOf false (a = 0x80000000) false) ∧
       does (.rSxb p g rd ra) 4 ((a.extractLsb 7 0).signExtend 32) 0 ∧
       does (.rSxh p g rd ra) 5 ((a.extractLsb 15 0).signExtend 32) 0 ∧
       does (.rZxb p g rd ra) 6 ((a.extractLsb 7 0).zeroExtend 32) 0 ∧
       does (.rZxh p g rd ra) 7 ((a.extractLsb 15 0).zeroExtend 32) 0 ∧
       (Executes s p g (encU g 8 rd ra) →
         ∃ k, k ≤ 32 ∧ (∀ j, 32 - k ≤ j → a.getLsbD j = false) ∧ (k < 32 → a.getLsbD (31 - k) = true) ∧
           exec (.rClz p g rd ra) s = .next (regWritten s p rd (BitVec.ofNat 32 k) 0 1))) ∧
  (∀ (s : State) (p : Fin 96) (g : Guard) (rd ra : BitVec 4) (imm : BitVec 11) (n : BitVec 6) (m18 : BitVec 18) (m16 : BitVec 16),
     let a := readReg (portOf s p) ra
     let old := readReg (portOf s p) rd
     let x := imm.toInt
     let u := BitVec.ofNat 32 imm.toNat
     let k := n.toNat
     let does (i : Instr) (w : Word) (x : Word) (f : BitVec 5) : Prop :=
       Executes s p g w → exec i s = .next (regWritten s p rd x f 1)
     does (.rAddi p g rd ra imm) (encI g 0 rd ra imm) (BitVec.ofInt 32 (a.toInt + x))
         (flagsOf (2 ^ 32 ≤ a.toNat + (BitVec.ofInt 32 x).toNat) (a.toInt + x < -2 ^ 31 ∨ 2 ^ 31 - 1 < a.toInt + x) false) ∧
       does (.rSubi p g rd ra imm) (encI g 1 rd ra imm) (BitVec.ofInt 32 (a.toInt - x))
         (flagsOf (a.toNat < (BitVec.ofInt 32 x).toNat) (a.toInt - x < -2 ^ 31 ∨ 2 ^ 31 - 1 < a.toInt - x) false) ∧
       does (.rAndi p g rd ra imm) (encI g 2 rd ra imm) (a &&& u) 0 ∧
       does (.rOri p g rd ra imm) (encI g 3 rd ra imm) (a ||| u) 0 ∧
       does (.rXori p g rd ra imm) (encI g 4 rd ra imm) (a ^^^ u) 0 ∧
       does (.rShli p g rd ra n) (encI g 5 rd ra (n.setWidth 11)) (if k < 32 then BitVec.ofNat 32 (a.toNat * 2 ^ k) else 0) 0 ∧
       does (.rShri p g rd ra n) (encI g 6 rd ra (n.setWidth 11)) (if k < 32 then BitVec.ofNat 32 (a.toNat / 2 ^ k) else 0) 0 ∧
       does (.rSari p g rd ra n) (encI g 7 rd ra (n.setWidth 11))
         (if k < 32 then BitVec.ofInt 32 (a.toInt / 2 ^ k) else if a.getLsbD 31 then 0xFFFFFFFF else 0) 0 ∧
       does (.rMovi p g rd m18) (encMovi g rd m18) (BitVec.ofInt 32 m18.toInt) 0 ∧
       does (.rMovhi p g rd m16) (encMovhi g rd m16) (BitVec.ofNat 32 (m16.toNat * 2 ^ 16 + old.toNat % 2 ^ 16)) 0)

/-- R332, R333: the products take 2 cycles and the divisions 34, division by zero and by −1 included; no division traps. -/
def Obligations.RoridMultiplyDivide : Prop :=
  ∀ (s : State) (p : Fin 96) (g : Guard) (rd ra rb : BitVec 4),
    let a := readReg (portOf s p) ra
    let b := readReg (portOf s p) rb
    let does (i : Instr) (minor : Nat) (x : Word) (f : BitVec 5) (n : Nat) : Prop :=
      Executes s p g (encR g 0x09 minor rd ra rb) → exec i s = .next (regWritten s p rd x f n)
    does (.rMul p g rd ra rb) 0 (BitVec.ofNat 32 (a.toNat * b.toNat))
        (flagsOf false (a.toInt * b.toInt < -2 ^ 31 ∨ 2 ^ 31 - 1 < a.toInt * b.toInt) false) 2 ∧
      does (.rMulhs p g rd ra rb) 1 (BitVec.ofInt 32 (a.toInt * b.toInt / 2 ^ 32)) 0 2 ∧
      does (.rMulhu p g rd ra rb) 2 (BitVec.ofNat 32 (a.toNat * b.toNat / 2 ^ 32)) 0 2 ∧
      does (.rDiv p g rd ra rb) 4
        (if b = 0 then (if 0 ≤ a.toInt then 0x7FFFFFFF else 0x80000000)
          else if a = 0x80000000 ∧ b = 0xFFFFFFFF then 0x80000000 else BitVec.ofInt 32 (a.toInt.tdiv b.toInt))
        (flagsOf false (a = 0x80000000 ∧ b = 0xFFFFFFFF) (b = 0)) 34 ∧
      does (.rDivu p g rd ra rb) 5 (if b = 0 then 0xFFFFFFFF else BitVec.ofNat 32 (a.toNat / b.toNat))
        (flagsOf false false (b = 0)) 34 ∧
      does (.rRem p g rd ra rb) 6
        (if b = 0 then a else if a = 0x80000000 ∧ b = 0xFFFFFFFF then 0
          else BitVec.ofInt 32 (a.toInt - a.toInt.tdiv b.toInt * b.toInt))
        (flagsOf false (a = 0x80000000 ∧ b = 0xFFFFFFFF) (b = 0)) 34 ∧
      does (.rRemu p g rd ra rb) 7 (if b = 0 then a else BitVec.ofNat 32 (a.toNat % b.toNat)) (flagsOf false false (b = 0)) 34

/-- R298, R300, R334, R335, R336: the compares write one predicate by the condition and `ACC`; ADDX and SUBX also write a register and the carry or borrow; one that names P0 traps where its guard is true, and is skipped where it is false. What the rules leave open is taken as the assumption log says (27). -/
def Obligations.RoridComparesAndCarries : Prop :=
  ∀ (s : State) (p : Fin 96) (g : Guard) (rd ra rb : BitVec 4) (cond : BitVec 4) (acc : BitVec 2) (pd pci : BitVec 3) (imm : BitVec 9),
    let q := portOf s p
    let a := readReg q ra
    let holds (b : Word) : Bool :=
      match cond.toNat with
      | 0 => a = b | 1 => a ≠ b | 2 => a.toInt < b.toInt | 3 => b.toInt ≤ a.toInt | 4 => a.toInt ≤ b.toInt | 5 => b.toInt < a.toInt
      | 6 => a.toNat < b.toNat | 7 => b.toNat ≤ a.toNat | 8 => a.toNat ≤ b.toNat | 9 => b.toNat < a.toNat
      | 10 => a &&& b = 0 | _ => a &&& b ≠ 0
    let old := predOf q.eng pd.toNat
    let new (t : Bool) : Bool := match acc.toNat with | 0 => t | 1 => old && t | _ => old || t
    let cin : Nat := if pci = 0 then 0 else if predOf q.eng pci.toNat then 1 else 0
    let b := readReg q rb
    let compared (i : Instr) (w : Word) (t : Bool) : Prop :=
      Executes s p g w → exec i s = .next (advanced s (modEng (met s p) p fun e => setPred e pd.toNat (new t)) p 1)
    let carried (i : Instr) (w : Word) (x : Word) (f : BitVec 5) (c : Bool) : Prop :=
      Executes s p g w →
        exec i s = .next (advanced s (modEng (setFlags (putReg (met s p) p rd x) p f) p fun e => setPred e pd.toNat c) p 1)
    let refused (i : Instr) (w : Word) : Prop :=
      engineAt s p w = true → q.eng.mark ≠ .bad → roridLegal (imageModeC q) w = true → namesP0 w = true →
        (guardTrue q.eng g = true → exec i s = .next (trapEntry (met s p) p 0x01 w q.eng.pc.toNat)) ∧
        (guardTrue q.eng g = false → exec i s = .next (advanced s (met s p) p 1))
    refused (.rCmp p g pd acc cond ra rb) (encC g pd acc cond ra rb) ∧ refused (.rCmpi p g pd acc cond ra imm) (encCI g pd acc cond ra imm) ∧
      refused (.rAddx p g rd ra rb pci pd) (encX g 0 rd ra rb pci pd) ∧ refused (.rSubx p g rd ra rb pci pd) (encX g 1 rd ra rb pci pd) ∧
      compared (.rCmp p g pd acc cond ra rb) (encC g pd acc cond ra rb) (holds (readReg q rb)) ∧
      compared (.rCmpi p g pd acc cond ra imm) (encCI g pd acc cond ra imm)
        (holds (if cond.toNat < 6 then BitVec.ofInt 32 imm.toInt else BitVec.ofNat 32 imm.toNat)) ∧
      carried (.rAddx p g rd ra rb pci pd) (encX g 0 rd ra rb pci pd) (BitVec.ofNat 32 (a.toNat + b.toNat + cin))
        (flagsOf (2 ^ 32 ≤ a.toNat + b.toNat + cin)
          (a.toInt + b.toInt + cin < -2 ^ 31 ∨ 2 ^ 31 - 1 < a.toInt + b.toInt + cin) false)
        (2 ^ 32 ≤ a.toNat + b.toNat + cin) ∧
      carried (.rSubx p g rd ra rb pci pd) (encX g 1 rd ra rb pci pd) (BitVec.ofInt 32 (a.toNat - b.toNat - cin))
        (flagsOf (a.toNat < b.toNat + cin)
          (a.toInt - b.toInt - cin < -2 ^ 31 ∨ 2 ^ 31 - 1 < a.toInt - b.toInt - cin) false)
        (a.toNat < b.toNat + cin)

/-- R347 to R350: the accumulator instructions; an exact result that does not fit in 40 bits sets `AOV`, is saturated where the image's `SAT` says so, and traps after the instruction where `AOV_TRAP` says so. That at word 4095 the trap of leaving the image (R290) comes in its place is the model's choice (log 26). -/
def Obligations.RoridAccumulators : Prop :=
  ∀ (s : State) (p : Fin 96) (g : Guard) (acn acm : Bool) (ra rb : BitVec 4) (k : BitVec 6),
    let q := portOf s p
    let a := readReg q ra
    let b := readReg q rb
    let ac (n : Bool) : Int := (if n then q.eng.ac1 else q.eng.ac0).toInt
    let sat := imageSat q
    let u := met s p
    let fits (x : Int) : Prop := -2 ^ 39 ≤ x ∧ x ≤ 2 ^ 39 - 1
    let formed (i : Instr) (w : Word) (x : Int) : Prop :=
      Executes s p g w →
        (fits x → exec i s = .next (advanced s (putAcc u p acn (BitVec.ofInt 40 x)) p 1)) ∧
        (¬ fits x →
          let v := if sat then (if 0 < x then 0x7FFFFFFFFF else 0x8000000000) else BitVec.ofInt 40 x
          let t := setFlags (putAcc u p acn v) p flagAOV
          exec i s = .next (if imageAovTrap q = true ∧ q.eng.pc.toNat ≠ 4095 then
            trapEntry (addCycles t p 1) p 0x07 w (q.eng.pc.toNat + 1) else advanced s t p 1))
    formed (.rMac p g acn ra rb) (encA g 0x13 0 acn false ra rb 0) (ac acn + a.toInt * b.toInt) ∧
      formed (.rMsu p g acn ra rb) (encA g 0x13 1 acn false ra rb 0) (ac acn - a.toInt * b.toInt) ∧
      formed (.rMpy p g acn ra rb) (encA g 0x13 2 acn false ra rb 0) (a.toInt * b.toInt) ∧
      formed (.rMacu p g acn ra rb) (encA g 0x13 3 acn false ra rb 0) (ac acn + a.toNat * b.toNat) ∧
      formed (.rAdda p g acn ra) (encA g 0x14 1 acn false ra 0 0) (ac acn + a.toInt) ∧
      formed (.rSuba p g acn ra) (encA g 0x14 2 acn false ra 0 0) (ac acn - a.toInt) ∧
      formed (.rAddaa p g acn acm) (encA g 0x14 4 acn acm 0 0 0) (ac acn + ac acm) ∧
      formed (.rNega p g acn) (encA g 0x14 5 acn false 0 0 0) (- ac acn) ∧
      formed (.rShla p g acn k) (encA g 0x14 7 acn false 0 0 k) (ac acn * 2 ^ k.toNat) ∧
      (Executes s p g (encA g 0x14 0 acn false 0 0 0) → exec (.rClra p g acn) s = .next (advanced s (putAcc u p acn 0) p 1)) ∧
      (Executes s p g (encA g 0x14 3 acn acm 0 0 0) →
        exec (.rMova p g acn acm) s = .next (advanced s (putAcc u p acn (if acm then q.eng.ac1 else q.eng.ac0)) p 1)) ∧
      (Executes s p g (encA g 0x14 6 acn false 0 0 k) →
        exec (.rShra p g acn k) s = .next (advanced s (putAcc u p acn (BitVec.ofInt 40 (ac acn / 2 ^ k.toNat))) p 1)) ∧
      (Executes s p g (encA g 0x14 8 acn false ra 0 k) →
        let y := ac acn / 2 ^ k.toNat
        exec (.rExta p g acn ra k) s =
          .next (regWritten s p ra (if 2 ^ 31 - 1 < y then 0x7FFFFFFF else if y < -2 ^ 31 then 0x80000000 else BitVec.ofInt 32 y)
            (flagsOf false (2 ^ 31 - 1 < y ∨ y < -2 ^ 31) false) 1))

/-- R291, R305, R312, R313, R337 to R340, R542, R544: LD, ST, ILD, IST, PUSH and POP: an address outside the memory or not aligned traps with the address in `TVAL` and no effect, and PUSH and POP past `STACK_LIMIT` or `STACK_TOP` trap with the pointer there; otherwise bytes lie low first, PUSH stores below the pointer and POP loads at it, and a correctable error of the word is corrected and counted on the way. Where side B wrote the word in the same cycle, LD's bytes are undefined and `COL` is set. What the rules leave open is taken as the assumption log says (1, 26 and 30). -/
def Obligations.RoridMemoryAndStack : Prop :=
  (∀ (s : State) (p : Fin 96) (g : Guard) (rd ra : BitVec 4) (size : BitVec 2) (sx : Bool) (off : BitVec 11) (off12 : BitVec 12),
     let q := portOf s p
     let pc := q.eng.pc.toNat
     let n := if size = 0 then 1 else if size = 1 then 2 else 4
     let a := BitVec.ofInt 32 ((readReg q ra).toNat + off.toInt)
     let b := BitVec.ofInt 32 ((readReg q ra).toNat + off12.toInt)
     let wrong := 0x7FFF < a.toNat ∨ a.toNat % n ≠ 0
     let u := correctSpad (met s p) p (a.toNat / 4)
     let extended (x : Nat) : Word :=
       if sx ∧ size = 0 then (BitVec.ofNat 8 x).signExtend 32 else if sx ∧ size = 1 then (BitVec.ofNat 16 x).signExtend 32 else BitVec.ofNat 32 x
     (Executes s p g (encL g 0x0A rd ra size sx off) →
       (wrong → ∀ m, exec (.rLd p g rd ra size sx off m) s = .next (trapEntry (met s p) p 0x05 a pc)) ∧
       (¬ wrong → q.spadBad.contains (a.toNat / 4) = false →
         exec (.rLd p g rd ra size sx off false) s = .next (advanced s (putReg u p rd (extended (spadWord q a.toNat n))) p 2)) ∧
       (¬ wrong → exec (.rLd p g rd ra size sx off true) s =
         .next (advanced s (putReg (setFlags (drawn (met s p)) p flagCOL) p rd (extended ((freeOf s).toNat % 2 ^ (8 * n)))) p 2))) ∧
     (Executes s p g (encL g 0x0B rd ra size false off) →
       (wrong → exec (.rSt p g rd ra size off) s = .next (trapEntry (met s p) p 0x05 a pc)) ∧
       (¬ wrong → (n = 4 ∨ q.spadBad.contains (a.toNat / 4) = false) →
         exec (.rSt p g rd ra size off) s = .next (advanced s (modPort u p fun x =>
           { x with spad := memPut x.spad a.toNat (leBytes n (readReg q rd).toNat)
                    spadBad := x.spadBad.filter (· != a.toNat / 4) }) p 1))) ∧
     (Executes s p g (encW g 0x0D rd ra off12) →
       (4095 < b.toNat → exec (.rIld p g rd ra off12) s = .next (trapEntry (met s p) p 0x06 b pc)) ∧
       (b.toNat ≤ 4095 → (activeBank q).bad.contains b.toNat = false →
         exec (.rIld p g rd ra off12) s = .next (advanced s (putReg
           (if (activeBank (portOf (met s p) p)).soft.contains b.toNat then modPort (met s p) p (correctBank · b.toNat) else met s p)
           p rd (bankWord q b.toNat)) p 2))) ∧
     (Executes s p g (encW g 0x0E rd ra off12) →
       (imageIstEn q = false →
         exec (.rIst p g rd ra off12) s = .next (trapEntry (met s p) p 0x01 (encW g 0x0E rd ra off12) pc)) ∧
       (imageIstEn q = true → 4095 < b.toNat → exec (.rIst p g rd ra off12) s = .next (trapEntry (met s p) p 0x06 b pc)) ∧
       (imageIstEn q = true → b.toNat ≤ 4095 →
         exec (.rIst p g rd ra off12) s = .next (advanced s (modPort (met s p) p fun x => modActive x fun k =>
           { k with words := tPut k.words b.toNat (readReg q rd), bad := k.bad.filter (· != b.toNat)
                    soft := k.soft.filter (· != b.toNat) }) p 1)))) ∧
  (∀ (s : State) (p : Fin 96) (g : Guard) (r : BitVec 4),
     let q := portOf s p
     let pc := q.eng.pc.toNat
     let c : BitVec 4 := if imageModeC q then 11 else 15
     let sp := (readReg q c).toNat
     let low := fieldOf (imageHdr q 5) 16 16
     let top := fieldOf (imageHdr q 5) 0 16
     (Executes s p g (encS g 0 r) →
       (sp < low + 4 → exec (.rPush p g r) s = .next (trapEntry (met s p) p 0x04 (readReg q c) pc)) ∧
       (low + 4 ≤ sp → (0x7FFF < sp - 4 ∨ sp % 4 ≠ 0) →
         exec (.rPush p g r) s = .next (trapEntry (met s p) p 0x05 (BitVec.ofNat 32 (sp - 4)) pc)) ∧
       (low + 4 ≤ sp → sp - 4 ≤ 0x7FFF → sp % 4 = 0 →
         exec (.rPush p g r) s = .next (advanced s (putReg (modPort (correctSpad (met s p) p ((sp - 4) / 4)) p fun x =>
           { x with spad := memPut x.spad (sp - 4) (leBytes 4 (readReg q r).toNat)
                    spadBad := x.spadBad.filter (· != (sp - 4) / 4) }) p c (BitVec.ofNat 32 (sp - 4))) p 1))) ∧
     (Executes s p g (encS g 1 r) →
       (top < sp + 4 → ∀ m, exec (.rPop p g r m) s = .next (trapEntry (met s p) p 0x04 (readReg q c) pc)) ∧
       (sp + 4 ≤ top → (0x7FFF < sp ∨ sp % 4 ≠ 0) → ∀ m, exec (.rPop p g r m) s = .next (trapEntry (met s p) p 0x05 (readReg q c) pc)) ∧
       (sp + 4 ≤ top → sp ≤ 0x7FFF → sp % 4 = 0 → q.spadBad.contains (sp / 4) = false →
         exec (.rPop p g r false) s = .next (advanced s
           (putReg (putReg (correctSpad (met s p) p (sp / 4)) p c (BitVec.ofNat 32 (sp + 4))) p r (BitVec.ofNat 32 (spadWord q sp 4))) p 2))))

/-- R302, R306, R308, R310, R342, R343, R346: NOP and YIELD go on; BR, CALL, RET and RETT transfer control in 2 cycles, CALL stacking the next address, RET taking the newest and RETT the saved one; SWT traps after it with its code. A return stack of 16 that is full, one that is empty, and a RETT outside a trap each trap. What the rules leave open is taken as the assumption log says (26). -/
def Obligations.RoridControlTransfer : Prop :=
  ∀ (s : State) (p : Fin 96) (g : Guard) (ra : BitVec 4) (ind : Bool) (target code : BitVec 12),
    let q := portOf s p
    let e := q.eng
    let pc := e.pc.toNat
    let a := if ind then ((readReg q ra).toNat + target.toNat) % 2 ^ 12 else target.toNat
    let u := met s p
    (Executes s p g (encK g 0 0 false 0) → exec (.rNop p g) s = .next (advanced s u p 1)) ∧
    (Executes s p g (encK g 3 0 false 0) → exec (.rYield p g) s = .next (advanced s u p 1)) ∧
    (Executes s p g (encB g 0x10 ra ind target) → exec (.rBr p g ra ind target) s = .next (transferred u p 2 a)) ∧
    (Executes s p g (encB g 0x11 ra ind target) →
      (pc = 4095 → exec (.rCall p g ra ind target) s = .next (trapEntry u p 0x06 4096 pc)) ∧
      (pc ≠ 4095 → e.rstack.length < 16 → exec (.rCall p g ra ind target) s =
        .next (transferred (modEng u p fun x => { x with rstack := BitVec.ofNat 12 (pc + 1) :: x.rstack }) p 2 a)) ∧
      (pc ≠ 4095 → 16 ≤ e.rstack.length → exec (.rCall p g ra ind target) s = .next (trapEntry u p 0x02 (BitVec.ofNat 32 a) pc))) ∧
    (Executes s p g (encK g 1 0 false 0) →
      (∀ b l, e.rstack = b :: l → exec (.rRet p g) s = .next (transferred (modEng u p fun x => { x with rstack := l }) p 2 b.toNat)) ∧
      (e.rstack = [] → exec (.rRet p g) s = .next (trapEntry u p 0x03 0 pc))) ∧
    (Executes s p g (encK g 2 0 false 0) →
      (∀ b, e.trapped = some b → exec (.rRett p g) s = .next (transferred (modEng u p fun x => { x with trapped := none }) p 2 b.toNat)) ∧
      (e.trapped = none → exec (.rRett p g) s = .next (trapEntry u p 0x01 (encK g 2 0 false 0) pc))) ∧
    (Executes s p g (encK g 5 0 false code) → exec (.rSwt p g code) s =
      .next (if pc = 4095 then trapEntry (addCycles u p 1) p 0x06 4096 pc
        else trapEntry (addCycles u p 1) p 0x08 (BitVec.ofNat 32 code.toNat) (pc + 1)))

/-- R298, R299, R300, R301, R309, R311, R312, R315, R344, R345: WAITEV takes the lowest event that is pending, enabled in the event table and not masked, clearing its pending state (events 10 and 11 stay pending while their cause holds), and waits where there is none, until an event ends the wait; a correctable error of the word of the event it takes is corrected and counted; of every row of the Rorid table, a false guard skips the instruction, in 2 cycles where it is BR, CALL, RET or RETT and in 1 otherwise, an illegal word traps with itself in `TVAL`, whatever its guard, and a word with an uncorrectable error fails the port; a word that names P0 traps where its guard is true; a trap saves the PC and goes to the vector at a cost of 2 cycles; a trap during a trap fails the port. What the rules leave open is taken as the assumption log says (26 to 28). -/
def Obligations.RoridWaitsAndTraps : Prop :=
  (∀ (s : State) (p : Fin 96) (g : Guard) (ra : BitVec 4) (all : Bool) (mask : Word) (waited : BitVec 32) (k : Nat),
     let q := portOf s p
     let m := if all then 0xFFFFFFFF else readReg q ra
     let entry (k : Nat) := bankWord q (fieldOf (imageHdr q 4) 0 12 + k)
     let offers (m : Word) (k : Nat) : Prop := k < 32 ∧ q.evPend.getLsbD k = true ∧ (entry k).getLsbD 31 = true ∧ m.getLsbD k = true
     let lowest (m : Word) : Prop := offers m k ∧ ∀ j, j < k → ¬ offers m j
     let taken (u : State) : State := clearEvents u p (1#32 <<< k)
     let handler := fieldOf (entry k) 0 12
     let place (j : Nat) := fieldOf (imageHdr q 4) 0 12 + j
     let read (m : Word) (j : Nat) : Prop := q.evPend.getLsbD j = true ∧ m.getLsbD j = true
     let clean (u : State) (m : Word) : Prop := ∀ j, j < 32 → read m j → (activeBank (portOf u p)).soft.contains (place j) = false
     let x := portOf (met s p) p
     (Executes s p g (encK g 4 ra all 0) →
       (lowest m → clean (met s p) m → exec (.rWaitev p g ra all) s = .next (transferred (taken (met s p)) p 2 handler)) ∧
       (lowest m → (activeBank x).soft.contains (place k) = true → (∀ j, j < k → ¬ read m j) →
         ∃ t, exec (.rWaitev p g ra all) s = .next t ∧ (activeBank (portOf t p)).soft = (activeBank x).soft.filter (· != place k) ∧
           (portOf t p).bankCorrected = if x.bankCorrected = 0xFFFF then 0xFFFF else x.bankCorrected + 1) ∧
       ((∀ j, ¬ offers m j) → clean (met s p) m → exec (.rWaitev p g ra all) s = .next (modEng (met s p) p fun e => { e with wait := .event m }))) ∧
     (isRun s = true → q.eng.state = .running → q.eng.wait = .event mask → lowest mask → clean s mask →
       exec (.waitevEventTaken p waited) s = .next (transferred (taken s) p (1 + max 1 waited.toNat) handler))) ∧
  (∀ (s : State) (p : Fin 96) (cause : Nat) (tval : Word) (pc : Nat),
     let q := portOf s p
     let e := q.eng
     let w := e.fetched
     let vec := fieldOf (imageHdr q 3) 16 12
     (∀ m, clearEvents s p m = modPort s p fun x => { x with evPend := x.evPend &&& ~~~ m |||
       (if shiftCause (shiftOf x 0) then 0x400 else 0) ||| (if shiftCause (shiftOf x 1) then 0x800 else 0) }) ∧
     (engineAt s p w = true → roridLegal (imageModeC q) w = false →
       (e.mark ≠ .bad → exec (.rIllegal p) s = .next (trapEntry (met s p) p 0x01 w e.pc.toNat)) ∧
       (e.mark = .bad → ∃ t, exec (.rIllegal p) s = .next t ∧ (portOf t p).eng.state = .failed)) ∧
     (engineAt s p w = true → e.mark ≠ .bad → namesP0 w = true → guardTrue e (wordGuard w) = true →
       exec (.rIllegal p) s = .next (trapEntry (met s p) p 0x01 w e.pc.toNat)) ∧
     (e.trapped = none → trapEntry s p cause tval pc = modPort s p fun x => { x with eng := { x.eng with
       trapped := some (BitVec.ofNat 12 pc), cause := BitVec.ofNat 8 cause, tval := tval, pc := BitVec.ofNat 12 vec
       fetched := bankWord x vec, mark := bankMark x vec, cycle := x.eng.cycle + 2, wait := .no } }) ∧
     (e.trapped ≠ none → (portOf (trapEntry s p cause tval pc) p).eng.state = .failed ∧ (trapEntry s p cause tval pc).pwr.sticky.getLsbD 1 = true)) ∧
  (∀ (s : State) (i : Instr) (p : Fin 96) (g : Guard) (w : Word),
     let q := portOf s p
     let e := q.eng
     roridWord i = some (p, g, w) → engineAt s p w = true →
       (e.mark = .bad → ∃ t, exec i s = .next t ∧ (portOf t p).eng.state = .failed ∧ t.pwr.sticky.getLsbD 1 = true) ∧
       (e.mark ≠ .bad → roridLegal (imageModeC q) w = false → exec i s = .next (trapEntry (met s p) p 0x01 w e.pc.toNat)) ∧
       (e.mark ≠ .bad → roridLegal (imageModeC q) w = true → guardTrue e g = false →
         exec i s = .next (advanced s (met s p) p (skipCycles i))))

/-- R293, R341, R358, R385: IN writes the register's value in 2 cycles, and OUT the register, whose address is the field, or the field added to a register modulo 256. A part of DTIME read low captures the other; PRED keeps bit 0 at 1; a write of ESTAT or EV_PEND clears the bits written 1; a write of STG marks the word written. R361, R366 to R369, R375, R376, R379, R380, R393: PINk_CFG ends a pin's safe hold; the timer registers, of which `CMP` and `AUX` wait for the wrap under `BUF`; EDGEk_TSL holds the high word, and EDGEk_TSH returns it and clears `FULL`; SHu_TX and SHu_TXE push, start an idle transmitter, or set `TXOVF`, and SHu_RX pops; the bus controller's mode, timing, event, record and counter registers; EV_PULSE pulses the port's events or one that its owner owns, and raises the host interrupt; ANS answers the request delivered, whose number must be the port's, and the next one is delivered. What the rules leave open is taken as the assumption log says (30, 36 and 110). -/
def Obligations.RoridInputOutput : Prop :=
  ∀ (s : State) (p : Fin 96) (g : Guard) (rd ra : BitVec 4) (ind : Bool) (io : BitVec 8),
    let q := portOf s p
    let u := met s p
    let x := readReg q rd
    let a := if ind then ((readReg q ra).toNat + io.toNat) % 256 else io.toNat
    let reads (c : Prop) (v : Word) : Prop := c → exec (.rIn p g rd ra ind io) s = .next (advanced s (putReg u p rd v) p 2)
    let writes (c : Prop) (v : State) : Prop := c → ∃ t, Concluded v t ∧ exec (.rOut p g rd ra ind io) s = .next (advanced s t p 1)
    let yields (c : Prop) (P : State → Prop) : Prop := c → ∃ t, exec (.rOut p g rd ra ind io) s = .next (advanced s t p 1) ∧ P t
    let pops (c : Prop) (v : Word) (t : State) : Prop := c → exec (.rIn p g rd ra ind io) s = .next (advanced s (putReg t p rd v) p 2)
    let k := (a - 0x32) / 2
    let z := tGet q.edges k {}
    let edge (f : Edge → Edge) : State := modPort u p fun y => { y with edges := tUpd y.edges k {} f }
    let c := (a - 0x20) / 4
    let tm := tGet q.timers c {}
    let mode := fieldOf tm.ctl 2 2
    let ctl := x &&& 0x00FF1F7F
    let timer (f : Timer → Timer) : State := modPort u p fun y => { y with timers := tUpd y.timers c {} f }
    let n := (a - 0x40) / 8
    let sh := tGet q.shifts n {}
    let cause (y : Shift) : Prop := (y.isOpen = true ∧ y.tx.length ≤ fieldOf y.cfg 23 3) ∨ fieldOf y.cfg 26 3 < y.rx.length ∨
      (y.txovf || y.rxovr || y.ferr || y.aborted) = true
    let shift (y : Shift) (t : State) : Prop := ∃ v : Word, (v = 0 ∧ ¬ cause y ∨ v = 0x400#32 <<< n ∧ cause y) ∧
      t = modPort u p fun w => { w with shifts := tPut w.shifts n y, evPend := w.evPend ||| v }
    let sends := fieldOf sh.cfg 2 2 ≠ 3 ∧ (fieldOf sh.cfg 0 2 = 1 ∨ fieldOf sh.cfg 0 2 = 3)
    let push (y : Shift) (b : Prop) : Prop := (a = 0x42 ∨ a = 0x43 ∨ a = 0x4A ∨ a = 0x4B) ∧ b →
      ∃ v t, shift y v ∧ Concluded v t ∧ exec (.rOut p g rd ra ind io) s = .next (advanced s t p 1)
    let word := (x, a % 8 == 3)
    let bc := q.bc
    let bus (f : BusCtl → BusCtl) : State := modPort u p fun y => { y with bc := f y.bc }
    let running (w : Word) : Nat := if 4 < fieldOf w 0 3 then 0 else fieldOf w 0 3
    let now (t : State) (y : BusCtl) : Prop := ∃ e, (portOf t p).bc = { y with evt := e }
    let line (e : Nat) : State := pulse u e (some (p.val, q.number))
    let aev := fieldOf x 16 10
    let asks := a = 0x19 ∧ x = BitVec.ofNat 32 (2 ^ 26 + aev * 2 ^ 16)
    let owns := ∃ o, q.owner = some o ∧ 512 ≤ aev ∧ ownsEvent s o aev = true
    let counts (m : Nat) : State := modPort u p fun y => { y with cnt := bump y.cnt m }
    let answered (t : State) (v : Nat) (r : Answer) (m : Nat) : Prop := (portOf t p).cnt = bump q.cnt m ∧ (portOf t p).delivered = none ∧
      ∃ y, voyOf t v = some y ∧ y.answer = some r
    (Executes s p g (encIO g 0 rd ra ind io) →
      reads (a = 0x00) (q.eng.estat.setWidth 32) ∧ reads (a = 0x02) q.eng.tval ∧ reads (a = 0x04) (q.eng.pred.setWidth 32) ∧
      reads (a = 0x05) q.eng.cycle ∧ reads (a = 0x17) (q.pinOut.setWidth 32) ∧ reads (a = 0x18) q.evPend ∧
      reads (a = 0x63) q.ansVal ∧
      reads (0x68 ≤ a ∧ a < 0x6C) (tGet q.qev (a - 0x68) 0) ∧ reads (0x70 ≤ a ∧ a < 0x80) (tGet q.omap (a - 0x70) 0) ∧
      reads (0x80 ≤ a ∧ a < 0xC0) (tGet q.img (a - 0x80) 0) ∧ reads (0xC0 ≤ a) (tGet q.stg (a - 0xC0) 0) ∧
      reads (0x10 ≤ a ∧ a < 0x16) (tGet q.pins (a - 0x10) {}).cfg ∧
      reads (0x20 ≤ a ∧ a < 0x30 ∧ a % 4 = 0) tm.ctl ∧ reads (0x20 ≤ a ∧ a < 0x30 ∧ a % 4 = 1) tm.cnt ∧
      reads (0x20 ≤ a ∧ a < 0x30 ∧ a % 4 = 2) tm.cmp ∧ reads (0x20 ≤ a ∧ a < 0x30 ∧ a % 4 = 3) tm.aux ∧
      reads (a = 0x50) bc.cfg ∧ reads (a = 0x56) (bc.evt.setWidth 32) ∧ reads (a = 0x57) (bc.even.setWidth 32) ∧
      pops (0x32 ≤ a ∧ a < 0x3E ∧ a % 2 = 0) (z.ts.setWidth 32) (edge fun y => { y with held := (y.ts >>> 32).setWidth 32 }) ∧
      pops (0x32 ≤ a ∧ a < 0x3E ∧ a % 2 = 1) z.held (edge fun y => { y with full := false }) ∧
      (∀ w l, sh.rx = w :: l → sh.done = none → (a = 0x44 ∨ a = 0x4C) → ∃ t, shift { sh with rx := l } t ∧
        exec (.rIn p g rd ra ind io) s =
          .next (advanced s (putReg t p rd (BitVec.ofNat 32 (w.toNat % 2 ^ (fieldOf sh.cfg 5 5 + 1)))) p 2)) ∧
      (∀ w l, bc.rx = w :: l → pops (a = 0x59) (BitVec.ofNat 32 (leNat ((w.drop bc.rxPos).take 4)))
        (bus fun y => if w.length ≤ bc.rxPos + 4 then { y with rx := y.rx.drop 1, rxPos := 0 } else { y with rxPos := y.rxPos + 4 })) ∧
      (a = 0x1C → exec (.rIn p g rd ra ind io) s =
        .next (advanced s (putReg (modPort u p fun y => { y with dtimeHi := some (BitVec.ofNat 32 (s.tb.time / 2 ^ 32)) })
          p rd (BitVec.ofNat 32 s.tb.time)) p 2))) ∧
    (Executes s p g (encIO g 1 rd ra ind io) →
      writes (a = 0x00) (modEng u p fun e => { e with estat := e.estat &&& ~~~ (x.setWidth 5) }) ∧
      writes (a = 0x04) (modEng u p fun e => { e with pred := x.setWidth 8 ||| 1 }) ∧
      writes (a = 0x17) (modPort u p fun y => { y with pinOut := x.setWidth 6 }) ∧
      writes (a = 0x18) (clearEvents u p x) ∧
      writes (a = 0x63) (modPort u p fun y => { y with ansVal := x }) ∧
      writes (0x70 ≤ a ∧ a < 0x80) (modPort u p fun y => { y with omap := tPut y.omap (a - 0x70) x }) ∧
      writes (0x80 ≤ a ∧ a < 0xC0) (modPort u p fun y => { y with img := tPut y.img (a - 0x80) x }) ∧
      writes (0xC0 ≤ a) (modPort u p fun y =>
        { y with stg := tPut y.stg (a - 0xC0) x, fresh := insertNat y.fresh (a - 0xC0) }) ∧
      yields (0x10 ≤ a ∧ a < 0x16) (fun t => (portOf t p).pins =
        tUpd q.pins (a - 0x10) {} fun y => { y with cfg := x &&& 0x000F7FFF, hold := none }) ∧
      writes (0x10 ≤ a ∧ a < 0x16 ∧ (tGet q.pins (a - 0x10) {}).cfg.getLsbD 12 = x.getLsbD 12) (modPort u p fun y =>
        { y with pins := tUpd y.pins (a - 0x10) {} fun y => { y with cfg := x &&& 0x000F7FFF, hold := none } }) ∧
      writes (0x20 ≤ a ∧ a < 0x30 ∧ a % 4 = 0) (timer fun y =>
        { y with ctl := ctl, cnt := if fieldOf ctl 2 2 = 3 ∧ ctl.getLsbD 0 = true then 0 else y.cnt }) ∧
      writes (0x20 ≤ a ∧ a < 0x30 ∧ a % 4 = 1) (timer fun y => { y with cnt := x }) ∧
      writes (0x20 ≤ a ∧ a < 0x30 ∧ a % 4 = 2) (timer fun y =>
        if mode = 1 ∧ tm.ctl.getLsbD 4 = true then { y with nextCmp := some x } else { y with cmp := x }) ∧
      writes (0x20 ≤ a ∧ a < 0x30 ∧ a % 4 = 3) (timer fun y =>
        if mode = 2 then y else if mode = 1 ∧ tm.ctl.getLsbD 4 = true then { y with nextAux := some x } else { y with aux := x }) ∧
      writes (a = 0x30) (modPort u p fun y => { y with edgeCfg := x &&& 0x003F3F3F }) ∧
      push { sh with txovf := true } (8 ≤ sh.tx.length) ∧
      push { sh with tx := sh.tx ++ [word] } (sh.tx.length < 8 ∧ (¬ sends ∨ sh.sr ≠ none)) ∧
      push { sh with sr := some word, isOpen := true, stall := false } (sends ∧ sh.tx = [] ∧ sh.sr = none ∧ sh.done = none) ∧
      yields (a = 0x50 ∧ running bc.cfg = 0 ∧ 0 < running x) (fun t =>
        now t { bc with cfg := x &&& 0x1FF, recv := 0, tec := 0, errState := 0 }) ∧
      yields (a = 0x50 ∧ 0 < running bc.cfg ∧ running x = 0) (fun t => now t { bc with
        cfg := x &&& 0x1FF, rx := [], rxPos := 0, build := [], tx := [], plcaActive := false, busy := false, xlData := false
        turn := 0, burst := 0, errState := 3 }) ∧
      writes (a = 0x50 ∧ 0 < running bc.cfg ∧ 0 < running x ∧ running bc.cfg ≠ running x) u ∧
      writes (a = 0x51) (if running bc.cfg = 0 then bus fun y => { y with nbt := x &&& 0x3FFFFFFF } else u) ∧
      writes (a = 0x52) (if running bc.cfg = 0 then bus fun y => { y with dbt := x &&& 0x3FFFFFFF } else u) ∧
      writes (a = 0x56) (bus fun y => { y with evt := y.evt &&& ~~~ (x.setWidth 6) }) ∧
      writes (a = 0x57) (bus fun y => { y with even := x.setWidth 6 }) ∧
      writes (a = 0x5A ∧ x.getLsbD 0 = true) (bus fun y => { y with rx := y.rx.drop 1, rxPos := 0 }) ∧
      writes (a = 0x5B) (bus fun y => { y with build := y.build ++ [x] }) ∧
      writes (a = 0x5C ∧ x = 2) (bus fun y => { y with build := [] }) ∧
      writes (a = 0x5C ∧ x = 8) (bus fun y => { y with tx := y.tx.filter (·.onWire) }) ∧
      yields (a = 0x5C ∧ x = 1 ∧ bc.build.length < 4) (fun t => now t { bc with build := [] } ∧ (portOf t p).bc.evt.getLsbD 2 = true) ∧
      writes (a = 0x5F) (if 8 ≤ x.toNat % 32 then counts (x.toNat % 32) else u) ∧
      (∀ j, j < 4 → writes (a = 0x19 ∧ x = BitVec.ofNat 32 (2 ^ j)) (line (4 * p.val + j))) ∧
      writes (a = 0x19 ∧ x = 0x100) (if q.flags.getLsbD 3 = true then u else
        raise (modPort u p fun y => { y with flags := y.flags ||| 8 }) p) ∧
      writes (asks ∧ owns) (line aev) ∧ writes (asks ∧ ¬ owns) (counts 6) ∧
      writes (a = 0x64 ∧ q.delivered = none) u ∧
      (∀ r m v y, q.delivered = some (r, m) → r.vid = some v → voyOf s v = some y → keysRise s.sch.voy →
        (q.waiting = [] → q.joining = [] → r.orphan = false →
          yields (a = 0x64 ∧ m = q.number ∧ r.invoke = true)
            (fun t => answered t v { status := 0, cond := some (x.setWidth 2), value := some q.ansVal } 4) ∧
          yields (a = 0x64 ∧ m = q.number ∧ r.invoke = false)
            (fun t => answered t v { status := if x.setWidth 8 = 0#8 then 0 else 0x10, ext := x.setWidth 8 } 4) ∧
          yields (a = 0x64 ∧ m ≠ q.number) (fun t => answered t v { status := 0x12, ext := 0x01 } 5)) ∧
        (∀ r' l, q.waiting = r' :: l → q.joining = [] → yields (a = 0x64) fun t =>
          (portOf t p).delivered = some (r', q.number) ∧ (portOf t p).waiting = l ∧ (portOf t p).reqView = some r' ∧
            (portOf t p).evPend.getLsbD 13 = true)))

/-- R255, R257, R259, R351 to R355: what a port's engine consumes from an attached queue: QCLAIM takes the packet at the read point and gives its length; without a packet it answers EMPTY with `NW` and waits without; QGET reads the open read's next bytes, low byte first, those of a cell that could not be read as 0; QEND reports the read once; QMARK, QREW, QREL and QDEPTH act on the queue's points. A queue that is not attached gives NOT_ATTACHED, a QGET 0. What the rules leave open is taken as the assumption log says (28 and 29). -/
def Obligations.RoridQueueConsumer : Prop :=
  ∀ (s : State) (p : Fin 96) (g : Guard) (rd rq : BitVec 4) (size : BitVec 2) (nw : Bool) (n : Nat) (q : Queue) (k : Packet) (r : OpenRead),
    let x := portOf s p
    let w := readReg x rq
    let here := Attached s p w n q
    let gone := x.fencedQs.contains w.toNat = false ∧ ∀ y, queueOf s w.toNat = some y → y.port ≠ some p.val
    let done (u : State) (v : Word) : State := advanced s (putReg u p rd v) p 1
    let ends (i : Instr) (t : State) : Prop := exec i s = .next t
    let u := met s p
    let z := if size = 0 then 1 else if size = 1 then 2 else 4
    let lost (i : Nat) : Bool := r.bad.contains ((r.pos + i) / 64)
    (Executes s p g (encQ g 3 rd rq 0 0 nw) →
      (gone → ends (.rQclaim p g rd rq nw) (done u 0x80000001)) ∧
      (here → tFind x.reads n = none → visible q = 0 →
        ends (.rQclaim p g rd rq nw) (if nw then
            done (modPort u p fun y => { y with reads := tDel y.reads n }) 0x80000005
          else modEng (modQueue (modPort u p fun y => { y with reads := tDel y.reads n }) n fun y =>
            if y.waiting.contains (.port p) then { y with woken := y.woken.filter (· != .port p) }
            else { y with waiting := y.waiting ++ [.port p] }) p fun e =>
              { e with wait := .claim n rd })) ∧
      (here → tFind x.reads n = none → 0 < visible q → packetAt q q.readAt = some k → (∀ c, c ∈ k.cells → c ∉ s.deck.quar) →
        ends (.rQclaim p g rd rq nw) (done (modPort (modQueue (modPort u p fun y => { y with reads := tDel y.reads n }) n fun y =>
            { y with readAt := y.readAt + 1, reading := y.reading ++ [(.port p, y.readAt)]
                     waiting := y.waiting.filter (· != .port p), woken := y.woken.filter (· != .port p), cnt := bump y.cnt 2 }) p fun y =>
              { y with reads := tPut y.reads n { pkt := q.readAt, cells := k.cells, len := k.len } })
          (BitVec.ofNat 32 k.len)))) ∧
    (Executes s p g (encQ g 4 rd rq 0 size false) →
      (gone → ends (.rQget p g rd rq size) (done u 0)) ∧
      (here → tFind x.reads n = none → ends (.rQget p g rd rq size) (done u 0)) ∧
      (here → tFind x.reads n = some r → r.isOpen = true → r.pos + z < r.len → (r.pos + z + 63) / 64 ≤ r.arrived →
        ∃ t, Concluded (modPort u p fun y =>
            { y with reads := tPut y.reads n { r with pos := r.pos + z, lost := r.lost || (List.range z).any lost } }) t ∧
          ends (.rQget p g rd rq size) (done t (BitVec.ofNat 32 (leNat ((List.range z).map fun i =>
            if lost i then 0 else memRead s.deck.mem (64 * r.cells.getD ((r.pos + i) / 64) 0 + (r.pos + i) % 64)))))) ∧
      (here → tFind x.reads n = some r → r.isOpen = true → r.arrived < (min (r.pos + z) r.len + 63) / 64 →
        ends (.rQget p g rd rq size) (modEng u p fun e => { e with wait := .get n rd z }))) ∧
    (Executes s p g (encQ g 5 rd rq 0 0 false) →
      (gone → ends (.rQend p g rd rq) (done u 0x80000001)) ∧
      (here → tFind x.reads n = none → ends (.rQend p g rd rq) (done u 0x80000004)) ∧
      (here → tFind x.reads n = some r → r.isOpen = false → ends (.rQend p g rd rq)
        (done (modPort u p fun y => { y with reads := tDel y.reads n }) (if r.lost then 0x80000003 else 0)))) ∧
    (Executes s p g (encQ g 6 rd rq 0 0 false) →
      (gone → ends (.rQmark p g rd rq) (done u 0x80000001)) ∧
      (here → ends (.rQmark p g rd rq) (done (modQueue u n fun y => { y with mark := y.readAt }) 0))) ∧
    (Executes s p g (encQ g 7 rd rq 0 0 false) →
      (gone → ends (.rQrew p g rd rq) (done u 0x80000001)) ∧
      (here → ends (.rQrew p g rd rq) (done (modQueue u n fun y => { y with readAt := y.mark }) 0))) ∧
    (Executes s p g (encQ g 8 rd rq 0 0 false) →
      (gone → ends (.rQrel p g rd rq) (done u 0x80000001)) ∧
      (here → q.reading = [] → ∃ t, ends (.rQrel p g rd rq) (done t 0) ∧ t.port = u.port ∧
        queueOf t n = some { q with packets := q.packets.drop (q.readAt - q.first), first := q.first + (q.readAt - q.first)
                                    mark := if q.mark < q.first + (q.readAt - q.first) then q.readAt else q.mark } ∧
        ∀ c, (tGet t.deck.taken (c % 32) []).contains (c / 32) =
          ((tGet s.deck.taken (c % 32) []).contains (c / 32) &&
            !((q.packets.take (q.readAt - q.first)).any fun y => y.cells.contains c)))) ∧
    (Executes s p g (encQ g 9 rd rq 0 0 false) →
      (gone → ends (.rQdepth p g rd rq) (done u 0x80000001)) ∧
      (here → ends (.rQdepth p g rd rq)
        (done u (BitVec.ofNat 32 (min (q.first + q.packets.length - q.readAt) 0xFFFFFF)))))

/-- R245, R246, R248, R250, R259, R351, R357: what a port's engine produces into an attached queue: QPUT appends the low bytes of a register to its packet, stalling where a cell is refused; a packet that the hardware has rewound is reported once; a packet that would pass 16,777,215 bytes is refused; QDROP rewinds the packet; QCOMMIT links it after the tail once its bytes are written, which is not for the model to tell, and wakes the first reader that no commit has woken. What the rules leave open is taken as the assumption log says (28, 29 and 124). -/
def Obligations.RoridQueueProducer : Prop :=
  ∀ (s : State) (p : Fin 96) (g : Guard) (rd rq rs : BitVec 4) (size : BitVec 2) (n : Nat) (q : Queue) (b : Building),
    let x := portOf s p
    let w := readReg x rq
    let here := Attached s p w n q
    let gone := x.fencedQs.contains w.toNat = false ∧ ∀ y, queueOf s w.toNat = some y → y.port ≠ some p.val
    let mine := q.building.find? fun y => y.agent == .port p
    let done (u : State) (v : Word) : State := advanced s (putReg u p rd v) p 1
    let ends (i : Instr) (t : State) : Prop := exec i s = .next t
    let u := met s p
    let z := if size = 0 then 1 else if size = 1 then 2 else 4
    let bytes := leBytes z (readReg x rs).toNat
    let out (u : State) : State := modQueue u n fun y => { y with building := y.building.filter fun c => c.agent != .port p }
    let wakes := q.woken ++ (q.waiting.find? fun a => !q.woken.contains a).toList
    (Executes s p g (encQ g 0 rd rq rs size false) →
      (gone → ends (.rQput p g rd rq rs size) (done u 0x80000001)) ∧
      (here → mine = some b → b.rewound = true → ends (.rQput p g rd rq rs size) (done (out u) 0x80000002)) ∧
      (here → mine = some b → b.rewound = false → 16777215 < b.pkt.len + z →
        ends (.rQput p g rd rq rs size) (done u 0x80000006)) ∧
      (here → (mine = none ∨ (mine = some b ∧ b.rewound = false ∧ b.pkt.len + z ≤ 16777215)) →
        let r := appendBytes u (.port p) n bytes
        (r.refused = none → ends (.rQput p g rd rq rs size) (done (unstall r.state (.port p)) 0)) ∧
        (∀ k, r.refused = some k → ∃ t, Concluded (stallProducer r.state (.port p) n k) t ∧
          ends (.rQput p g rd rq rs size) (modEng t p fun e => { e with wait := .put n rd (bytes.drop r.done) })))) ∧
    (Executes s p g (encQ g 2 rd rq 0 0 false) →
      (gone → ends (.rQdrop p g rd rq) (done u 0x80000001)) ∧
      (here → mine = none → ends (.rQdrop p g rd rq) (done u 0x80000004)) ∧
      (here → mine = some b → b.rewound = false → ∃ t, ends (.rQdrop p g rd rq) (done t 0) ∧ t.port = u.port ∧
        queueOf t n = some { q with building := q.building.filter (fun c => c.agent != .port p), cnt := bump q.cnt 3 } ∧
        ∀ c, (tGet t.deck.taken (c % 32) []).contains (c / 32) =
          ((tGet s.deck.taken (c % 32) []).contains (c / 32) && !b.pkt.cells.contains c))) ∧
    (Executes s p g (encQ g 1 rd rq 0 0 false) →
      (gone → ends (.rQcommit p g rd rq) (done u 0x80000001)) ∧
      (here → mine = none → ends (.rQcommit p g rd rq) (done u 0x80000004)) ∧
      (here → mine = some b → b.rewound = true → ends (.rQcommit p g rd rq) (done (out u) 0x80000002)) ∧
      (here → mine = some b → b.rewound = false → (freeOf s).getLsbD 0 = false →
        ends (.rQcommit p g rd rq) (modEng (drawn u) p fun e => { e with wait := .commit n rd })) ∧
      (here → mine = some b → b.rewound = false → 0 < b.pkt.len → (freeOf s).getLsbD 0 = true →
        ∃ t, ends (.rQcommit p g rd rq) (done t 0) ∧ t.deck.mem = s.deck.mem ∧ t.deck.taken = s.deck.taken ∧ t.log = s.log ∧
          queueOf t n = some { q with building := q.building.filter (fun c => c.agent != .port p)
                                      packets := q.packets ++ [b.pkt], cnt := bumpBy (bump q.cnt 0) 1 b.pkt.len, woken := wakes } ∧
          (portOf t p).eng = (portOf u p).eng))

/-- R250, R255, R303, R355, R357, R586: the ends of the waits on queues: the waiting instruction completes with its result, in a number of cycles that the timing leaves open; a QPUT that has been granted its cell goes on, one that has not waits, and one whose packet the hardware has rewound, like such a QCOMMIT, answers REWOUND; a QCLAIM goes on only once a commit has woken it, and waits on in its place where another consumer has taken the packet; a cell that arrives for a read is counted, its errors are met then, and it ends a QGET once all its bytes have arrived. What the rules leave open is taken as the assumption log says (28 and 124). -/
def Obligations.RoridQueueWaits : Prop :=
  ∀ (s : State) (p : Fin 96) (n : Nat) (rd : BitVec 4) (l : List Byte) (q : Queue) (b : Building) (k : Packet) (r : OpenRead),
    let x := portOf s p
    let pc := x.eng.pc.toNat
    let mine := q.building.find? fun y => y.agent == .port p
    let out := { q with building := q.building.filter fun c => c.agent != .port p }
    let v := serveStalls s
    let wakes := q.woken ++ (q.waiting.find? fun a => !q.woken.contains a).toList
    let granted := v.deck.stalls.any fun y => y.agent == .port p && y.granted
    let waits (w : EngWait) := isRun s = true ∧ x.eng.state = .running ∧ x.eng.wait = w ∧ pc < 4095 ∧ (imageModeC x = true → rd.toNat < 12)
    let goesOn (t : State) (v : Word) (f : Nat) : Prop :=
      let e := (portOf t p).eng
      e.wait = .no ∧ e.pc.toNat = pc + 1 ∧ e.fetched = bankWord x (pc + 1) ∧ e.mark = bankMark x (pc + 1) ∧ readReg (portOf t p) rd = v ∧
        e.cycle = x.eng.cycle + BitVec.ofNat 32 (1 + (Config.freeWord f).toNat) ∧ t.freeCtr = f + 1
    (waits (.claim n rd) → queueOf s n = some q → (.port p ∉ q.woken → exec (.qclaimWaitEnd p) s = .next s) ∧
      (.port p ∈ q.woken → visible q = 0 → exec (.qclaimWaitEnd p) s = .next (modQueue s n fun y =>
        if y.waiting.contains (.port p) then { y with woken := y.woken.filter (· != .port p) }
        else { y with waiting := y.waiting ++ [.port p] }))) ∧
    (waits (.claim n rd) → queueOf s n = some q → .port p ∈ q.woken → 0 < visible q → packetAt q q.readAt = some k →
      (∀ c, c ∈ k.cells → c ∉ s.deck.quar) →
      ∃ t, exec (.qclaimWaitEnd p) s = .next t ∧ goesOn t (BitVec.ofNat 32 k.len) s.freeCtr ∧
        queueOf t n = some { q with readAt := q.readAt + 1, reading := q.reading ++ [(.port p, q.readAt)]
                                    waiting := q.waiting.filter (· != .port p), woken := q.woken.filter (· != .port p)
                                    cnt := bump q.cnt 2 }) ∧
    (waits (.put n rd l) → queueOf s n = some q → (∀ y, mine = some y → y.rewound = false) →
      (granted = false → exec (.qputStallEnd p) s = .next v) ∧
      (granted = true → (appendBytes (unstall v (.port p)) (.port p) n l).refused = none →
        ∃ t, exec (.qputStallEnd p) s = .next t ∧ goesOn t 0 s.freeCtr ∧
          t.deck = (unstall (appendBytes (unstall v (.port p)) (.port p) n l).state (.port p)).deck)) ∧
    (waits (.put n rd l) → queueOf s n = some q → mine = some b → b.rewound = true →
      ∃ t, exec (.qputStallEnd p) s = .next t ∧ goesOn t 0x80000002 s.freeCtr ∧ queueOf t n = some out) ∧
    (waits (.commit n rd) → queueOf s n = some q → mine = some b → b.rewound = true →
      ∃ t, exec (.qcommitWaitEnd p) s = .next t ∧ goesOn t 0x80000002 s.freeCtr ∧ queueOf t n = some out) ∧
    (waits (.commit n rd) → queueOf s n = some q → mine = some b → b.rewound = false → 0 < b.pkt.len →
      ∃ t, exec (.qcommitWaitEnd p) s = .next t ∧ goesOn t 0 s.freeCtr ∧
        queueOf t n = some { q with building := q.building.filter (fun c => c.agent != .port p)
                                    packets := q.packets ++ [b.pkt], cnt := bumpBy (bump q.cnt 0) 1 b.pkt.len, woken := wakes }) ∧
    (waits (.get n rd 4) → tFind x.reads n = some r → r.isOpen = true → r.arrived < r.cells.length → r.arrived < r.pos / 64 + 2 →
      r.pos + 4 < r.len → r.cells.getD r.arrived 0 ∈ s.deck.bad → r.cells.getD r.arrived 0 ∉ s.deck.quar →
      ∃ t y, exec (.qgetCellArrival p) s = .next t ∧ r.cells.getD r.arrived 0 ∈ t.deck.quar ∧
        tFind (portOf t p).reads n = some y ∧ y.arrived = r.arrived + 1 ∧ y.bad = r.bad ++ [r.arrived]) ∧
    (waits (.get n rd 4) → tFind x.reads n = some r → r.isOpen = true → r.arrived < r.cells.length → r.arrived < r.pos / 64 + 2 →
      r.pos + 4 < r.len → r.bad = [] → (∀ c, c ∈ r.cells → c ∉ s.deck.bad ∧ (∀ j, j ∈ s.deck.soft → j / 8 ≠ c) ∧ c ∉ s.deck.quar) →
      ∃ t, exec (.qgetCellArrival p) s = .next t ∧
        (r.arrived + 1 < (r.pos + 4 + 63) / 64 →
          Concluded (modPort s p fun y => { y with reads := tPut y.reads n { r with arrived := r.arrived + 1 } }) t) ∧
        ((r.pos + 4 + 63) / 64 ≤ r.arrived + 1 →
          goesOn t (BitVec.ofNat 32 (leNat ((List.range 4).map fun i =>
            memRead s.deck.mem (64 * r.cells.getD ((r.pos + i) / 64) 0 + (r.pos + i) % 64)))) s.freeCtr ∧
          tFind (portOf t p).reads n = some { r with arrived := r.arrived + 1, pos := r.pos + 4 }))

/-! ## Manifest entries (03_manifests.md) -/

/-- R78, R83, R85, R86, R94: the entries that always complete: NOP has no effect, SETV and ADDV write a register, TEST sets the condition by an unsigned or signed comparison, JUMP goes on at its index, and END ends the voyage whatever ONWARD holds. No memory changes and no record is published. What the rules leave open is taken as the assumption log says (41). -/
def Obligations.ManifestRegisterEntries : Prop :=
  ∀ (s : State) (v : Fin 4096) (x : Voyage) (w : List Word), EntryRuns s v x w → fPost w = false → fEvt w = false →
    let k := fieldOf (wd w 4) 0 3
    let goes (i : Instr) (n : Nat) (regs : Tab Word) (c : BitVec 2) : Prop :=
      ∃ t, exec i s = .next t ∧ MemoriesKept s t ∧ t.cq = s.cq ∧ t.log = s.log ∧ GoesTo t v x n regs c
    let order (a b : Word) : BitVec 2 :=
      if a = b then 0 else if (if (wd w 5).getLsbD 0 then decide (a.toInt < b.toInt) else decide (a.toNat < b.toNat)) then 1 else 2
    (opOf w = 0x00 → fOnward w = true → goes (.mNop v) (x.entry + 1) x.regs x.cond) ∧
    (opOf w = 0x08 → fOnward w = true → goes (.mSetv v) (x.entry + 1) (tPut x.regs k (wd w 2)) x.cond) ∧
    (opOf w = 0x09 → fOnward w = true →
      goes (.mAddv v) (x.entry + 1) (tPut x.regs k (BitVec.ofInt 32
        ((vreg x (fieldOf (wd w 4) 4 3)).toInt / 2 ^ fieldOf (wd w 4) 8 5 + (wd w 2).toInt) &&& wd w 6)) x.cond) ∧
    (opOf w = 0x07 → tgtOf w = 0xF4 → fOnward w = true →
      goes (.mTest v) (x.entry + 1) x.regs (order (vreg x k &&& wd w 6) (wd w 2))) ∧
    (opOf w = 0x07 → tgtOf w = 0xF0 → fOnward w = true → ∀ q, queueOf s (fieldOf (wd w 4) 0 13) = some q →
      goes (.mTest v) (x.entry + 1) x.regs
        (order (BitVec.ofNat 32 (q.first + q.packets.length - q.readAt) &&& wd w 6) (wd w 2))) ∧
    (opOf w = 0x07 → tgtOf w = 0xF1 → fOnward w = true → goes (.mTest v) (x.entry + 1) x.regs
      (match (chanOf s (fieldOf (wd w 4) 0 5)).latch with | none => 3 | some a => order (a &&& wd w 6) (wd w 2))) ∧
    (opOf w = 0x05 → fOnward w = true → goes (.mJump v) (fieldOf (wd w 4) 0 16) x.regs x.cond) ∧
    (opOf w = 0x1F → ∃ t, exec (.mEnd v) s = .next t ∧ MemoriesKept s t ∧ t.cq = s.cq ∧ t.log = s.log ∧ HasEnded s t v x)

/-- R75, R77, R84, R87, R88, R95, R106, R110, R112, R116, R451, R453: the records: POSTV publishes one whose residual is a register, and an entry with POST one with status OK, before the voyage goes on, and where earlier records of the voyage are still held for a landing it follows them; an entry whose condition is not met has no effect, and its record under POST says SKIPPED; an entry that step 2 rejects, of a reserved opcode among them, ends its voyage with FORMAT_ERROR and the lowest extended status that applies, and one that names what its partition does not own ends it with the status of the test. The events: WAIT parks its voyage until the event pulses, goes on at once where the watch latch of R89 holds the barge's pulse, which it takes, and goes on once its wait has seen the pulse; SIGNAL pulses an assignable event that the partition owns: every voyage parked on it sees the pulse, and every port of its owner that listens has the listener's local event pending. What the rules leave open is taken as the assumption log says (40, which gives the residual 0 of a rejected entry and of one whose ownership fails, 41, 43, 119 and 120). -/
def Obligations.ManifestRecordsAndEvents : Prop :=
  (∀ (s : State) (v : Fin 4096) (x : Voyage) (w : List Word) (m : Nat), EntryStands s v x w → RingHasRoom s v x m →
     (EntryRuns s v x w → fEvt w = false → fOnward w = true → opOf w = 0x0E →
       ∃ t, exec (.mPostv v) s = .next t ∧ MemoriesKept s t ∧ GoesTo t v x (x.entry + 1) x.regs x.cond ∧
         Publishes s t x.part m (recordOf (wd w 7) (vreg x (fieldOf (wd w 4) 0 3)).toNat 0 0 x.entry v true x s.tb.lsn)) ∧
     (EntryRuns s v x w → fEvt w = false → fOnward w = true → fPost w = true → opOf w = 0x00 →
       ∃ t, exec (.mNop v) s = .next t ∧ MemoriesKept s t ∧ GoesTo t v x (x.entry + 1) x.regs x.cond ∧
         Publishes s t x.part m (recordOf (wd w 7) 0 0 0 x.entry v false x s.tb.lsn)) ∧
     (entryFormat s x w = none → (condOf w).testBit x.cond.toNat = false → fSpan w = false → x.entry + 1 < entryCount x →
       ∃ t, exec (entryRowOf v w) s = .next t ∧ MemoriesKept s t ∧ GoesTo t v x (x.entry + 1) x.regs x.cond ∧
         (fPost w = false → t.cq = s.cq) ∧
         (fPost w = true → Publishes s t x.part m (recordOf (wd w 7) 0 0x02 0 x.entry v false x s.tb.lsn))) ∧
     (∀ e, entryFormat s x w = some e → ∃ t, exec (entryRowOf v w) s = .next t ∧ EndsWith s t v m x (wd w 7) 0 0x16 e) ∧
     (0x12 ≤ opOf w → opOf w ≠ 0x1F → ∃ t, exec (.mReserved v) s = .next t ∧ EndsWith s t v m x (wd w 7) 0 0x16 0x03) ∧
     (entryFormat s x w = none → (condOf w).testBit x.cond.toNat = true → fPause w = false →
       ∀ st e, ownFail s x w = some (st, e) → ∃ t, exec (entryRowOf v w) s = .next t ∧ EndsWith s t v m x (wd w 7) 0 st e)) ∧
  (∀ (s : State) (v : Fin 4096) (x : Voyage) (w : List Word) (m : Nat) (c : CompRing), EntryRuns s v x w → fPost w = true →
     fEvt w = false → fOnward w = true → opOf w = 0x00 → x.heldRecs ≠ [] → x.cring = some m → cqOf s x.part m = some c →
     (c.fault = true ∨ occupancy c < c.size) →
     ∃ t y, exec (.mNop v) s = .next t ∧ MemoriesKept s t ∧ GoesTo t v x (x.entry + 1) x.regs x.cond ∧ voyOf t v = some y ∧
       y.heldRecs = x.heldRecs ∧ t.cq = s.cq ∧
       t.sch.following = s.sch.following ++ [(v.val, recordOf (wd w 7) 0 0 0 x.entry v false x s.tb.lsn)]) ∧
  (∀ (s : State) (v : Fin 4096) (x : Voyage) (w : List Word), EntryStands s v x w → EntryRuns s v x w → quiet w →
     let e := fieldOf (wd w 4) 0 10
     (opOf w = 0x06 → x.watch = none →
       ∃ t, exec (.mWait v) s = .next t ∧ MemoriesKept s t ∧ t.cq = s.cq ∧ Waits s t v x w (.event e)) ∧
     (∀ k l, opOf w = 0x06 → x.saw = false → x.watch = some k →
       (e = 384 + k.channel ∧ k.completion = true ∧ l = { k with completion := false } ∨
         e = 416 + k.channel ∧ e ≠ 384 + k.channel ∧ k.mismatch = true ∧ l = { k with mismatch := false }) →
       ∃ t y, exec (.mWait v) s = .next t ∧ MemoriesKept s t ∧ t.cq = s.cq ∧ GoesTo t v x (x.entry + 1) x.regs x.cond ∧
         voyOf t v = some y ∧ y.watch = some l) ∧
     (opOf w = 0x0F → 512 ≤ e → (partOf s x.part).evtBase ≤ e → e < (partOf s x.part).evtBase + (partOf s x.part).evtCount →
       x.watch = none → s.sch.inService ≠ 0 →
       ∃ t, exec (.mSignal v) s = .next t ∧ t.cq = s.cq ∧ GoesTo t v x (x.entry + 1) x.regs x.cond ∧
         (∀ u y, u ≠ v.val → voyOf s u = some y → y.state = .parked → y.park = .event e → y.watch = none →
           ∃ z, voyOf t u = some z ∧ z.saw = true ∧ z.stage = .woken ∧ z.entry = y.entry) ∧
         (∀ p q, keysRise s.port → tFind s.port p = some q → ∀ n, n < 4 →
           (tGet q.netl n 0).getLsbD 31 = true → fieldOf (tGet q.netl n 0) 0 10 = e →
           (∃ o, q.owner = some o ∧ (partOf s o).evtBase ≤ e ∧ e < (partOf s o).evtBase + (partOf s o).evtCount) →
           (portOf t p).evPend.getLsbD (20 + n) = true))) ∧
  (∀ (s : State) (v : Fin 4096) (x : Voyage) (w : List Word), isRun s = true → keysRise s.sch.voy → voyOf s v = some x →
     x.state = .active → x.stage = .woken → x.timed = false → x.halting = false → x.suspending = false → x.cur = w → quiet w →
     opOf w = 0x06 → x.saw = true →
     ∃ t y, exec (.mWait v) s = .next t ∧ t.cq = s.cq ∧ voyOf t v = some y ∧ y.entry = x.entry + 1 ∧ y.regs = x.regs ∧
       y.cond = x.cond ∧ y.reached = x.reached)

/-- R79, R80, R132, R222, R374: WRITE places the bytes of its immediate, of a register or of memory in the fabric region of a port, or in a voyage register, and READ brings them to memory; SENSE takes a word of the latched input image and compares it. A transfer goes one burst at a time: the burst at byte b is translated when it is made, ends at the end of a block of either side, and is followed by a break point at which the voyage keeps its slot, or, after the last byte, by the next entry. What the rules leave open is taken as the assumption log says (39 and 105). -/
def Obligations.ManifestPortTransfers : Prop :=
  (∀ (s : State) (v : Fin 4096) (x : Voyage) (w : List Word) (win : Window), EntryStands s v x w → EntryRuns s v x w → quiet w →
    let p := tgtOf w
    let q := portOf s p
    let n := countOf w
    let a := addrOf w
    let lo := fieldOf (wd w 4) 0 15
    let k := fieldOf (wd w 4) 0 3
    let imm := (wd w 5).getLsbD 0
    let reg := (wd w 5).getLsbD 1
    let fits := imageFabBase q ≤ lo ∧ lo + n ≤ imageFabBase q + imageFabLen q
    let free := q.spadBad = [] ∧ q.spadSoft = []
    let bell := imageFabBase q + imageFabLen q - 4
    let memory := memoryBytes s win a
    let reads := MemoryReads s x a n n win
    let writes := MemoryWrites s x a n win
    let next (i : Instr) (t : State) (regs : Tab Word) (c : BitVec 2) : Prop :=
      exec i s = .next t ∧ t.cq = s.cq ∧ t.log = s.log ∧ GoesTo t v x (x.entry + 1) regs c
    let burst (b pos : Nat) : Nat := burstLen s { x with burst := b } w n pos
    let stored (l : List Byte) (i : Instr) : Prop :=
      ∃ t, next i t x.regs x.cond ∧ t.hostMem = s.hostMem ∧ t.bankMem = s.bankMem ∧ t.deck.mem = s.deck.mem ∧
        (portOf t p).spad = memPut q.spad lo l ∧ (∀ r, r ≠ p → portOf t r = portOf s r) ∧
        (lo < bell + 4 ∧ bell < lo + n → (portOf t p).evPend.getLsbD 15 = true)
    let brought (l : List Byte) (i : Instr) (c : BitVec 2) : Prop :=
      ∃ t, next i t x.regs c ∧ (∀ r, portOf t r = portOf s r) ∧
        t.hostMem = (storeBytes s win a l).hostMem ∧ t.bankMem = (storeBytes s win a l).bankMem ∧
        t.deck.mem = (storeBytes s win a l).deck.mem
    (opOf w = 0x02 → p < 96 → fits → free →
      (imm = true → reg = false → stored ((leBytes 4 (wd w 2).toNat).take n) (.mWrite v)) ∧
      (imm = false → reg = true → stored ((leBytes 4 (vreg x (fieldOf (wd w 5) 4 3)).toNat).take n) (.mWrite v)) ∧
      (imm = false → reg = false → reads → burst 0 lo = n → stored (memory n) (.mWrite v))) ∧
    (opOf w = 0x02 → p = 0xF4 → reads → burst 0 0 = n → ∃ t, MemoriesKept s t ∧
      next (.mWrite v) t (tPut x.regs k (BitVec.ofNat 32 (leNat (memory 4)))) x.cond) ∧
    (opOf w = 0x01 → p < 96 → fSink w = false → fits → free → writes → burst 0 lo = n →
      brought ((List.range n).map fun i => memRead q.spad (lo + i)) (.mRead v) 0) ∧
    (opOf w = 0x01 → p = 0xF4 → fSink w = false → writes → brought (leBytes 4 (vreg x k).toNat) (.mRead v) 0) ∧
    (opOf w = 0x04 → let j := fieldOf (wd w 4) 0 8 / 4
      let d := fieldOf (wd w 5) 0 3
      let y := tGet q.latched j 0
      (q.eng.state = .noImage → ∃ t, MemoriesKept s t ∧ next (.mSense v) t (tPut x.regs d 0) 2) ∧
      (q.eng.state ≠ .noImage → j < imageInWords q → ∃ t, MemoriesKept s t ∧
        next (.mSense v) t (tPut x.regs d y) (if q.latchedInvalid then 2 else if y &&& wd w 6 = wd w 2 then 0 else 1)))) ∧
  (∀ (s : State) (v : Fin 4096) (x : Voyage) (w : List Word) (b : Nat) (win : Window), MovesFrom s v x w b →
    let p := tgtOf w
    let q := portOf s p
    let n := countOf w
    let a := addrOf w + b
    let lo := fieldOf (wd w 4) 0 15
    let m := burstLen s { x with burst := b } w n (lo + b)
    let fits := imageFabBase q ≤ lo ∧ lo + n ≤ imageFabBase q + imageFabLen q ∧ q.spadBad = [] ∧ q.spadSoft = []
    let left := if b = 0 then n else 1
    let port := (List.range m).map fun i => memRead q.spad (lo + b + i)
    b < n → p < 96 → fits →
    (opOf w = 0x02 → (wd w 5).getLsbD 0 = false → (wd w 5).getLsbD 1 = false → MemoryReads s x a left m win →
      ∃ t, exec (.mWrite v) s = .next t ∧ MovedTo t v x w (b + m) n x.regs x.cond ∧
        (portOf t p).spad = memPut q.spad (lo + b) (memoryBytes s win a m) ∧ HostAndBanksKept s t ∧ t.deck.mem = s.deck.mem ∧ t.cq = s.cq) ∧
    (opOf w = 0x01 → fSink w = false → MemoryWrites s x a left win →
      ∃ t, exec (.mRead v) s = .next t ∧ MovedTo t v x w (b + m) n x.regs 0 ∧ (∀ r, portOf t r = portOf s r) ∧ t.cq = s.cq ∧
        t.hostMem = (storeBytes s win a port).hostMem ∧ t.bankMem = (storeBytes s win a port).bankMem ∧
        t.deck.mem = (storeBytes s win a port).deck.mem))

/-- R81, R375, R376: CONTROL and INVOKE make a request of the port's role image and wait; a request that finds the image running and no other before it is delivered at once with the port's commission number, and local event 13 becomes pending; when the answer has come, CONTROL goes on, and INVOKE takes the condition and the value as well; an answer other than 0 ends the voyage with it. What the rules leave open is taken as the assumption log says (45). -/
def Obligations.ManifestRequests : Prop :=
  ∀ (s : State) (v : Fin 4096) (x : Voyage) (w : List Word) (a : Answer) (m : Nat),
    let p := tgtOf w
    let q := portOf s p
    let arg := if (wd w 5).getLsbD 0 then vreg x (fieldOf (wd w 5) 4 3) else wd w 2
    let asks (i : Instr) (r : Request) : Prop :=
      ∃ t, exec i s = .next t ∧ t.cq = s.cq ∧ Waits s t v x w (.request p) ∧ (portOf t p).delivered = some (r, q.number) ∧
        (portOf t p).reqView = some r ∧ (portOf t p).evPend.getLsbD 13 = true ∧ (∀ k, k ≠ p → portOf t k = portOf s k)
    let answered := isRun s = true ∧ keysRise s.sch.voy ∧ voyOf s v = some x ∧ x.state = .active ∧ x.stage = .woken ∧
      x.timed = false ∧ x.halting = false ∧ x.suspending = false ∧ x.answer = some a ∧ x.cur = w
    let moves (t : State) (regs : Tab Word) (c : BitVec 2) : Prop :=
      ∃ y, voyOf t v = some y ∧ y.entry = x.entry + 1 ∧ y.regs = regs ∧ y.cond = c ∧ y.reached = x.reached
    (EntryRuns s v x w → quiet w → q.eng.state = .running → q.delivered = none → q.waiting = [] → q.joining = [] →
      (opOf w = 0x03 → asks (.mControl v) { invoke := false, vid := some v, cmd := wd w 2, arg := wd w 3 }) ∧
      (opOf w = 0x0A → asks (.mInvoke v) { invoke := true, vid := some v, cmd := wd w 3, arg := arg })) ∧
    (answered → quiet w → a.status = 0 →
      (opOf w = 0x03 → a.cond = none → a.value = none → ∃ t, exec (.mControl v) s = .next t ∧ moves t x.regs x.cond) ∧
      (opOf w = 0x0A → ∀ c d, a.cond = some c → a.value = some d →
        ∃ t, exec (.mInvoke v) s = .next t ∧ moves t (tPut x.regs (fieldOf (wd w 4) 0 3) d) c)) ∧
    (answered → a.status ≠ 0 → RingHasRoom s v x m → opOf w = 0x03 ∨ opOf w = 0x0A →
      ∃ t, exec (entryRowOf v w) s = .next t ∧ EndsWith s t v m x (wd w 7) 0 a.status.toNat a.ext.toNat)

/-- R79, R80, R90, R91, R132, R222, R246, R254, R257: QUEUE moves the mark, the read point and the release point of a queue, and tells in a register how many packets and bytes are visible; READ and FORWARD under SINK consume the packet at the read point, READ bringing its bytes to memory, with condition 1 and OK_SHORT where the packet is shorter than its buffer; a packet longer than `COUNT` is consumed and ends the voyage with LENGTH_ERROR, extended status 0x01 of a READ, and 0x03 of a FORWARD, which delivers nothing and tells a residual of `COUNT`; WRITE and FORWARD build a packet in a queue and commit it after the tail, FORWARD in a queue of the partition, the TX queue of a port, or on the path of an endpoint, with `IDENT` in word 0x00 (R411, R416); without a visible packet an untimed voyage waits. The transfers go one burst at a time, with a break point after each but the last, between which the claimed packet, or the packet under production, stays the voyage's. What the rules leave open is taken as the assumption log says (40, which gives the residual 0 of a READ that overruns, 42, 48 and 105). -/
def Obligations.ManifestQueues : Prop :=
  (∀ (s : State) (v : Fin 4096) (x : Voyage) (w : List Word) (q : Queue), EntryRuns s v x w → quiet w → opOf w = 0x0D →
     let n := fieldOf (wd w 4) 0 13
     let qop := fieldOf (wd w 5) 0 3
     let d := fieldOf (wd w 5) 4 3
     queueOf s n = some q → q.reading = [] → q.building = [] → Agent.voyage v ∉ q.waiting → Agent.voyage v ∉ q.woken →
     let next (i : Instr) (regs : Tab Word) (y : Queue) : Prop :=
       ∃ t, exec i s = .next t ∧ MemoriesKept s t ∧ t.cq = s.cq ∧ GoesTo t v x (x.entry + 1) regs x.cond ∧ queueOf t n = some y
     let gone := q.readAt - q.first
     (qop = 0 → next (.mQueueMark v) x.regs { q with mark := q.readAt }) ∧
     (qop = 1 → next (.mQueueRewind v) x.regs { q with readAt := q.mark }) ∧
     (qop = 2 → next (.mQueueRelease v) x.regs
       { q with packets := q.packets.drop gone, first := q.first + gone, mark := if q.mark < q.first + gone then q.readAt else q.mark }) ∧
     (qop = 3 → next (.mQueueDepth v) (tPut x.regs d (BitVec.ofNat 32 (q.first + q.packets.length - q.readAt))) q) ∧
     (qop = 4 → q.first ≤ q.readAt → next (.mQueueBytes v)
       (tPut x.regs d (BitVec.ofNat 32 (((q.packets.drop gone).map Packet.len).sum))) q)) ∧
  (∀ (s : State) (v : Fin 4096) (x : Voyage) (w : List Word) (win : Window) (q : Queue) (k : Packet),
     EntryStands s v x w → EntryRuns s v x w → quiet w →
     let n := countOf w
     let a := addrOf w
     let qn := fieldOf (wd w 4) 0 13
     let u := reachEntry s v x w
     let here := NoneBuilds s qn q ∧ q.reading = [] ∧ q.freed = [] ∧ Agent.voyage v ∉ q.waiting ∧ Agent.voyage v ∉ q.woken
     let offers := 0 < visible q ∧ packetAt q q.readAt = some k ∧ Sound s k
     let writes := MemoryWrites s x a n win
     let oneBurst := burstLen s { x with burst := 0 } w n 0 = n
     let consumed : Queue := { q with readAt := q.readAt + 1, cnt := bump q.cnt 2 }
     let next (i : Instr) (t : State) (c : BitVec 2) : Prop :=
       exec i s = .next t ∧ t.cq = s.cq ∧ t.log = s.log ∧ GoesTo t v x (x.entry + 1) x.regs c
     let bytes := packetBytes s.deck.mem k
     let stamped (i : Word) : List Byte := (leBytes 4 i.toNat).take k.len ++ bytes.drop 4
     (opOf w = 0x01 → tgtOf w = 0xF0 → fSink w = false → here → offers → k.len = n → writes → oneBurst →
       ∃ t, next (.mRead v) t 0 ∧ queueOf t qn = some consumed ∧ t.port = s.port ∧
         t.hostMem = (storeBytes s win a bytes).hostMem ∧ t.bankMem = (storeBytes s win a bytes).bankMem ∧
         t.deck.mem = (storeBytes s win a bytes).deck.mem) ∧
     (opOf w = 0x01 → tgtOf w = 0xF0 → fSink w = true → here → offers → k.len = n → oneBurst →
       ∃ t, next (.mRead v) t 0 ∧ queueOf t qn = some consumed ∧ MemoriesKept s t) ∧
     (opOf w = 0x01 → tgtOf w = 0xF0 → fSink w = true → here → visible q = 0 →
       ∃ t, exec (.mRead v) s = .next t ∧ Waits s t v x w (.queue qn) ∧ MemoriesKept s t ∧
         queueOf t qn = some { q with waiting := q.waiting ++ [.voyage v] }) ∧
     (opOf w = 0x01 → tgtOf w = 0xF0 → here → offers → k.len < n → (fSink w = false → writes) →
       burstLen s { x with burst := 0 } w k.len 0 = k.len →
       ∃ t, next (.mRead v) t 1 ∧ queueOf t qn = some consumed ∧
         let d := if fSink w then s else storeBytes s win a bytes
         t.hostMem = d.hostMem ∧ t.bankMem = d.bankMem ∧ t.deck.mem = d.deck.mem) ∧
     (opOf w = 0x0C → tgtOf w = 0xF0 → fSink w = true → here → offers → k.len ≤ n → k.len ≤ 64 →
       ∃ t, next (.mForward v) t x.cond ∧ queueOf t qn = some consumed ∧ MemoriesKept s t) ∧
     (opOf w = 0x02 → tgtOf w = 0xF0 → here → (wd w 5).getLsbD 0 = true → (wd w 5).getLsbD 1 = false →
       let r := appendBytes u (.voyage v) qn ((leBytes 4 (wd w 2).toNat).take n)
       r.refused = none →
       ∃ t, next (.mWrite v) t x.cond ∧ (q.port = none → t.port = s.port) ∧ t.hostMem = s.hostMem ∧ t.bankMem = s.bankMem ∧ t.deck.mem = r.state.deck.mem ∧
         ∃ b y, queueOf r.state qn = some b ∧ buildingOf b (.voyage v) = some y ∧ y.pkt.len = n ∧
           ∃ z, queueOf t qn = some z ∧ z.packets = q.packets ++ [y.pkt] ∧ z.building = [] ∧
             z.cnt = bumpBy (bump b.cnt 0) 1 n) ∧
     (opOf w = 0x0C → fSink w = false → x.path = none → here → offers → 0 < k.len → k.len ≤ n → k.len ≤ 64 → ∀ dn, qn ≠ dn →
       (tgtOf w = 0xF0 ∧ dn = fieldOf (wd w 5) 0 13 ∨
         tgtOf w < 96 ∧ dn = (portOf s (tgtOf w)).txq.toNat ∧ (portOf s (tgtOf w)).txq ≠ 0x1FFF) →
       ∀ d, NoneBuilds s dn d → memWf s.deck.mem = true →
       let r := appendBytes (markEffect (modQueue u qn fun y => claimPacket y (.voyage v)) v) (.voyage v) dn bytes
       r.refused = none →
       ∃ t, next (.mForward v) t x.cond ∧ queueOf t qn = some consumed ∧ t.hostMem = s.hostMem ∧ t.bankMem = s.bankMem ∧
         ∃ z y, queueOf t dn = some z ∧ z.packets = d.packets ++ [y] ∧ y.len = k.len ∧ z.building = [] ∧
           packetBytes t.deck.mem y = if wd w 6 = BitVec.allOnes 32 then bytes else stamped (wd w 6 &&& 0x7FFFFFFF)) ∧
     (opOf w = 0x0C → tgtOf w = 0xF2 → fSink w = false → x.path = none → here → offers → 0 < k.len → k.len ≤ n → k.len ≤ 64 →
       let eid := fieldOf (wd w 5) 0 14
       let e := epOf s eid
       e.state = .ready → e.owner.toNat = x.part → e.authEn = false → eid ≠ 0x3FFF → memWf s.deck.mem = true →
       (e.kind ≠ 2 → ∀ dn d, qn ≠ dn → (if e.port = 127 then dn = fieldOf (e.busAddr.setWidth 32) 0 13
           else (portOf s e.port.toNat).txq ≠ 0x1FFF ∧ dn = (portOf s e.port.toNat).txq.toNat) → NoneBuilds s dn d →
         let r := appendBytes (markEffect (modQueue u qn fun y => claimPacket y (.voyage v)) v) (.voyage v) dn bytes
         r.refused = none →
         ∃ t z y, next (.mForward v) t x.cond ∧ queueOf t qn = some consumed ∧ queueOf t dn = some z ∧ z.packets = d.packets ++ [y] ∧
           packetBytes t.deck.mem y = if e.port = 127 then bytes
             else stamped (if wd w 6 = BitVec.allOnes 32 then e.busAddr.setWidth 32 else wd w 6 &&& 0x7FFFFFFF)) ∧
       (e.kind = 2 → let m := if e.link then 1 else 0
         ∀ d, qn ≠ pathNo m → NoneBuilds s (pathNo m) d →
         let r := appendBytes (markEffect (modQueue u qn fun y => claimPacket y (.voyage v)) v) (.voyage v) (pathNo m) bytes
         r.refused = none →
         ∃ t g, next (.mForward v) t x.cond ∧ queueOf t qn = some consumed ∧ (linkOf t m).path = (linkOf s m).path ++ [g] ∧
           g.eid = eid ∧ g.stamp = e.number ∧ g.ident = wd w 6 ∧ g.bytes = bytes))) ∧
  (∀ (s : State) (v : Fin 4096) (x : Voyage) (w : List Word) (q : Queue) (k : Packet) (m : Nat),
     EntryStands s v x w → EntryRuns s v x w → RingHasRoom s v x m → fSink w = true → tgtOf w = 0xF0 →
     let n := countOf w
     let qn := fieldOf (wd w 4) 0 13
     NoneBuilds s qn q → q.reading = [] → q.freed = [] → Agent.voyage v ∉ q.waiting → Agent.voyage v ∉ q.woken →
     0 < visible q → packetAt q q.readAt = some k → Sound s k →
     let consumed : Queue := { q with readAt := q.readAt + 1, cnt := bump q.cnt 2 }
     (opOf w = 0x0C → n < k.len → ∃ t, exec (.mForward v) s = .next t ∧ t.deck.mem = s.deck.mem ∧ HostAndBanksKept s t ∧ queueOf t qn = some consumed ∧
       EndsWith s t v m x (wd w 7) n 0x15 0x03) ∧
     (opOf w = 0x01 → n < k.len → n ≤ 64 → ∃ t, exec (.mRead v) s = .next t ∧ t.deck.mem = s.deck.mem ∧ HostAndBanksKept s t ∧ queueOf t qn = some consumed ∧
       EndsWith s t v m x (wd w 7) 0 0x15 0x01) ∧
     (opOf w = 0x01 → k.len < n → k.len ≤ 64 → fEvt w = false → fOnward w = true → fPost w = true →
       ∃ t, exec (.mRead v) s = .next t ∧ MemoriesKept s t ∧ queueOf t qn = some consumed ∧
         GoesTo t v x (x.entry + 1) x.regs 1 ∧
         Publishes s t x.part m (recordOf (wd w 7) (n - k.len) 0x01 0 x.entry v false x s.tb.lsn))) ∧
  (∀ (s : State) (v : Fin 4096) (x : Voyage) (w : List Word) (b : Nat) (win : Window) (q : Queue) (k : Packet), MovesFrom s v x w b →
     let n := countOf w
     let a := addrOf w + b
     let qn := fieldOf (wd w 4) 0 13
     let left := if b = 0 then n else 1
     let m := burstLen s { x with burst := b } w n b
     let u := if b = 0 then reachEntry s v x w else s
     let claims := if b = 0 then q.reading = [] ∧ 0 < visible q ∧ packetAt q q.readAt = some k else heldPacket s v qn = some k
     let l := if (wd w 5).getLsbD 0 then (leBytes 4 (wd w 2).toNat).take n
       else if (wd w 5).getLsbD 1 then (leBytes 4 (vreg x (fieldOf (wd w 5) 4 3)).toNat).take n
       else memoryBytes s win a m
     b < n → tgtOf w = 0xF0 → queueOf s qn = some q →
     (opOf w = 0x01 → claims → Sound s k → k.len = n → (fSink w = false → MemoryWrites s x a left win) →
       ∃ t, exec (.mRead v) s = .next t ∧ MovedTo t v x w (b + m) n x.regs 0 ∧ t.port = s.port ∧ t.cq = s.cq ∧
         (b + m < n → heldPacket t v qn = some k) ∧
         let d := if fSink w then s else storeBytes s win a (((packetBytes s.deck.mem k).drop b).take m)
         t.hostMem = d.hostMem ∧ t.bankMem = d.bankMem ∧ t.deck.mem = d.deck.mem) ∧
     (opOf w = 0x02 → ((wd w 5).getLsbD 0 = false → (wd w 5).getLsbD 1 = false → MemoryReads s x a left m win) →
       rewoundBy s v qn = none → builtLen s v qn = b → (appendBytes u (.voyage v) qn l).refused = none →
       ∃ t, exec (.mWrite v) s = .next t ∧ MovedTo t v x w (b + l.length) n x.regs x.cond ∧ HostAndBanksKept s t ∧
         t.deck.mem = (appendBytes u (.voyage v) qn l).state.deck.mem ∧
         (b + l.length < n → builtLen t v qn = b + l.length) ∧
         (n ≤ b + l.length → ∃ z y, queueOf t qn = some z ∧ z.packets = q.packets ++ [y] ∧ y.len = b + l.length)) ∧
     (opOf w = 0x0C → claims → Sound s k → k.len ≤ n → b < k.len →
       let c := min (k.len - b) (64 - b % 64)
       let piece := ((packetBytes s.deck.mem k).drop b).take c
       let dn := fieldOf (wd w 5) 0 13
       let u' := if b = 0 then markEffect (modQueue u qn fun y => claimPacket y (.voyage v)) v else s
       (fSink w = true → ∃ t, exec (.mForward v) s = .next t ∧ MovedTo t v x w (b + c) k.len x.regs x.cond ∧ MemoriesKept s t ∧
         (b + c < k.len → heldPacket t v qn = some k)) ∧
       (fSink w = false → qn ≠ dn → (0 < b → ∃ e, x.path = some { path := .queue dn false, entry := e }) → rewoundBy s v dn = none →
         builtLen s v dn = b → (∀ y z, queueOf s dn = some y → buildingOf y (.voyage v) = some z → z.pkt.cells.length = (b + 63) / 64) →
         (appendBytes u' (.voyage v) dn piece).refused = none →
         ∃ t, exec (.mForward v) s = .next t ∧ MovedTo t v x w (b + c) k.len x.regs x.cond ∧ HostAndBanksKept s t ∧
           (b + c < k.len → heldPacket t v qn = some k ∧ builtLen t v dn = b + c) ∧
           (∀ d, queueOf s dn = some d → k.len ≤ b + c → ∃ z y, queueOf t dn = some z ∧ z.packets = d.packets ++ [y] ∧ y.len = k.len))))

/-- R89, R264, R270, R271: BARGE loads the descriptor at its address, and an idle channel takes it over at once with its mismatch latch cleared; the voyage's watch is armed and the voyage goes on. A channel whose shadow set is taken makes the voyage wait. What the rules leave open is taken as the assumption log says (43). -/
def Obligations.ManifestBarge : Prop :=
  ∀ (s : State) (v : Fin 4096) (x : Voyage) (w : List Word) (win : Window) (d : Descriptor),
    EntryStands s v x w → EntryRuns s v x w → quiet w → opOf w = 0x0B →
    let n := fieldOf (wd w 4) 0 5
    let a := addrOf w
    let l := (List.range 32).map fun i => byteAt s win (a + i)
    windowFail s x.part a 32 .read = none → windowAt s x.part a = some win → asleepAt s x.part a = none →
    (∀ i, i < 32 → lostByte s win (a + i) = false) → a % 32 = 0 → parseDesc l false = some d →
    ((chanOf s n).active = none → (chanOf s n).shadow = none → (chanOf s n).waiting = [] →
      ∃ t y, exec (.mBarge v) s = .next t ∧ MemoriesKept s t ∧ t.cq = s.cq ∧ GoesTo t v x (x.entry + 1) x.regs x.cond ∧
        (chanOf t n).active = some { desc := d } ∧ (chanOf t n).shadow = none ∧ (chanOf t n).latch = none ∧
        (∀ k, k ≠ n → chanOf t k = chanOf s k) ∧ voyOf t v = some y ∧ y.watch = some { channel := n }) ∧
    ((chanOf s n).active ≠ none → (chanOf s n).shadow = none →
      ∃ t, exec (.mBarge v) s = .next t ∧ MemoriesKept s t ∧ GoesTo t v x (x.entry + 1) x.regs x.cond ∧
        (chanOf t n).active = (chanOf s n).active ∧ (chanOf t n).shadow = some d) ∧
    ((chanOf s n).shadow ≠ none → ∃ t, exec (.mBarge v) s = .next t ∧ MemoriesKept s t ∧ Waits s t v x w (.shadow n) ∧
      (chanOf t n).shadow = (chanOf s n).shadow)

/-- R92, R484, R485, R487, R488: AUTH sets condition 3 where no packet is visible; otherwise the crypto engine accepts the packet at the read point and the voyage waits for the answer. What it finds is settled at acceptance: condition 3 for a message too short, 1 for a bad MAC, 2 for a freshness not higher than the endpoint's, 0 for a good MAC with a higher freshness, which the endpoint takes; AUTH_FAIL for an endpoint without a usable key. The queue is as it was. The answers come in the order in which the engine took the requests, and no other is taken: an answer sets the condition found, or ends the voyage with AUTH_FAIL and the extended status found, whatever has become of the endpoint and its key meanwhile. What the rules leave open is taken as the assumption log says (44, 91, 101). -/
def Obligations.ManifestAuthentication : Prop :=
  (∀ (s : State) (v : Fin 4096) (x : Voyage) (w : List Word) (q : Queue) (k : Packet),
    EntryStands s v x w → EntryRuns s v x w → quiet w → opOf w = 0x10 →
    let qn := fieldOf (wd w 4) 0 13
    let eid := fieldOf (wd w 5) 0 14
    let e := epOf s eid
    let msg := packetBytes s.deck.mem k
    let body := msg.take (msg.length - 8)
    let fresh := BitVec.ofNat 64 (leNat (body.drop (msg.length - 16)))
    let key := (slotOf s e.keySlot.toNat).material
    let good := msg.drop (msg.length - 8) = macOf key eid body
    let found (r : AuthFinding) (f : Endpoint) : Prop :=
      ∃ t, exec (.mAuth v) s = .next t ∧ MemoriesKept s t ∧ Waits s t v x w .crypto ∧ queueOf t qn = some q ∧
        (∀ k, k ≠ eid → epOf t k = epOf s k) ∧ epOf t eid = f ∧ v.val ∈ cryptoQueue t ∧
        (v.val ∉ s.sec.crypto → (cryptoQueue t).getLast? = some v.val) ∧ ∃ y, voyOf t v = some y ∧ y.auth = some r
    queueOf s qn = some q →
    (visible q = 0 → ∃ t, exec (.mAuth v) s = .next t ∧ MemoriesKept s t ∧ GoesTo t v x (x.entry + 1) x.regs 3) ∧
    (0 < visible q → packetAt q q.readAt = some k → Sound s k →
      (∀ n, authFail s x.part e e.rxFresh = some n → found (.fail n) e) ∧
      (authFail s x.part e e.rxFresh = none →
        (msg.length < 16 → found (.cond 3) e) ∧
        (16 ≤ msg.length → ¬ good → found (.cond 1) e) ∧
        (16 ≤ msg.length → good → fresh.toNat ≤ e.rxFresh.toNat → found (.cond 2) e) ∧
        (16 ≤ msg.length → good → e.rxFresh.toNat < fresh.toNat → found (.cond 0) { e with rxFresh := fresh })))) ∧
  (∀ (s : State) (v : Fin 4096) (x : Voyage) (w : List Word) (m : Nat),
    isRun s = true → keysRise s.sch.voy → voyOf s v = some x → x.state = .parked → x.park = .crypto →
    x.timed = false → x.halting = false → x.suspending = false → x.cur = w → s.sch.inService ≠ 0 →
    ((cryptoQueue s).head? ≠ some v.val → exec (.cryptoAnswer v) s = .next s) ∧
    (∀ c, (cryptoQueue s).head? = some v.val → x.auth = some (.cond c) → quiet w →
      ∃ t y, exec (.cryptoAnswer v) s = .next t ∧ MemoriesKept s t ∧ t.cq = s.cq ∧ (∀ k, epOf t k = epOf s k) ∧
        voyOf t v = some y ∧ y.entry = x.entry + 1 ∧ y.regs = x.regs ∧ y.cond = c ∧ y.auth = none) ∧
    (∀ n, (cryptoQueue s).head? = some v.val → x.auth = some (.fail n) → RingHasRoom s v x m →
      ∃ t, exec (.cryptoAnswer v) s = .next t ∧ EndsWith s t v m x (wd w 7) 0 0x40 n))

/-- R93, R132, R222, R415, R417: ENDPOINT sends its bytes as one message, burst by burst, on the path of its first lookup: to the discovery sink, stamped with the number of the entry that it matches; to the queue of an endpoint on the device; or to the transmit path of its link, with the entry's number. What the rules leave open is taken as the assumption log says (44 and 68). -/
def Obligations.ManifestEndpointMessages : Prop :=
  (∀ (s : State) (v : Fin 4096) (x : Voyage) (w : List Word) (win : Window), EntryStands s v x w → EntryRuns s v x w → quiet w →
    opOf w = 0x11 → x.path = none → burstLen s { x with burst := 0 } w (countOf w) 0 = countOf w →
    let n := countOf w
    let a := addrOf w
    let eid := fieldOf (wd w 4) 0 14
    let e := epOf s eid
    let l := memoryBytes s win a n
    let u := reachEntry s v x w
    let next (t : State) : Prop := exec (.mEndpoint v) s = .next t ∧ t.cq = s.cq ∧ GoesTo t v x (x.entry + 1) x.regs x.cond
    MemoryReads s x a n n win →
    (eid = 0x3FFF → x.gather = [] → sinkCells s + (n + 63) / 64 ≤ 4096 →
      ∃ t, next t ∧ MemoriesKept s t ∧ t.ep.sink = s.ep.sink ++ [match sinkEntry s x.part l with
        | none => { eid := 0x3FFF, stamp := 0, sender := x.part, bytes := l }
        | some (i, d) => { eid := i, stamp := d.number, sender := x.part, bytes := l }]) ∧
    (eid ≠ 0x3FFF → e.state = .ready → e.owner.toNat = x.part → e.authEn = false →
      (e.kind = 2 → n ≤ 65535 → let k := if e.link then 1 else 0
        ∀ q, NoneBuilds s (pathNo k) q →
        (appendBytes u (.voyage v) (pathNo k) l).refused = none →
        ∃ t g y, next t ∧ t.hostMem = s.hostMem ∧ t.bankMem = s.bankMem ∧
          (linkOf t k).path = (linkOf s k).path ++ [g] ∧ g.eid = eid ∧ g.stamp = e.number ∧ g.sender = x.part ∧ g.ident = wd w 6 ∧
          ∃ z, queueOf t (pathNo k) = some z ∧ z.packets = q.packets ++ [y] ∧ y.len = n ∧ z.building = []) ∧
      (e.kind ≠ 2 → ∀ qn q, (if e.port = 127 then qn = fieldOf (e.busAddr.setWidth 32) 0 13
          else (portOf s e.port.toNat).txq ≠ 0x1FFF ∧ qn = (portOf s e.port.toNat).txq.toNat) →
        NoneBuilds s qn q → (appendBytes u (.voyage v) qn l).refused = none →
        ∃ t y, next t ∧ (q.port = none → t.port = s.port) ∧ t.hostMem = s.hostMem ∧ t.bankMem = s.bankMem ∧
          ∃ z, queueOf t qn = some z ∧ z.packets = q.packets ++ [y] ∧ y.len = n ∧ z.building = []))) ∧
  (∀ (s : State) (v : Fin 4096) (x : Voyage) (w : List Word) (b : Nat) (win : Window) (sd : Sending),
    MovesFrom s v x w b → opOf w = 0x11 →
    let n := countOf w
    let a := addrOf w + b
    let eid := fieldOf (wd w 4) 0 14
    let m := burstLen s { x with burst := b } w n b
    let l := memoryBytes s win a m
    let u := if b = 0 then reachEntry s v x w else s
    let goes (t : State) : Prop := exec (.mEndpoint v) s = .next t ∧ MovedTo t v x w (b + m) n x.regs x.cond ∧ t.cq = s.cq
    b < n → MemoryReads s x a (if b = 0 then n else 1) m win →
    (if b = 0 then sendPath s x.part eid = .inr sd.path ∧ sd.entry = epOf s eid else x.path = some sd) → tooLong sd n = false →
    (sd.path = .sink → b + m < n → ∃ t y, goes t ∧ MemoriesKept s t ∧ t.ep = s.ep ∧ voyOf t v = some y ∧ y.gather = x.gather ++ l) ∧
    (sd.path = .sink → n ≤ b + m → sinkCells s + (x.gather.length + m + 63) / 64 ≤ 4096 →
      ∃ t g, goes t ∧ MemoriesKept s t ∧ t.ep.sink = s.ep.sink ++ [g] ∧ g.bytes = x.gather ++ l ∧ g.sender = x.part) ∧
    (∀ qn, pathQueue sd.path = some qn → (queueOf s qn).isSome = true → rewoundBy s v qn = none → builtLen s v qn = b →
      (appendBytes u (.voyage v) qn l).refused = none → b + m < n →
      ∃ t y, goes t ∧ HostAndBanksKept s t ∧ builtLen t v qn = b + m ∧ voyOf t v = some y ∧ y.path = some sd))

/-- R50, R52, R75, R97 to R100, R102 to R104, R126, R128, R452: suspension: an entry with PAUSE gives up its slot and posts a SUSPENDED record, or parks with that record where the ring is full, unless the pending-resume latch is set, which it clears instead; a resume event that the partition does not own ends the voyage; a pulse of the resume event lets a suspended voyage go on, a timed one at its next landing, and does nothing to any other; a resumed voyage goes on at step 5. Data chains: an entry with SPAN leads to the next one, at the bytes that follow, with the checkpoint of the first; the last entry posts for the chain, one that ends short gives the residual of the whole chain, and a skipped first entry skips them all; SPAN before no entry of the same operation and target is a format error. Entries of timed voyages: each is charged by the table of R126, the first budget that is short ends the voyage with BUDGET_EXCEEDED, records are held with a place in the ring, at MAX_ENTRIES the voyage parks, a page that is not pinned makes it untimed, and SENSE, QUEUE and READ see what the last landing of its class left. What the rules leave open is taken as the assumption log says (41, 46 and 119). -/
def Obligations.SuspensionChainsAndTimedEntries : Prop :=
  (∀ (s : State) (v : Fin 4096) (x : Voyage) (w : List Word) (m : Nat) (c : CompRing), EntryStands s v x w → entryFormat s x w = none →
     (condOf w).testBit x.cond.toNat = true → fPause w = true →
     let resen : Bool := (wd w 4).getLsbD 21
     let resev := fieldOf (wd w 4) 22 10
     let allowed : Prop := resen = true → ownsEvent s x.part resev = true
     let run := exec (entryRowOf v w) s
     let record := recordOf (wd w 7) 0 0x03 0 x.entry v false x
     (x.resumeLatch = false → allowed → RingHasRoom s v x m → ∃ t y, run = .next t ∧ MemoriesKept s t ∧ Publishes s t x.part m (record s.tb.lsn) ∧
       voyOf t v = some y ∧ y.state = .suspended ∧ y.slot = none ∧ y.stage = .resumed ∧ y.entry = x.entry ∧ y.cur = w ∧ y.regs = x.regs ∧
       y.cond = x.cond ∧ y.reached = x.reached + 1 ∧ y.resumeLatch = false) ∧
     (x.resumeLatch = false → allowed → x.cring = some m → cqOf s x.part m = some c → c.fault = false → c.size ≤ occupancy c →
       ∃ t y, run = .next t ∧ MemoriesKept s t ∧ cqOf t x.part m = some { c with parked := c.parked ++ [v.val], cnt := bump c.cnt 3 } ∧
         voyOf t v = some y ∧ y.state = .parked ∧ y.park = .room m ∧ y.slot = none ∧ y.suspending = true ∧ y.posting = some (record 0)) ∧
     (x.resumeLatch = false → resen = true → ownsEvent s x.part resev = false → RingHasRoom s v x m →
       ∃ t, run = .next t ∧ EndsWith s t v m x (wd w 7) 0 0x13 0x04) ∧
     (x.resumeLatch = true → (∀ st e, ownFail s x w = some (st, e) → RingHasRoom s v x m → ∃ t, run = .next t ∧ EndsWith s t v m x (wd w 7) 0 st e) ∧
       (opOf w = 0x00 → quiet w → ∃ t y, run = .next t ∧ MemoriesKept s t ∧ t.cq = s.cq ∧ GoesTo t v x (x.entry + 1) x.regs x.cond ∧
         voyOf t v = some y ∧ y.resumeLatch = false))) ∧
  (∀ (s : State) (v u : Fin 4096) (x y : Voyage) (w : List Word), EntryRuns s v x w → quiet w → opOf w = 0x0F → s.sch.inService ≠ 0 →
     let e := fieldOf (wd w 4) 0 10
     let awaits : Prop := y.state = .suspended ∧ (wd y.cur 4).getLsbD 21 = true ∧ fieldOf (wd y.cur 4) 22 10 = e
     512 ≤ e → (partOf s x.part).evtBase ≤ e → e < (partOf s x.part).evtBase + (partOf s x.part).evtCount → x.watch = none →
     voyOf s u = some y → u ≠ v → (∀ k, y.watch = some k → k.channel < 32) → ∃ t z, exec (.mSignal v) s = .next t ∧ GoesTo t v x (x.entry + 1) x.regs x.cond ∧ voyOf t u = some z ∧
       (awaits → y.timed = false → (z.state = .ready ∨ z.state = .active) ∧ z.stage = .resumed ∧ z.entry = y.entry ∧ z.cur = y.cur) ∧
       (awaits → y.timed = true → z = { y with resumeAt := some (min (y.resumeAt.getD (dueLsn s y.xclass)) (dueLsn s y.xclass)) }) ∧
       (¬ awaits → y.state ≠ .ready → (∀ k, y.park ≠ .event k) → z.state = y.state ∧ z.resumeLatch = y.resumeLatch ∧ z.resumeAt = y.resumeAt)) ∧
  (∀ (s : State) (v : Fin 4096) (x : Voyage) (w : List Word) (m : Nat), isRun s = true → keysRise s.sch.voy → voyOf s v = some x →
     x.state = .active → x.stage = .resumed → x.timed = false → x.halting = false → x.suspending = false → x.cur = w → x.answer = none →
     (∀ st e, ownFail s x w = some (st, e) → RingHasRoom s v x m → entryFormat s x w = none →
       ∃ t, exec (entryRowOf v w) s = .next t ∧ EndsWith s t v m x (wd w 7) 0 st e) ∧
     (opOf w = 0x00 ∨ opOf w = 0x08 → tgtOf w = 0xF4 → quiet w → ∃ t y, exec (entryRowOf v w) s = .next t ∧ MemoriesKept s t ∧ t.cq = s.cq ∧ voyOf t v = some y ∧
       y.entry = x.entry + 1 ∧ y.ckEntry = x.entry + 1 ∧ y.cond = x.cond ∧ y.reached = x.reached ∧
       y.regs = if opOf w = 0x08 then tPut x.regs (fieldOf (wd w 4) 0 3) (wd w 2) else x.regs)) ∧
  (∀ (s : State) (v : Fin 4096) (x : Voyage) (w w' : List Word) (win : Window) (m : Nat) (q : Queue) (k : Packet), EntryStands s v x w →
     (condOf w).testBit x.cond.toNat = true → fPause w = false →
     let n := countOf w
     let n' := countOf w'
     let a := addrOf w
     let p := tgtOf w
     let lo := fieldOf (wd w 4) 0 15
     let qn := fieldOf (wd w 4) 0 13
     let run := exec (entryRowOf v w) s
     let chained : Prop := fSpan w = true ∧ entryFormat s x w = none ∧ ownFail s x w = none
     let last : Prop := entryWords s x (x.entry + 1) = some w' ∧ entryFormat s { x with entry := x.entry + 1, chainK := n } w' = none ∧ fSpan w' = false ∧
       fOnward w' = true ∧ fEvt w' = false ∧ fPost w' = true
     let fits := imageFabBase (portOf s p) ≤ lo ∧ lo + n ≤ imageFabBase (portOf s p) + imageFabLen (portOf s p) ∧ (portOf s p).spadBad = [] ∧ (portOf s p).spadSoft = []
     let goneOn (t : State) (cond : BitVec 2) : Prop := ∃ y, voyOf t v = some y ∧ y.entry = x.entry + 2 ∧ y.ckEntry = x.entry + 2 ∧ y.chainK = 0 ∧ y.stage = .fresh ∧
       y.cond = cond ∧ y.regs = x.regs ∧ y.reached = x.reached + 2
     (chained → opOf w = 0x01 → p < 96 → fSink w = false → fits → MemoryWrites s x a n win → burstLen s { x with burst := 0 } w n lo = n →
       let d := storeBytes s win a ((List.range n).map fun i => memRead (portOf s p).spad (lo + i))
       ∃ t y, run = .next t ∧ t.cq = s.cq ∧ t.hostMem = d.hostMem ∧ t.bankMem = d.bankMem ∧ t.deck.mem = d.deck.mem ∧ voyOf t v = some y ∧
         y.state = .active ∧ y.stage = .fresh ∧ y.entry = x.entry + 1 ∧ y.ckEntry = x.ckEntry ∧ y.chainK = n ∧ y.moved = n ∧ y.first = w ∧
         y.reached = x.reached + 1 ∧ y.regs = x.regs) ∧
     (chained → last → RingHasRoom s v x m → opOf w = 0x01 → tgtOf w = 0xF0 → fSink w = true → NoneBuilds s qn q → q.reading = [] → q.freed = [] →
       Agent.voyage v ∉ q.waiting → Agent.voyage v ∉ q.woken → 0 < visible q → packetAt q q.readAt = some k → Sound s k → k.len ≤ n → k.len ≤ 64 →
       ∃ t, run = .next t ∧ MemoriesKept s t ∧ queueOf t qn = some { q with readAt := q.readAt + 1, cnt := bump q.cnt 2 } ∧ goneOn t 1 ∧
         Publishes s t x.part m (recordOf (wd w' 7) (n + n' - k.len) 0x01 0 (x.entry + 1) v false x s.tb.lsn)) ∧
     (fSpan w = true → operandRow w ≠ none → reservedOp (opOf w) = false → RingHasRoom s v x m →
       (x.entry + 1 = entryCount x ∨ (x.entry + 1 < entryCount x ∧ entryWords s x (x.entry + 1) = some w' ∧ (opOf w' ≠ opOf w ∨ tgtOf w' ≠ tgtOf w))) →
       ∃ t e, e ≤ 0x09 ∧ run = .next t ∧ EndsWith s t v m x (wd w 7) 0 0x16 e)) ∧
  (∀ (s : State) (v : Fin 4096) (x : Voyage) (w w' : List Word) (m : Nat), EntryStands s v x w → (condOf w).testBit x.cond.toNat = false →
     fSpan w = true → entryFormat s x w = none → entryWords s x (x.entry + 1) = some w' →
     entryFormat s { x with entry := x.entry + 1, chainK := countOf w } w' = none → fSpan w' = false → x.entry + 2 < entryCount x →
     (fPost w' = true → RingHasRoom s v x m) →
     ∃ t y, exec (entryRowOf v w) s = .next t ∧ MemoriesKept s t ∧ voyOf t v = some y ∧ y.entry = x.entry + 2 ∧ y.ckEntry = x.entry + 2 ∧
       y.cond = x.cond ∧ y.regs = x.regs ∧ (fPost w' = false → t.cq = s.cq) ∧
       (fPost w' = true → Publishes s t x.part m (recordOf (wd w' 7) 0 0x02 0 (x.entry + 1) v false x s.tb.lsn))) ∧
  (∀ (s : State) (v : Fin 4096) (x : Voyage) (w : List Word) (win : Window) (m : Nat), isRun s = true → keysRise s.sch.voy → voyOf s v = some x →
     x.state = .active → x.stage = .fresh → x.timed = false → x.entry = x.ckEntry + 1 → x.countedTo ≤ x.entry → x.answer = none → x.suspending = false →
     x.halting = false → entryWords s x x.entry = some w → (lookAhead s x).2 = none → entryFormat s x w = none → fSpan w = false → x.burst = 0 →
     fOnward w = true → fEvt w = false → fPost w = true → RingHasRoom s v x m → opOf w = 0x01 → tgtOf w < 96 → fSink w = false →
     let q := portOf s (tgtOf w)
     let n := countOf w
     let lo := fieldOf (wd x.first 4) 0 15 + x.chainK
     let a := addrOf w
     imageFabBase q ≤ lo → lo + n ≤ imageFabBase q + imageFabLen q → q.spadBad = [] → q.spadSoft = [] → MemoryWrites s x a n win → burstLen s x w n lo = n →
     let d := storeBytes s win a ((List.range n).map fun i => memRead q.spad (lo + i))
     ∃ t, exec (.mRead v) s = .next t ∧ t.hostMem = d.hostMem ∧ t.bankMem = d.bankMem ∧ t.deck.mem = d.deck.mem ∧ GoesTo t v x (x.entry + 1) x.regs 0 ∧
       Publishes s t x.part m (recordOf (wd w 7) 0 0 0 x.entry v false x s.tb.lsn)) ∧
  (∀ (s : State) (v : Fin 4096) (x : Voyage) (w : List Word) (m : Nat) (c : CompRing), isRun s = true → keysRise s.sch.voy → voyOf s v = some x → x.timed = true →
     x.state = .active → x.stage = .fresh → x.entry = x.ckEntry → x.countedTo ≤ x.entry → x.answer = none → x.suspending = false → x.halting = false → x.saw = false →
     x.chainK = 0 → x.chainCharged = false → x.resumes = [] → x.entry < entryCount x → entryWords s x x.entry = some w → fSpan w = false →
     entryFormat s x w = none → (condOf w).testBit x.cond.toNat = true → fPause w = false → s.sch.inService ≠ 0 →
     let op := opOf w
     let t' := tgtOf w
     let up (k : Nat) : Nat := (countOf w + k - 1) / k
     let moves : Prop := op = 0x01 ∨ op = 0x02
     let charge := (if op = 0x0E ∨ op = 0x0D then 12 else if op = 0x04 ∨ moves ∧ t' = 0xF4 then 16 else if moves ∧ t' < 96 then 16 + up 8
         else if moves then 24 + up 16 else if op = 0x0B then 24 else if op = 0x03 ∨ op = 0x0A then 32 else if op = 0x0C ∨ op = 0x11 then 32 + up 16
         else if op = 0x10 then 64 else 8) +
       (if fPost w ∨ op = 0x0E then 8 else 0) + (if fEvt w then 4 else 0) + (if fBar w then 4 else 0)
     let cells := if op = 0x02 ∧ t' = 0xF0 ∨ op = 0x11 ∨ op = 0x0C ∧ fSink w = false then up 64 else 0
     let pinned : Prop := ∃ g, cachedPage s x.part (pageOf (entryAddr x x.entry)) = some g ∧ v.val ∈ g.pins
     let room : Prop := x.cring = some m ∧ cqOf s x.part m = some c ∧ c.fault = false ∧ occupancy c < c.size
     let holds (t : State) (y : Voyage) (r : BitVec 128) : Prop := y.heldRecs = x.heldRecs ++ [r] ∧ cqOf t x.part m = some { c with held := c.held + 1 }
     let overspends (e : Nat) : Prop := ∃ t y, exec (entryRowOf v w) s = .next t ∧ MemoriesKept s t ∧ voyOf t v = some y ∧ y.state = .ending ∧ y.slot = none ∧
       holds t y (recordOf (wd w 7) 0 0x21 e x.entry v false x 0)
     let goes (i : Instr) (regs : Tab Word) (cond : BitVec 2) : Prop := ∃ t y, exec i s = .next t ∧ MemoriesKept s t ∧ voyOf t v = some y ∧ y.timed = true ∧
       y.entry = x.entry + 1 ∧ y.ckEntry = x.entry + 1 ∧ y.cycles = x.cycles - charge ∧ y.cells = x.cells ∧ y.reached = x.reached + 1 ∧ y.regs = regs ∧ y.cond = cond ∧
       (x.reached + 1 < maxEntries x → y.state = .active ∨ y.state = .parked ∧ y.park = .miss (pageOf (entryAddr x (x.entry + 1)))) ∧
       (maxEntries x ≤ x.reached + 1 → y.state = .parked ∧ y.park = .maxEntries ∧ y.slot = none) ∧
       (fPost w = false → t.cq = s.cq ∧ y.heldRecs = x.heldRecs) ∧ (fPost w = true → room → holds t y (recordOf (wd w 7) 0 0 0 x.entry v false { x with cond := cond } 0))
     let paid : Prop := charge ≤ x.cycles ∧ cells ≤ x.cells
     let d := fieldOf (wd w 5) 0 3
     (pinned → room → x.cycles < charge → overspends 1) ∧
     (pinned → room → charge ≤ x.cycles → x.cells < cells → overspends 2) ∧
     (pinned → paid → fOnward w = true → fEvt w = false → (fPost w = true → room) → ownFail s x w = none →
       (op = 0x00 → goes (.mNop v) x.regs x.cond) ∧ (op = 0x08 → goes (.mSetv v) (tPut x.regs (fieldOf (wd w 4) 0 3) (wd w 2)) x.cond) ∧
       (op = 0x04 → ∀ l (bad : Bool), tGet (portOf s t').byClass x.xclass ([], true) = (l, bad) → (portOf s t').eng.state ≠ .noImage →
         fieldOf (wd w 4) 0 8 / 4 < imageInWords (portOf s t') → let y := tGet l (fieldOf (wd w 4) 0 8 / 4) 0
         goes (.mSense v) (tPut x.regs d y) (if bad then 2 else if y &&& wd w 6 = wd w 2 then 0 else 1)) ∧
       (op = 0x0D → fieldOf (wd w 5) 0 3 = 3 → ∀ q, queueOf s (fieldOf (wd w 4) 0 13) = some q → q.reading = [] → q.building = [] →
         Agent.voyage v ∉ q.waiting → Agent.voyage v ∉ q.woken → goes (.mQueueDepth v)
           (tPut x.regs (fieldOf (wd w 5) 4 3) (BitVec.ofNat 32 (min (tGet q.bounds x.xclass 0) (q.first + q.packets.length) - q.readAt))) x.cond) ∧
       (op = 0x01 → t' = 0xF0 → fSink w = true → fPost w = false → ∀ q, queueOf s (fieldOf (wd w 4) 0 13) = some q → q.reading = [] → q.building = [] →
         Agent.voyage v ∉ q.waiting → Agent.voyage v ∉ q.woken → min (tGet q.bounds x.xclass 0) (q.first + q.packets.length) ≤ q.readAt →
         goes (.mRead v) x.regs 3)) ∧
     (¬ pinned → op = 0x00 → quiet w → ∃ t y, exec (.mNop v) s = .next t ∧ voyOf t v = some y ∧ y.timed = false ∧ y.demoted = true ∧ y.cycles = x.cycles ∧
       y.entry = x.entry + 1 ∧ y.resumeAt = none))

/-! ## The block as a whole -/

/-- A step is the effect of the command at the front of the queue on the state with the rest of the queue, and every command, in every state and with every operand, answers a next state: none faults and none is refused. No command puts one in the queue or takes one from it: a step leaves the rest of the queue. With no command waiting the step leaves the state as it is, which is the model's own choice (assumption 3). -/
def Obligations.StepRunsTheFrontCommand : Prop :=
  (∀ (c : Instr) (s : State) (l : List Instr),
    step { s with pending := c :: l } = exec c { s with pending := l } ∧ (∃ t, exec c s = .next t) ∧ (∃ t, step s = .next t) ∧
      step { s with pending := [] } = .next { s with pending := [] }) ∧
  ∀ s t : State, step s = .next t → t.pending = s.pending.tail

/-- R31, R179, R188, R218, R222, R287, R318, R457, R470, R518, R524, R557: the machine after reset: no clocked block runs; the boot schedule; every door idle with a full bucket; the steward's and the other partitions' rates, and neither windows, voyages nor rings; every engine without an image and both its banks empty; every queue, endpoint and channel free; no source pending or in service; the attributes of the sources. What the rules leave open is taken as the assumption log says (10 and 11). -/
def Obligations.ResetState : Prop :=
  let s := State.reset
  s.pending = [] ∧ isRun s = false ∧ s.pwr.coldBoot = true ∧ s.tb.t0 = 1000 ∧ s.tb.m1 = 1 ∧ s.tb.m2 = 1 ∧ s.tb.m3 = 1 ∧ s.tb.c = 20 ∧
    s.tb.running = false ∧ s.glb.lock = false ∧ s.glb.wrerr = 0 ∧ s.glb.landoutWidth = 10 ∧ s.pwr.holdLimit = 10 ∧
    s.sch.voy = [] ∧ s.sch.admBrate = 0x1000 ∧ s.sch.admCells = 0x8000 ∧ s.sch.quantum = 0x1000 ∧ s.sq = [] ∧ s.cq = [] ∧
    (∀ d : Fin 33, (mbxOf s d).state = .idle ∧ (mbxOf s d).tokens = 8000000 ∧ (mbxOf s d).version = none) ∧
    (∀ p : Fin 32, (partOf s p).mbxRate = (if p.val = 0 then 64 else 6) ∧ (partOf s p).wins = [] ∧ (partOf s p).prio = 7 ∧
      (partOf s p).vidCount = 0 ∧ (partOf s p).cells = 0 ∧ (partOf s p).keyslots = 0) ∧
    (∀ p : Fin 96, (portOf s p).eng.state = .noImage ∧ (portOf s p).owner = none ∧ (portOf s p).eng.pred = 1 ∧
      (portOf s p).bankA.st = .empty ∧ (portOf s p).bankB.st = .empty) ∧
    (∀ q : Fin 8192, queueOf s q = none) ∧ (∀ n : Fin 32, (chanOf s n).owner = none) ∧
    (∀ e : Fin 16384, (epOf s e).state = .free) ∧
    s.icu.pend = [] ∧ s.icu.serv = [] ∧ s.icu.gdis = false ∧
    (∀ n : Fin 1024, srcOf s n = if 576 ≤ n.val ∧ n.val ≤ 711 then { prio := 8, tgt := 1 } else {}) ∧
    (∀ t : Fin 32, targetOf s t = {}) ∧ s.log.ring = [] ∧ s.memWf = true ∧ s.inOrder

/-- Every memory keeps its canonical form: strictly rising addresses and no listed zero, so that equal memories are equal data. It holds in every state that a step leads to from a state where it holds; no reachable-state premise is needed. -/
def Obligations.StepKeepsMemories : Prop :=
  ∀ s t : State, s.memWf = true → step s = .next t → t.memWf = true

/-- The tables of voyages, slots, mailboxes and ports keep their canonical form, keys rising: a step from any state in which they have it leads to one in which they have it. Statements that take such a form as a premise rest on it. -/
def Obligations.StepKeepsTables : Prop :=
  ∀ s t : State, s.inOrder → step s = .next t → t.inOrder

/-! ## Voyages beside their entries (03_manifests.md, 04_voyages_and_ferry_engines.md) -/

/-- R68, R73, R76, R81, R84, R90, R132, R134, R250, R252: an untimed voyage gives up its slot at its preemption and at the end of its quantum: it re-enters Ready behind the others, with its progress kept, and free slots go to Ready voyages; at a preemption the slot goes to the first timed voyage of R131. An entry that has waited until its deadline ends its voyage with TIMEOUT, or with DECK_QUOTA and the test that refused it where it waits for a cell; a READ that waits for a packet ends with TIMEOUT and the condition EMPTY, and the voyage goes on. What the rules leave open is taken as the assumption log says (6, 40, which gives the residual 0 of a DECK_QUOTA record, and 46). -/
def Obligations.SlotsAndTimeouts : Prop :=
  (∀ (s : State) (v : Fin 4096) (x : Voyage) (k w : Nat) (y : Voyage), isRun s = true → keysRise s.sch.voy → keysRise s.sch.slots →
     voyOf s v = some x → x.state = .active → x.timed = false → x.slot = some k → voyOf s w = some y → y.state = .ready →
     let u : State := { s with sch := { s.sch with
       voy := tPut s.sch.voy v { x with state := .ready, park := .no, slot := none, since := s.sch.tick },
       slots := s.sch.slots.filter fun z => z.2 != v.val, tick := s.sch.tick + 1 } }
     (∃ t, exec (.quantumExpiry v) s = .next t ∧ Concluded u t) ∧
     (s.pwr.quiesce = false → s.pwr.thermal = false → y.timed = true → freeSlot s = none →
       (∀ j z, voyOf s j = some z → z.state = .active → z.timed = false → j ≠ v.val → x.since < z.since) →
       (∀ j, tFind s.sch.slots j = some v.val ↔ j = k) → k ∈ slotList s → firstTimed s = some w →
       ∃ t, exec (.voyagePreemption v) s = .next t ∧ Concluded u t ∧
         ∃ z, voyOf t w = some z ∧ (z.state = .active ∧ z.slot = some k ∨ z.state = .parked))) ∧
  (∀ (s : State) (v : Fin 4096) (x : Voyage) (d m : Nat), isRun s = true → keysRise s.sch.voy → voyOf s v = some x → x.state = .parked →
     x.stage = .waiting → x.timed = false → x.suspending = false → x.deadline = some d → d ≤ s.tb.time → RingHasRoom s v x m → s.sch.inService ≠ 0 →
     let ends (status ext residual : Nat) : Prop :=
       ∃ t, exec (.tmoExpiry v) s = .next t ∧ EndsWith s t v m x (wd x.cur 7) residual status ext
     ((∃ e, x.park = .event e) ∨ x.park = .landing ∨ (∃ p, x.park = .request p) ∨ (∃ n, x.park = .shadow n) → ends 0x11 0x01 0) ∧
     (∀ q, x.park = .queue q → opOf x.cur = 0x0C → ends 0x11 0x01 (countOf x.cur)) ∧
     (∀ q r, x.park = .quota q → opOf x.cur = 0x02 → opOf x.first = 0x02 → tgtOf x.first = 0xF0 →
       s.deck.stalls.find? (fun z => z.agent == .voyage v) = some r → ends 0x30 (if r.reason = 1 then 0x01 else 0x02) 0) ∧
     (∀ q, x.park = .queue q → opOf x.cur = 0x01 → fSpan x.cur = false → x.halting = false → quiet x.cur → x.entry = x.ckEntry →
       ∃ u t y, exec (.tmoExpiry v) s = .next t ∧ Concluded u t ∧ MemoriesKept s u ∧ u.cq = s.cq ∧ voyOf u v = some y ∧
         y.state = .ready ∧ y.entry = x.entry + 1 ∧ y.cond = 3 ∧ y.regs = x.regs))

/-- R61, R138 to R140: a page that its partition may execute from enters the cache with the bytes behind its window, in place of the least recently executed unpinned page of a full cache, and the voyages that missed it are Ready again; a bank in retention is wakened first; a voyage that missed a page without such a window ends with WINDOW_FAULT, the access counted, and so does a timed voyage not yet dispatched that pins the page, its record being held for its landing. What the rules leave open is taken as the assumption log says (37 and 38). -/
def Obligations.ManifestPagesArrive : Prop :=
  ∀ (s : State) (p : Fin 32) (poisoned : Bool) (f : Fill), isRun s = true → keysRise s.sch.voy →
    s.sch.fills.find? (fun f => f.part == p.val) = some f →
    let missed (x : Voyage) : Prop := x.part = p ∧ x.state = .parked ∧ x.park = .miss f.addr
    let pins (x : Voyage) : Prop := x.part = p ∧ x.timed = true ∧ (x.state = .candidate ∨ x.state = .admitted) ∧ f.addr ∈ pinnedPages x
    let kept := if s.sch.pages.length < 512 then s.sch.pages else s.sch.pages.eraseP fun g => g.pins.isEmpty
    (∀ k w, windowFail s p f.addr 4096 .manifest = none → windowOf s p f.addr = some (k, w) → asleepAt s p f.addr = none →
      (poisoned = true → w.space ≠ 0) → (∀ i, i < 4096 → lostByte s w (f.addr + i) = false) →
      ∃ (u t : State) (g : CachePage), exec (.manifestPageFillDone p poisoned) s = .next t ∧ Concluded u t ∧
        { u with sch := s.sch, deck := s.deck, bank := s.bank } = s ∧ u.deck.mem = s.deck.mem ∧
        u.sch.pages = (kept.filter fun h => !(h.part == p.val && h.addr == f.addr)) ++ [g] ∧
        g.part = p ∧ g.addr = f.addr ∧ g.window = k ∧ (∀ i, i < 4096 → memRead g.data i = byteAt s w (f.addr + i)) ∧
        u.sch.fills = s.sch.fills.filter (fun h => !(h.part == p.val && h.addr == f.addr)) ∧
        (s.sch.inService = 0 → u.sch.voy = s.sch.voy) ∧
        (∀ v x, s.sch.inService ≠ 0 → voyOf s v = some x → missed x → ∃ n, voyOf u v = some { x with state := .ready, park := .no, stage := .fresh, since := n }) ∧
        (∀ v x, voyOf s v = some x → ¬ missed x → voyOf u v = some x)) ∧
    (∀ b, windowFail s p f.addr 4096 .manifest = none → asleepAt s p f.addr = some b →
      ∃ t, exec (.manifestPageFillDone p poisoned) s = .next t ∧
        Concluded { s with bank := tPut s.bank b { bankOf s b with ret := false, leaving := true, waiting := true } } t) ∧
    (∀ (e : Nat) (v : Fin 4096) (x : Voyage) (m : Nat), windowFail s p f.addr 4096 .manifest = some e → voyOf s v = some x → x.suspending = false →
      s.sch.inService ≠ 0 → pageOf (entryAddr x x.entry) = f.addr → x.entry < entryCount x →
      (∀ w y, voyOf s w = some y → missed y ∨ pins y → w = v.val) → RingHasRoom s v x m →
      (missed x → x.timed = false →
        ∃ t, exec (.manifestPageFillDone p poisoned) s = .next t ∧ EndsWith s t v m x 0 0 0x14 0x04 ∧
          tGet (partOf t p).cnt 3 0 = tGet (partOf s p).cnt 3 0 + 1) ∧
      (pins x →
        ∃ t y, exec (.manifestPageFillDone p poisoned) s = .next t ∧ voyOf t v = some y ∧ y.state = .ending ∧
          y.heldRecs = [recordOf 0 0 0x14 0x04 x.entry v false x 0] ∧
          (∃ c, cqOf s x.part m = some c ∧ cqOf t x.part m = some { c with held := c.held + 1 }) ∧
          tGet (partOf t p).cnt 3 0 = tGet (partOf s p).cnt 3 0 + 1))

/-- R60 to R66, R117, R139, R163: the header of a START arrives, from the cache or from memory. A good header of an untimed voyage makes it Ready, with the registers of the header overlaid by those of the START and with the ports that its partition owns; one of a timed voyage makes it a candidate whose pages are being filled. A bad one, by its words or its alignment, ends the voyage with FORMAT_ERROR before its first entry; one without a completion ring refuses the START, as does a context that another voyage has taken by then. In autonomous hold no START passes its check: it stays on its way. What the rules leave open is taken as the assumption log says (37, 49, 50, which gives the refusal without a ring, and 95, which gives 0x01 before 0x02 where a header has faults of both kinds). -/
def Obligations.ManifestHeaders : Prop :=
  ∀ (s : State) (v : Fin 4096) (x : Voyage) (poisoned : Bool) (l : List Byte) (win : Window) (pg : CachePage), isRun s = true →
    keysRise s.sch.voy → onItsWay s v = some x → x.state = .candidate → x.header % 4096 ≤ 4032 → s.sch.rounds = [] →
    (headerPage s x = some pg ∧ l = memBytes pg.data (x.header % 4096) 64 ∨
      headerPage s x = none ∧ poisoned = false ∧ windowFail s x.part (pageOf x.header) 4096 .manifest = none ∧
        windowAt s x.part (pageOf x.header) = some win ∧ windowAt s x.part x.header = some win ∧ asleepAt s x.part x.header = none ∧
        (∀ i, i < 4096 → lostByte s win (pageOf x.header + i) = false) ∧
        l = (List.range 64).map fun i => byteAt s win (x.header + i)) →
    let h (k : Nat) : Word := wordAt l k
    let m := fieldOf (h 6) 16 3
    let count := fieldOf (h 6) 0 16
    let event := fieldOf (h 1) 16 10
    let pins := fieldOf (h 5) 16 9
    let pages := (pageOf (x.header + 64 + 32 * count - 1) - pageOf x.header) / 4096 + 1
    let aligned := x.header % 64 = 0
    let magic := h 0 = 0x00024D46
    let fields := fieldOf (h 1) 3 13 = 0 ∧ fieldOf (h 1) 26 6 = 0 ∧ fieldOf (h 3) 19 13 = 0 ∧ fieldOf (h 5) 25 7 = 0 ∧
      fieldOf (h 6) 19 13 = 0 ∧ h 7 = 0 ∧ (event = 0 ∨ 512 ≤ event) ∧ count ≠ 0
    let timely := h 2 ≠ 0 ∧ fieldOf (h 5) 0 16 ≠ 0 ∧ 1 ≤ pins ∧ pins ≤ 256 ∧ pins ≤ pages ∧ fieldOf (h 3) 0 19 ≤ 262144
    let register (k : Nat) : Word := ((x.overlay.reverse.find? fun o => o.1 == k).map Prod.snd).getD (h (8 + k))
    let starts (y : Voyage) : Prop := y.cring = some m ∧ y.part = x.part ∧ y.entry = 0 ∧ y.cond = x.cond ∧
      ∀ k, k < 8 → vreg y k = register k
    (voyOf s v = none → (cqOf s x.part m).isSome = true → aligned → magic → fields → ((h 1).getLsbD 0 = true → timely) → s.pwr.hold = true →
      ∃ t, exec (.manifestHeaderArrival v poisoned) s = .next t ∧ voyOf t v = none ∧ t.cq = s.cq ∧ ∃ y, (v.val, y) ∈ t.sch.starting ∧
        y.part = x.part ∧ y.header = x.header ∧ y.overlay = x.overlay) ∧
    (voyOf s v = none → (cqOf s x.part m).isSome = true → aligned → magic → fields → x.entry = 0 → s.pwr.hold = false →
      ((h 1).getLsbD 0 = false → ∃ u t y, exec (.manifestHeaderArrival v poisoned) s = .next t ∧ Concluded u t ∧ voyOf u v = some y ∧
        starts y ∧ y.state = .ready ∧ y.timed = false ∧ (∀ p q, keysRise s.port → tFind s.port p = some q → q.owner = some x.part →
          tFind y.captured p = some q.number)) ∧
      ((h 1).getLsbD 0 = true → timely → ∃ u t y, exec (.manifestHeaderArrival v poisoned) s = .next t ∧
        Concluded u t ∧ voyOf u v = some y ∧ starts y ∧ y.state = .candidate ∧ y.timed = true ∧ y.xclass = fieldOf (h 1) 1 2 ∧
        ∀ i, i < pins → (cachedPage u x.part (pageOf x.header + 4096 * i)).isSome = true ∨
          ∃ f, f ∈ u.sch.fills ∧ f.part = x.part ∧ f.addr = pageOf x.header + 4096 * i)) ∧
    (∀ c, voyOf s v = none → cqOf s x.part m = some c → c.fault = false → occupancy c < c.size → x.timed = false →
      NothingOwed s v { x with cring := some m } →
      (fieldOf (h 0) 24 8 = 0 ∧ ¬ magic ∨ ¬ aligned → ∃ t, exec (.manifestHeaderArrival v poisoned) s = .next t ∧ voyOf t v = none ∧
        Publishes s t x.part m (recordOf 0 0 0x16 0x01 0xFFFF v false x s.tb.lsn)) ∧
      (aligned → magic → ¬ fields ∨ (h 1).getLsbD 0 = true ∧ ¬ timely → ∃ t, exec (.manifestHeaderArrival v poisoned) s = .next t ∧ voyOf t v = none ∧
        Publishes s t x.part m (recordOf 0 0 0x16 0x02 0xFFFF v false x s.tb.lsn))) ∧
    (∀ r, voyOf s v ≠ none ∨ cqOf s x.part m = none → sqOf s x.part x.ring = some r → ∃ u t, exec (.manifestHeaderArrival v poisoned) s = .next t ∧
      Concluded u t ∧ (voyOf u v).isSome = (voyOf s v).isSome ∧ u.sch.starting = s.sch.starting.eraseP (fun y => y.1 == v.val) ∧
      (partOf u x.part).event.getLsbD 0 = true ∧ sqOf u x.part x.ring = some { r with refused := true, index := x.startIdx, cnt := bump r.cnt 1
                                                                                      reason := if voyOf s v = none then 0x06 else 0x05 })

/-- R142 to R145: an engine that is retired is out of service, with FAULT_N, its source and its logbook record due; its voyage is set back to its checkpoint and Ready again, its entry marked as repeated, where its entry allows it or has had no effect, and ends with INTERRUPTED otherwise. What the rules leave open is taken as the assumption log says (40, which gives the residual 0 also after bytes have moved, and 47). -/
def Obligations.EngineRetirements : Prop :=
  ∀ (s : State) (e : Fin 16) (k : Nat) (v : Fin 4096) (x : Voyage) (m : Nat), isRun s = true → keysRise s.sch.voy →
    s.sch.inService.getLsbD e = true → (∀ w y, voyOf s w = some y → y.timed = false) →
    let u : State := { s with sch := { s.sch with inService := s.sch.inService &&& ~~~ (1#16 <<< e.val)
                                                  retired := s.sch.retired ||| (1#16 <<< e.val)
                                                  refitDue := s.sch.refitDue || roundRunning s } }
    let happening (a b : Byte) : LogDraft := { kind := 0x06, object := e.val, body := [a, b, 0, 0], detail := [a, b, 0, 0], details := 1 }
    ((∀ j, j < 4 → tFind s.sch.slots (4 * e.val + j) = none) →
      ∃ t, exec (.engineRetirement e) s = .next t ∧ Concluded (logDue (setFault (raise u (640 + e.val)) 0) (happening 0 0)) t) ∧
    (k < 4 → tFind s.sch.slots (4 * e.val + k) = some v.val → (∀ j, j < 4 → j ≠ k → tFind s.sch.slots (4 * e.val + j) = none) → voyOf s v = some x →
      x.state = .active →
      ((wd x.first 0).getLsbD 13 = true ∨ x.effect = false →
        ∃ a t y, exec (.engineRetirement e) s = .next t ∧ Concluded a t ∧ a.sch.inService = u.sch.inService ∧
          a.sch.retired = u.sch.retired ∧
          a.pwr.sticky.getLsbD 0 = true ∧ happening 1 0 ∈ a.log.due ∧ voyOf a v = some y ∧ y.state = .ready ∧ y.slot = none ∧
          y.entry = x.ckEntry ∧ y.regs = x.ckRegs ∧ y.cond = x.ckCond ∧ y.repeated = true ∧ y.stage = .fresh ∧ y.part = x.part) ∧
      ((wd x.first 0).getLsbD 13 = false → x.effect = true → x.suspending = false → RingHasRoom s v x m →
        ∃ t, exec (.engineRetirement e) s = .next t ∧ HasEnded s t v x ∧ t.sch.inService = u.sch.inService ∧
          t.pwr.sticky.getLsbD 0 = true ∧ happening 0 1 ∈ t.log.due ∧
          Publishes s t x.part m (recordOf (wd x.first 7) 0 0x22 0 x.ckEntry v false x s.tb.lsn)))

/-! ## Rings (05_rings.md) -/

/-- R155, R157, R232, R237, R511: the doorbell of a submission ring is accepted exactly where it moves the producer index forward within the ring, covering the entries as they then stand; a doorbell beyond the ring sets OVERRUN, one behind the accepted index sets REGRESS, and both are counted and raise the partition event; one that repeats the index has no effect; one to a ring that does not exist is counted for the partition; one behind the fence of a reset is not seen. -/
def Obligations.SubmissionDoorbells : Prop :=
  ∀ (s : State) (p : Fin 32) (n : Fin 8) (w : BitVec 32) (r : SubRing), isRun s = true →
    let d : BitVec 16 := w.setWidth 16
    let put (y : SubRing) : State := { s with sq := tPut s.sq (8 * p.val + n.val) y }
    let bells (u : State) : Prop := ∃ t, exec (.sqDoorbell p n w) s = .next t ∧ Concluded u t
    ((partOf s p).reset ≠ none → bells s) ∧
    ((partOf s p).reset = none → sqOf s p n = none → bells (bumpPart s p 1)) ∧
    ((partOf s p).reset = none → sqOf s p n = some r → s.pwr.mooring ≠ none → bells (put { r with cnt := bump r.cnt 2 })) ∧
    ((partOf s p).reset = none → sqOf s p n = some r → s.pwr.mooring = none →
      (r.size < (d - r.c).toNat → bells (partEvent (put { r with overrun := true, cnt := bump r.cnt 2 }) p 0)) ∧
      ((d - r.c).toNat ≤ r.size → (d - r.c).toNat < (r.p - r.c).toNat →
        bells (partEvent (put { r with regress := true, cnt := bump r.cnt 2 }) p 0)) ∧
      (d = r.p → (d - r.c).toNat ≤ r.size → bells s) ∧
      (d ≠ r.p → (r.p - r.c).toNat ≤ (d - r.c).toNat → (d - r.c).toNat ≤ r.size →
        bells (put { r with p := d, cover := r.cover ++ [(d, openAny s)], old := r.old ++ coveredNow s p r d })))

/-- R38, R53, R115, R155, R158 to R166, R175, R539: an entry that has been fetched is consumed, and its job taken up: NOP does nothing, START waits for its header, or first for the PARAM that it asks for, RESUME resumes, that of a timed voyage at its landing, HALT ends an untimed voyage with HALTED, and a timed one at the earliest landing of its HALTs, DATA adds its bytes to a packet, which its last entry commits; a RESUME or HALT of a timed voyage that is taken up after its landing marks it as LATE; a job that fails a check is refused with its reason and index. An entry outside the windows faults the ring, as does one that a general bank cannot read, and each word of one that has changed since its doorbell is the old or the new. The rounds under way go on with what the entry shows. What the rules leave open is taken as the assumption log says (49, 95). -/
def Obligations.SubmissionEntries : Prop :=
  ∀ (s : State) (p : Fin 32) (n : Fin 8) (count : Fin 1025) (poisoned : Bool) (r : SubRing) (win : Window) (w : List Word) (v : Fin 4096),
    isRun s = true → (partOf s p).reset = none → sqOf s p n = some r → r.fault = false → r.p = r.fetched + 1 → r.fetched = r.c →
    r.entries = [] → r.seen = [] → r.job = none → (∀ x, x ∈ s.deck.stalls → x.agent ≠ .ring p n) → 0 < count.val → keysRise s.sch.voy →
    let a := r.base + 32 * (r.fetched.toNat % r.size)
    let now := (List.range 8).map fun k => BitVec.ofNat 32 (leNat ((List.range 4).map fun i => byteAt s win (a + 4 * k + i)))
    let reaches := windowFail s p a 32 .read = none ∧ windowAt s p a = some win ∧ asleepAt s p a = none
    let got := (poisoned = true → win.space ≠ 0) ∧ reaches ∧
      (∀ i, i < 32 → lostByte s win (a + i) = false) ∧
      w = (takenWords s (r.old.headD []) now).2
    let fetched : SubRing := { r with fetched := r.fetched + 1, old := r.old.drop 1 }
    let taken : SubRing := { fetched with c := r.c + 1, cover := r.cover.filter fun x => x.1 != r.c + 1,
                                          shadowDue := true, cnt := bump r.cnt 0 }
    let lsn := (r.cover.head?.map Prod.snd).getD 0
    let past (x : Voyage) : Bool := s.tb.landed && decide (classLanding s x.xclass lsn ≤ s.tb.lsn)
    let ends (u : State) (y : SubRing) : Prop :=
      (∃ t, exec (.sqEntryFetchDone p n count poisoned) s = .next t ∧ Concluded (goOn u) t) ∧ sqOf u p n = some y ∧ u.hostMem = s.hostMem ∧
        u.bankMem = s.bankMem ∧ u.port = s.port
    let refuses (reason : BitVec 8) : Prop := ∃ u, (partOf u p).event.getLsbD 0 = true ∧ u.sch = s.sch ∧ u.cq = s.cq ∧
      ends u { taken with refused := true, reason := reason, index := r.c, job := none, cnt := bump (bump r.cnt 0) 1 }
    let vid := fieldOf (wd w 0) 16 12
    let whole := (wd w 0).getLsbD 8 = true ∧ (wd w 0).getLsbD 9 = true
    let type := fieldOf (wd w 0) 0 8
    let regs := (List.range 8).filter fun k => (wd w 1).getLsbD k
    let mine := (partOf s p).vidBase ≤ vid ∧ vid < (partOf s p).vidBase + (partOf s p).vidCount
    let legal := type < 6 ∧ seReserved w 4 = false
    let qn := fieldOf (wd w 1) 0 13
    let len := fieldOf (wd w 1) 16 5
    (got →
      (∀ k, k < 8 → wd w k = wd now k ∨ wd w k = wd (r.old.headD []) k) ∧
      (legal → type = 0x00 → whole → ∃ u, ends u taken ∧ u.sch = s.sch ∧ u.deck.mem = s.deck.mem) ∧
      (legal → type = 0x01 → whole → regs.length ≤ 4 → mine → voyOf s vid = none →
        ∃ u, ends u taken ∧ u.cq = s.cq ∧ u.sch = { s.sch with starting := s.sch.starting ++ [(vid,
          { part := p, header := (wd w 3 ++ wd w 2 : BitVec 64).toNat, ring := n, state := .candidate, startLsn := lsn,
            overlay := regs.zip (w.drop 4), startIdx := r.c })] }) ∧
      (legal → type = 0x03 → whole → mine → ∀ x, voyOf s vid = some x →
        (x.timed = true → ∃ u, ends u taken ∧
          voyOf u vid = some { x with late := x.late || past x, resumes := x.resumes ++ [(classLanding s x.xclass lsn, n.val)] }) ∧
        (x.state = .suspended → x.timed = false → s.sch.inService ≠ 0 → ∃ u k, ends u taken ∧
          voyOf u vid = some { x with state := .ready, park := .no, stage := .resumed, since := k }) ∧
        (x.state ≠ .suspended → x.timed = false → x.resumeLatch = false → ∃ u, ends u taken ∧ voyOf u vid = some { x with resumeLatch := true }) ∧
        (x.state ≠ .suspended → x.timed = false → x.resumeLatch = true → x.part = p →
          ∃ u, ends u { taken with cnt := bump (bump r.cnt 0) 3 } ∧ u.sch = s.sch)) ∧
      (legal → type = 0x04 → whole → mine → vid = v.val → ∀ x m, voyOf s v = some x →
        (x.timed = false → x.state = .parked → (∃ e, x.park = .event e) → x.posting = none → s.sch.inService ≠ 0 →
          RingHasRoom s v x m → ∃ u, ends u taken ∧ voyOf u v = none ∧
            Publishes s u x.part m (recordOf (if x.cur = [] then 0 else wd x.cur 7) 0 0x24 0 x.entry v false
              { x with repeated := x.repeated && !x.cur.isEmpty } s.tb.lsn)) ∧
        (x.timed = true → ∃ u, ends u taken ∧ voyOf u v = some { x with
          late := x.late || past x
          haltAt := some (match x.haltAt with | none => classLanding s x.xclass lsn | some k => min k (classLanding s x.xclass lsn)) })) ∧
      (legal → type = 0x01 → (wd w 0).getLsbD 8 = true → (wd w 0).getLsbD 9 = false → 4 < regs.length →
        ∃ u, ends u { fetched with entries := [w], seen := [now] } ∧ u.sch = s.sch ∧ u.deck.queues = s.deck.queues) ∧
      (legal → type = 0x05 → (wd w 0).getLsbD 8 = true → 1 ≤ len → len ≤ 24 → s.memWf = true → ∀ q c, queueOf s qn = some q →
        q.owner = p → q.building = [] → q.waiting = [] → q.port = none → s.deck.stalls = [] → quotaFail s (.ring p n) q = none →
        nextCell s (.ring p n) = some c →
        ∃ u, u.sch = s.sch ∧
          ((wd w 0).getLsbD 9 = true → ends u taken ∧ queueOf u qn = some { q with
            packets := q.packets ++ [⟨[c], len⟩], cnt := bumpBy (bump q.cnt 0) 1 len }) ∧
          ((wd w 0).getLsbD 9 = false → ends u { taken with job := some { first := r.c, queue := qn } } ∧
            queueOf u qn = some { q with building := [{ agent := .ring p n, pkt := ⟨[c], len⟩ }] }) ∧
          (∀ i, i < len → memRead u.deck.mem (64 * c + i) = (seData w).getD i 0) ∧
          (∀ b, b < 64 * c ∨ 64 * c + len ≤ b → memRead u.deck.mem b = memRead s.deck.mem b)) ∧
      (6 ≤ type → refuses 0x01) ∧
      (type < 6 → seReserved w 4 = true → refuses 0x02) ∧
      (legal → type = 0x02 ∨ type = 0x00 ∧ ¬ whole ∨ type = 0x01 ∧ ¬ (whole ∧ regs.length ≤ 4) ∧ wantsParam w = false ∨ type = 0x03 ∧ ¬ whole ∨ type = 0x04 ∧ ¬ whole ∨
        type = 0x05 ∧ (wd w 0).getLsbD 8 = false → refuses 0x03) ∧
      (legal → type = 0x01 → whole → regs.length ≤ 4 → ¬ mine → refuses 0x04) ∧
      (legal → type = 0x01 → whole → regs.length ≤ 4 → mine → voyOf s vid ≠ none → refuses 0x05) ∧
      (legal → type = 0x03 ∨ type = 0x04 → whole → ¬ mine ∨ voyOf s vid = none → refuses 0x07) ∧
      (legal → type = 0x05 → whole → (∀ q, queueOf s qn = some q → q.owner ≠ p) → refuses 0x08) ∧
      (legal → type = 0x05 → whole → (∃ q, queueOf s qn = some q ∧ q.owner = p) → len = 0 ∨ 24 < len → refuses 0x09)) ∧
    (∀ e, windowFail s p a 32 .read = some e → asleepAt s p a = none →
      ∃ u, (partOf u p).event.getLsbD 0 = true ∧ tGet (partOf u p).cnt 3 0 = tGet (partOf s p).cnt 3 0 + 1 ∧ u.sch = s.sch ∧
        ends u { r with fault := true }) ∧
    (reaches → win.space = 1 → (∃ i, i < 32 ∧ lostByte s win (a + i) = true) →
      ∃ u, (partOf u p).event.getLsbD 0 = true ∧ 658 ∈ u.icu.pend32 ∧ u.sch = s.sch ∧ ends u { r with fault := true })

/-- R168 to R171: a consumer index that passes no published record is taken, and what waits for room follows: late records first, then the parked voyages with theirs; any other is ignored, with CI_BAD and the partition event. What the rules leave open is taken as the assumption log says (50). -/
def Obligations.ConsumerIndexWrites : Prop :=
  ∀ (s : State) (p : Fin 32) (m : Fin 8) (w : BitVec 32) (c : CompRing), isRun s = true → cqOf s p m = some c →
    let d : BitVec 16 := w.setWidth 16
    let put (y : CompRing) : State := { s with cq := tPut s.cq (8 * p.val + m.val) y }
    let taken : CompRing := { c with c := d }
    ((c.p - c.c).toNat < (d - c.c).toNat →
      ∃ t, exec (.cqCiWrite p m w) s = .next t ∧ Concluded (partEvent (put { c with ciBad := true }) p 1) t) ∧
    ((d - c.c).toNat ≤ (c.p - c.c).toNat →
      (c.late = [] ∧ c.parked = [] ∨ c.fault = false ∧ c.size ≤ occupancy taken →
        ∃ t, exec (.cqCiWrite p m w) s = .next t ∧ Concluded (put taken) t) ∧
      (∀ k, c.fault = false → occupancy taken < c.size → c.late = [k] → c.parked = [] →
        ∃ t, exec (.cqCiWrite p m w) s = .next t ∧
          Concluded (put { taken with late := [], p := c.p + 1, unwritten := c.unwritten ++ [(c.p, k)], cnt := bump c.cnt 0 }) t) ∧
      (∀ (v : Fin 4096) x k, keysRise s.sch.voy → c.fault = false → occupancy taken < c.size → c.late = [] → c.parked = [v.val] →
        voyOf s v = some x → x.part = p → x.timed = false → x.posting = some k → x.suspending = false → x.pulseDue = false → x.nextAt = none →
        x.heldRecs = [] → s.sch.inService ≠ 0 →
        ∃ t, exec (.cqCiWrite p m w) s = .next t ∧ voyOf t v = none ∧
          cqOf t p m = some { taken with parked := [], p := c.p + 1
                                         unwritten := c.unwritten ++ [(c.p, stampRecord k s.tb.lsn)], cnt := bump c.cnt 0 }))

/-- R172 to R175: published records are written in order to their slots, then the shadow word with P, then the ring's source is raised under IRQ_EN; the shadow of a submission ring takes C and raises nothing; a ring whose slot no window lets it write faults, drops what is unwritten, and counts it. What the rules leave open is taken as the assumption log says (50). -/
def Obligations.RecordsAndShadows : Prop :=
  ∀ (s : State) (p : Fin 32) (m : Fin 8) (c : CompRing) (r : SubRing) (win : Window), isRun s = true → (partOf s p).reset = none →
    let slot (i : BitVec 16) : Nat := c.base + 16 * (i.toNat % c.size)
    let write (u : State) (k : BitVec 16 × BitVec 128) : State := storeBytes (roused u win) win (slot k.1) (leBytes 16 k.2.toNat)
    let writable (a n : Nat) : Prop := windowFail s p a n .write = none ∧ windowAt s p a = some win ∧ asleepAt s p a = none
    (cqOf s p m = some c → c.fault = false → c.unwritten ≠ [] → writable c.shadow 8 → (∀ k, k ∈ c.unwritten → writable (slot k.1) 16) →
      let u := storeBytes (roused (c.unwritten.foldl write s) win) win c.shadow (leBytes 8 c.p.toNat)
      let z : State := { u with cq := tPut s.cq (8 * p.val + m.val) { c with unwritten := [], shadowDue := false } }
      ∃ t, exec (.shadowWrite p false m) s = .next t ∧ Concluded (if c.irqEn then raise z (256 + 8 * p.val + m.val) else z) t) ∧
    (∀ k l e, cqOf s p m = some c → c.fault = false → c.unwritten = k :: l → c.late = [] → c.parked = [] →
      windowFail s p (slot k.1) 16 .write = some e → (∀ a, a ∈ cqAddrs c → asleepAt s p a = none) →
      ∃ t, exec (.shadowWrite p false m) s = .next t ∧ t.hostMem = s.hostMem ∧ t.bankMem = s.bankMem ∧ t.deck = s.deck ∧
        (partOf t p).event.getLsbD 1 = true ∧ tGet (partOf t p).cnt 3 0 = tGet (partOf s p).cnt 3 0 + 1 ∧
        cqOf t p m = some { c with fault := true, unwritten := [], shadowDue := false
                                   cnt := bumpBy c.cnt 2 (l.length + 1) }) ∧
    (sqOf s p m = some r → r.fault = false → r.shadowDue = true → writable r.shadow 8 →
      ∃ t, exec (.shadowWrite p true m) s = .next t ∧
        Concluded { storeBytes (roused s win) win r.shadow (leBytes 8 r.c.toNat) with
                    sq := tPut s.sq (8 * p.val + m.val) { r with shadowDue := false } } t) ∧
    (∀ e, sqOf s p m = some r → r.fault = false → r.shadowDue = true → windowFail s p r.shadow 8 .write = some e →
      asleepAt s p r.shadow = none →
      ∃ t, exec (.shadowWrite p true m) s = .next t ∧ sqOf t p m = some { r with fault := true } ∧
        (partOf t p).event.getLsbD 0 = true ∧ t.hostMem = s.hostMem ∧ t.bankMem = s.bankMem ∧ t.deck = s.deck)

/-! ## The Gliny Control Interface (06_control_interface.md) -/

/-- R180, R181, R184, R185, R188, R189, R191, R192, R232, R511: GO at a mailbox that is IDLE or DONE locks the request and makes it PENDING; one at a mailbox with a command outstanding sets DB_IGNORED and is counted, as is one before READY; in autonomous hold the mailbox answers BUSY itself; behind the fence of a reset a GO is not seen. Firmware, running and free, takes up the first eligible command, of a door none of whose commands it has in hand, the steward's door first, then the safety port, then the others in rotation, and spends a token; a request that fails one of the checks before a command's own is answered at once, the first failing check telling the result. A command that finishes: the response holds the request's first header word, then the session's version, the length and the result, then the payload; the mailbox is DONE, and source 512 + p is raised; firmware is free of it; the response of a partition under reset is discarded. What the rules leave open is taken as the assumption log says (51 to 53). -/
def Obligations.MailboxDoorbellsAndResponses : Prop :=
  ((∀ (s : State) (p : Fin 32) (w : BitVec 32), isRun s = true →
      let m := mbxOf s p
      let put (y : Mailbox) : State := { s with mbx := tPut s.mbx p y }
      let goes (u : State) : Prop := ∃ t, exec (.mbxGo p w) s = .next t ∧ Concluded u t
      let pending : Mailbox := { m with state := .pending, locked := (List.range 64).map fun k => tGet m.req k 0 }
      (w.getLsbD 0 = false ∨ (partOf s p).reset ≠ none → goes s) ∧
      (w.getLsbD 0 = true → (partOf s p).reset = none → s.pwr.mooring ≠ none → goes (bumpPart s p 2)) ∧
      (w.getLsbD 0 = true → (partOf s p).reset = none → s.pwr.mooring = none →
        (m.state = .pending ∨ m.state = .busy → goes (bumpPart (put { m with dbIgnored := true }) p 2)) ∧
        (m.state = .idle ∨ m.state = .done →
          (s.pwr.hold = true → goes (respond (put pending) p 0x0A [])) ∧
          (s.pwr.hold = false → s.fw.ready = false → goes (bumpPart s p 2)) ∧
          (s.pwr.hold = false → s.fw.ready = true → goes (put pending))))) ∧
   (∀ (s : State) (n : Nat), isRun s = true → s.fw.running = true → s.fw.ready = true → s.fw.current = none →
      let rate (d : Nat) : Nat := if d = 32 then 8 else (partOf s d).mbxRate
      let tokens (d : Nat) : Nat := min 8000000 ((mbxOf s d).tokens + rate d * (s.tb.time - (mbxOf s d).since))
      let order := [0, 32] ++ (List.range 31).map fun i => 1 + (s.fw.lastPart + i) % 31
      let first := order.find? fun d => (mbxOf s d).state == .pending && (mbxOf s d).taken.isNone && decide (1000000 ≤ tokens d)
      let m := mbxOf s n
      let u : State := { s with
        mbx := tPut s.mbx n { m with tokens := tokens n - 1000000, since := s.tb.time, state := .busy, taken := some (m.locked, m.version) }
        fw := { s.fw with current := some n, fences := fenceMask s, lastPart := if 1 ≤ n ∧ n ≤ 31 then n else s.fw.lastPart } }
      let op := reqOp s n
      let version := fieldOf (reqWord s n 1) 0 16
      let takes (v : State) : Prop := ∃ t, exec .commandTakeUp s = .next t ∧ Concluded v t
      let long := 62 < reqLen s n ∨ reqLen s n < wordsNeeded s n
      (first = none → takes s) ∧
      (first = some n →
        (doorPart s n = none → takes (respond u n 0x06 [])) ∧
        (doorPart s n ≠ none → long → takes (respond u n 0x04 [])) ∧
        (doorPart s n ≠ none → ¬ long →
          (op ≠ 1 → m.version = none → takes (respond u n 0x02 [])) ∧
          (∀ v, op ≠ 1 → m.version = some v → version ≠ v.toNat → takes (respond u n 0x01 [])) ∧
          (∀ v, op ≠ 1 → m.version = some v → version = v.toNat → (∀ c, gciCommand op = some c → v.toNat < c.since) →
            takes (respond u n 0x03 [])) ∧
          (op ≠ 0x80 → op ≠ 0xA2 →
            op = 1 ∨ (∃ v c, m.version = some v ∧ version = v.toNat ∧ gciCommand op = some c ∧ c.since ≤ v.toNat) →
            takes (if op = 0x12 then beginLoad u n else u)) ∧
          (∀ v, op = 0x80 ∨ op = 0xA2 → m.version = some v → version = v.toNat → 0x0201 ≤ version →
            takes { u with fw := { u.fw with current := none, long := u.fw.long ++ [n] } }))))) ∧
  (∀ (s : State) (n result : Nat) (l : List Word), n ≤ 32 → l.length ≤ 62 →
     (mbxOf s n).state = .pending ∨ (mbxOf s n).state = .busy →
     let t := respond s n result l
     let r := (mbxOf t n).rsp
     t.fw.current ≠ some n ∧ n ∉ t.fw.long ∧ (mbxOf t n).locked = [] ∧ (∀ k, k ≠ n → mbxOf t k = mbxOf s k) ∧
     { t with mbx := s.mbx, fw := s.fw, icu := s.icu, freeCtr := s.freeCtr } = s ∧
     (doorFenced s n = true → (mbxOf t n).state = .idle ∧ r = (mbxOf s n).rsp ∧ t.icu = s.icu) ∧
     (doorFenced s n = false → (mbxOf t n).state = .done ∧ tFind r 0 = some (reqWord s n 0) ∧
       tFind r 1 = some (BitVec.ofNat 32 (sessionOf s n + l.length * 2 ^ 16 + result * 2 ^ 24)) ∧
       (∀ k, k < l.length → tFind r (k + 2) = l[k]?) ∧ (n < 32 → 512 + n ∈ t.icu.pend) ∧
       (mbxOf t n).tokens = (mbxOf s n).tokens ∧ (mbxOf t n).version = (mbxOf s n).version))

/-- R181, R182, R183, R185, R187, R194, R195, R196, R225, R371: HELLO opens a session with the highest common version or ends it; PORT_COMMISSION gives a port its owner, class and queue, and PORT_DECOMMISSION takes them away, each with a new commission number, on the port that the steward expects. A request whose second header word has a bit set that must be 0 answers BAD_FIELD, and so does one with a word beyond the layout of its command that is not 0, whose message word the response names. What the rules leave open is taken as the assumption log says (52 and 53). -/
def Obligations.CommissionCommands : Prop :=
  ∀ (s : State) (d : Door) (p : Nat),
    let n := doorNo d
    let f (k lo len : Nat) : Nat := fieldOf (pay s n k) lo len
    let count := f 0 0 4
    let listed := (List.range count).map fun i => f (1 + i / 2) (16 * (i % 2)) 16
    let common := ([0x0200, 0x0201, 0x0300, 0x0301, 0x0302].filter fun v => listed.contains v).foldl max 0
    let session (v : Option (BitVec 16)) : State := { s with mbx := tPut s.mbx n { mbxOf s n with version := v } }
    let k := f 0 0 7
    let q := portOf s k
    let owner := f 0 8 5
    let clean (mask : Word) : Prop := pay s n 0 &&& ~~~ mask = 0 ∧ pay s n 1 &&& ~~~ (if 0x0300 ≤ sessionOf s n then 0x1FFFF else 0) = 0
    let expected := (pay s n 1).getLsbD 16 = false ∨ f 1 0 16 = q.number.toNat
    let idle := q.delivered = none ∧ q.waiting = [] ∧ q.joining = []
    let changed (q : Port) (u : State) : Prop := portOf u k = { q with number := q.number + 1 } ∧ (∀ j, j ≠ k → portOf u j = portOf s j) ∧
      { u with port := s.port, ep := s.ep, icu := s.icu, deck := s.deck } = s ∧ u.deck.mem = s.deck.mem
    let answered (i : Instr) (q : Port) : Prop := ∃ u, changed q u ∧ Commits (exec i s) s u d [(q.number + 1).setWidth 32]
    ((Holds s d 0x0001 p ∨ (Holds s d 0x0010 p ∨ Holds s d 0x0011 p) ∧ p = 0) → fieldOf (reqWord s n 1) 22 10 ≠ 0 →
      ∃ k, 2 ≤ k ∧ k ≤ 63 ∧ ∀ i, i = .gHello d ∧ reqOp s n = 1 ∨ i = .gPortCommission d ∧ reqOp s n = 0x10 ∨
        i = .gPortDecommission d ∧ reqOp s n = 0x11 → Answers (exec i s) (drawn s) d 0x05 [BitVec.ofNat 32 k]) ∧
    (∀ j, Holds s d 0x0010 0 → fieldOf (reqWord s n 1) 22 10 = 0 → clean 0x1FFF7F7F → k < 96 → j < reqLen s n → pay s n j ≠ 0 →
      (if 0x0300 ≤ sessionOf s n then 2 else 1) ≤ j → (∀ i, (if 0x0300 ≤ sessionOf s n then 2 else 1) ≤ i → i < j → pay s n i = 0) →
      Answers (exec (.gPortCommission d) s) s d 0x05 [BitVec.ofNat 32 (j + 2)]) ∧
    (Serves s d 0x0001 p →
      (pay s n 0 &&& ~~~ 0xF = 0 → 1 ≤ count → count ≤ 8 → (count % 2 = 1 → f (1 + count / 2) 16 16 = 0) →
        (common ≠ 0 → ∃ l, l.length = 7 ∧ l[0]? = some (BitVec.ofNat 32 (common + 5 * 2 ^ 16)) ∧
          Answers (exec (.gHello d) s) (session (some (BitVec.ofNat 16 common))) d 0x00 l) ∧
        (common = 0 → ∃ l, l.length = 7 ∧ l[1]? = some 0x02010200 ∧ l[2]? = some 0x03010300 ∧ l[3]? = some 0x00000302 ∧
          Answers (exec (.gHello d) s) (session none) d 0x01 l)) ∧
      (count = 0 ∨ 8 < count → Answers (exec (.gHello d) s) s d 0x05 [2])) ∧
    (Serves s d 0x0010 p →
      (p ≠ 0 → Refuses (exec (.gPortCommission d) s) s d 0x06) ∧
      (p = 0 → clean 0x1FFF7F7F → k < 96 → named s owner = false → ownerFenced s k = false →
        (∀ o, q.owner = some o → o ≠ owner → Refuses (exec (.gPortCommission d) s) s d 0x08) ∧
        (q.owner = none ∨ q.owner = some owner →
          (domainOn s (k / 4) = false → Refuses (exec (.gPortCommission d) s) s d 0x0C) ∧
          (domainOn s (k / 4) = true → ¬ expected → Refuses (exec (.gPortCommission d) s) s d 0x0E) ∧
          (domainOn s (k / 4) = true → expected → logFull s = true → Refuses (exec (.gPortCommission d) s) s d 0x41) ∧
          (domainOn s (k / 4) = true → expected → logFull s = false → idle →
            answered (.gPortCommission d) { q with owner := some owner, lastOwner := some owner, xclass := BitVec.ofNat 2 (f 0 13 2)
                                                   txq := BitVec.ofNat 13 (f 0 16 13), swap := none })))) ∧
    (Serves s d 0x0011 p →
      (p ≠ 0 → Refuses (exec (.gPortDecommission d) s) s d 0x06) ∧
      (p = 0 → clean 0x7F → k < 96 → ownerFenced s k = false →
        (q.owner = none → Refuses (exec (.gPortDecommission d) s) s d 0x09) ∧
        (q.owner ≠ none → ¬ expected → Refuses (exec (.gPortDecommission d) s) s d 0x0E) ∧
        (q.owner ≠ none → expected → logFull s = false →
          answered (.gPortDecommission d) { q with owner := none, swap := none, safeDue := q.safeDue ++ [.classLanding q.xclass.toNat] })))

/-- R195, R197, R288, R316 to R319, R381, R385, R478: a ROLE_IMAGE_LOAD that is taken up makes the inactive bank LOADING, but where a swap is pending or the scratchpad is scrubbed, and is then refused; it puts a checked and signed image into the inactive bank, and leaves it EMPTY where a check of the image fails; ROLE_IMAGE_SWAP makes a swap pending at a landing of the port's class and tells the landing and the next commission number. What the rules leave open is taken as the assumption log says (54). -/
def Obligations.RoleImageCommands : Prop :=
  ∀ (s : State) (d : Door) (p : Nat) (win : Window) (l : List Byte),
    let n := doorNo d
    let f (k lo len : Nat) : Nat := fieldOf (pay s n k) lo len
    let k := f 0 0 7
    let q := portOf s k
    let a := pay64 s n 1
    let len := f 3 0 18
    let load := exec (.gRoleImageLoad d) s
    let swap := exec (.gRoleImageSwap d) s
    let put (b : IBank) (x : Option Nat) : State :=
      modPort s k fun q => if q.active then { q with bankA := b, loading := x } else { q with bankB := b, loading := x }
    let into (b : IBank) : State := put b none
    let fit := pay s n 0 &&& ~~~ 0x7F = 0 ∧ pay s n 3 &&& ~~~ 0x3FFFF = 0
    let expected := (pay s n 1).getLsbD 16 = false ∨ f 1 0 16 = q.number.toNat
    let due := dueLsn s q.xclass.toNat
    (doorPart s n = some p → fieldOf (reqWord s n 1) 22 10 = 0 → wordBeyond s n = none → k < 96 → q.owner = some p → fit →
      (q.swap = none → q.eng.scrub = false → beginLoad s n = put { st := .loading } (some n)) ∧
      (q.swap ≠ none ∨ q.eng.scrub = true → beginLoad s n = s)) ∧
    (Serves s d 0x0012 p → k < 96 →
      (q.loading ≠ some n → q.owner ≠ some p → Refuses load s d 0x06) ∧
      (q.loading ≠ some n → q.owner = some p → fit → Refuses load s d 0x0C) ∧
      (q.loading = some n →
        (len ≠ 0 →
          (windowFail s p a len .read ≠ none → Answers load (countRefused (into {}) p) d 0x0F []) ∧
          (windowFail s p a len .read = none → windowAt s p a = some win → win.space = 0 → (∀ i, i < len → lostByte s win (a + i) = false) →
            l = (List.range len).map (fun i => byteAt s win (a + i)) → stagingBank s k = none →
            (∀ w, imageFail l = some w → Answers load (into {}) d 0x05 [BitVec.ofNat 32 w]) ∧
            (imageFail l = none → imageSigned s p l = false → Answers load (into {}) d 0x40 []) ∧
            (imageFail l = none → imageSigned s p l = true → logFull s = true → Answers load (into {}) d 0x41 []) ∧
            (imageFail l = none → imageSigned s p l = true → logFull s = false →
              Commits load s (into (loadedBank l)) d ((List.range 8).map (wordAt (imageDigest l)))))))) ∧
    (Serves s d 0x0013 p → k < 96 → logFull s = false →
      (q.owner ≠ some p → Refuses swap s d 0x06) ∧
      (q.owner = some p → pay s n 0 &&& ~~~ (if 0x0302 ≤ sessionOf s n then 0x00FFFF7F else 0x7F) = 0 →
        pay s n 1 &&& ~~~ (if 0x0300 ≤ sessionOf s n then 0x1FFFF else 0) = 0 →
        ((inactiveBank q).st ≠ .verified → Refuses swap s d 0x09) ∧
        ((inactiveBank q).st = .verified → q.swap ≠ none → Refuses swap s d 0x0C) ∧
        ((inactiveBank q).st = .verified → q.swap = none → ¬ expected → Refuses swap s d 0x0E) ∧
        ((inactiveBank q).st = .verified → q.swap = none → expected →
          Commits swap s (modPort s k fun q => { q with swap := some { due := due, limit := f 0 8 16 }, holds := 0 }) d
            [BitVec.ofNat 32 due, (q.number + 1).setWidth 32])))

/-- R30 to R33, R40, R41, R198, R199: CROSSING_CONFIG makes a start pending, or changes the cut-off from the second landing on; SYNC_CONFIG makes a set pending for the next landing. What the rules leave open is taken as the assumption log says (13, 14 and 55). -/
def Obligations.CrossingCommands : Prop :=
  ∀ (s : State) (d : Door),
    let n := doorNo d
    let f (k lo len : Nat) : Nat := fieldOf (pay s n k) lo len
    let t0 := f 0 0 17
    let c := f 2 16 10
    let multiple (m : Nat) : Prop := 1 ≤ m ∧ m ≤ 1024
    let timed := (pay s n 0).getLsbD 18
    let gptp := (pay s n 0).getLsbD 19
    let at_ := pay64 s n 3
    let good := pay s n 0 &&& ~~~ 0xFFFFF = 0 ∧ pay s n 1 &&& ~~~ 0x07FF07FF = 0 ∧ pay s n 2 &&& ~~~ 0x03FF07FF = 0 ∧ 100 ≤ t0 ∧
      t0 ≤ 100000 ∧ multiple (f 1 0 11) ∧ multiple (f 1 16 11) ∧ multiple (f 2 0 11) ∧ 5 ≤ c ∧ c ≤ 1000 ∧ 2 * c ≤ t0 ∧
      ¬ (timed = true ∧ gptp = true)
    let new : Start := { s := at_, v := if timed then some (pay64 s n 5) else none, gptp := gptp, t0 := t0, m1 := f 1 0 11, m2 := f 1 16 11
                         m3 := f 2 0 11, c := c }
    let source := f 0 0 2
    let div := f 0 16 11
    let w := f 1 0 16
    let width (t : Nat) : Prop := 80 * w ≤ 1000 * t
    let set : SyncSet := { source := BitVec.ofNat 2 source, gptpPort := (pay s n 0).getLsbD 2, div := div, w := BitVec.ofNat 16 w
                           rate := if source = 2 then none else some (pay s n 2) }
    let sound := pay s n 0 &&& ~~~ 0x07FF0007 = 0 ∧ pay s n 1 &&& ~~~ 0xFFFF = 0 ∧ source ≠ 3 ∧
      (source = 1 → 1 ≤ div ∧ div ≤ 1024 ∧ 1 ≤ w ∧ w ≤ 50000 ∧ width s.tb.t0 ∧ ∀ st, s.tb.start = some st → width st.t0) ∧
      (source ≠ 2 → -200000 ≤ (pay s n 2).toInt ∧ (pay s n 2).toInt ≤ 200000)
    logFull s = false →
    (Serves s d 0x0020 0 → (pay s n 0).getLsbD 17 = false → good →
      (at_ < s.tb.time + 2000000 → Answers (exec (.gCrossingConfig d) s) s d 0x05 [5]) ∧
      (s.tb.time + 2000000 ≤ at_ → gptp = true → s.tb.gptpSync = false → Refuses (exec (.gCrossingConfig d) s) s d 0x0C) ∧
      (s.tb.time + 2000000 ≤ at_ → gptp = false ∨ s.tb.gptpSync = true →
        Commits (exec (.gCrossingConfig d) s) s { s with tb := { s.tb with start := some new } } d [])) ∧
    (Serves s d 0x0020 0 → pay s n 0 = 0x20000 → (∀ k, k ∈ [1, 3, 4, 5, 6] → pay s n k = 0) → pay s n 2 &&& ~~~ 0x03FF0000 = 0 →
      5 ≤ c → c ≤ 1000 → 2 * c ≤ s.tb.t0 →
      (s.tb.start ≠ none → Refuses (exec (.gCrossingConfigCutoffOnly d) s) s d 0x0C) ∧
      (s.tb.start = none → Commits (exec (.gCrossingConfigCutoffOnly d) s) s { s with tb := { s.tb with
          nextCut := (s.tb.nextCut.filter fun x => x.1 < nextLsn s + 1) ++ [(nextLsn s + 1, c)] } } d [BitVec.ofNat 32 (nextLsn s + 1)])) ∧
    (Serves s d 0x0021 0 → sound →
      Commits (exec (.gSyncConfig d) s) s { s with tb := { s.tb with sync := some set } } d [])

/-- R150, R151, R201, R202, R220, R221, R243, R261, R264: the resources that a partition is given: RING_CREATE a ring, WINDOW_SET a window or its removal with the pages filled through it, QUEUE_CREATE the lowest free or the named queue, BARGE_ASSIGN a free channel; each is refused where the object exists, a quota is used up, or its memory is not reachable. What the rules leave open is taken as the assumption log says (52, 53 and 55). -/
def Obligations.ResourceCommands : Prop :=
  ∀ (s : State) (d : Door) (p : Nat),
    let n := doorNo d
    let f (k lo len : Nat) : Nat := fieldOf (pay s n k) lo len
    let ring := exec (.gRingCreate d) s
    let k := f 0 0 3
    let comp := (pay s n 0).getLsbD 3
    let size := 2 ^ f 0 8 4
    let bytes := (if comp then 16 else 32) * size
    let base := pay64 s n 1
    let shadow := pay64 s n 3
    let there := if comp then (cqOf s p k).isSome else (sqOf s p k).isSome
    let reach := windowFail s p base bytes (if comp then .write else .read) = none ∧ windowFail s p shadow 8 .write = none
    let w : Window := { r := (pay s n 0).getLsbD 16, w := (pay s n 0).getLsbD 17, x := (pay s n 0).getLsbD 18, space := BitVec.ofNat 2 (f 0 20 2)
                        bank := BitVec.ofNat 4 (f 0 24 4), base := pay64 s n 1, size := pay64 s n 3, target := pay64 s n 5 }
    let o := f 0 0 5
    let i := f 0 8 6
    let wins := (partOf s o).wins
    let fits := w.base % 4096 = 0 ∧ w.size % 4096 = 0 ∧ w.target % 4096 = 0 ∧ w.space ≠ 3 ∧
      (w.space = 0 → w.size ≤ 2 ^ 48 ∧ w.base + w.size ≤ 2 ^ 64 ∧ w.target + w.size ≤ 2 ^ 64) ∧
      (w.space = 1 → w.target + w.size ≤ 2 ^ 18) ∧ (w.space = 2 → w.target + w.size ≤ 4096 * s.deck.flatPages)
    let bank := bankOf s w.bank.toNat
    let usable := w.space = 1 → bank.kind = 0 ∧ bank.owner.toNat = o ∧ bank.handover = none ∧ domainOn s (24 + w.bank.toNat) = true
    let apart := ∀ x, x ∈ wins → x.1 ≠ i → w.base + w.size ≤ x.2.base ∨ x.2.base + x.2.size ≤ w.base
    let kept (u : State) : Prop := { u with part := s.part, sch := s.sch } = s ∧ (∀ q, q ≠ o → partOf u q = partOf s q) ∧
      { u.sch with pages := s.sch.pages } = s.sch ∧
      ∀ g, g ∈ u.sch.pages → ¬ (g.part = o ∧ g.window = i) ∧ (g ∈ s.sch.pages ∨ g.pins ≠ [] ∧ g.window = goneWindow)
    let others (u : State) : Prop := ∀ g, g ∈ s.sch.pages → ¬ (g.part = o ∧ g.window = i) → g.window ≠ goneWindow → g ∈ u.sch.pages
    let used := (s.deck.queues.map Prod.fst).filter (· < 8192)
    let want := f 0 0 13
    let number := if want = 0x1FFF then firstGap 0 used else want
    let depth := f 1 0 19
    let attach := (pay s n 2).getLsbD 7
    let port := f 2 0 7
    let queue := exec (.gQueueCreate d) s
    let own := (queuesOf s p).length
    let newC : CompRing := { size := size, base := base, shadow := shadow, irqEn := (pay s n 0).getLsbD 4 }
    let newS : SubRing := { size := size, base := base, shadow := shadow }
    let newQ : Queue := { owner := p, port := if attach then some port else none, depth := depth }
    let free := (List.range 32).filter fun c => (chanOf s c).owner.isNone
    let mine := (List.range 32).filter fun c => (chanOf s c).owner == some p
    let barge := exec (.gBargeAssign d) s
    let given (c : Channel) : Channel := { c with owner := some p, prio := BitVec.ofNat 3 (f 0 8 3), rate := BitVec.ofNat 8 (f 0 16 8) }
    logFull s = false →
    (Serves s d 0x0030 p → pay s n 0 &&& ~~~ 0xF1F = 0 → 6 ≤ f 0 8 4 → ((pay s n 0).getLsbD 4 = true → comp = true) →
      base % min bytes 4096 = 0 → shadow % 8 = 0 →
      (there = true → Refuses ring s d 0x08) ∧ (there = false → ¬ reach → Answers ring (countRefused s p) d 0x0F []) ∧
      (there = false → reach → comp = true → Commits ring s { s with cq := tPut s.cq (8 * p + k) newC } d []) ∧
      (there = false → reach → comp = false → Commits ring s { s with sq := tPut s.sq (8 * p + k) newS } d [])) ∧
    (Serves s d 0x0031 0 → pay s n 0 &&& ~~~ 0x0F373F1F = 0 → named s o = false →
      (w.size ≠ 0 → fits → usable →
        (¬ apart → Refuses (exec (.gWindowSet d) s) s d 0x08) ∧
        (apart → tFind wins i = some w → Commits (exec (.gWindowSet d) s) s s d []) ∧
        (apart → tFind wins i ≠ some w → ∃ u, kept u ∧ others u ∧ partOf u o = { partOf s o with wins := tPut wins i w } ∧
          Commits (exec (.gWindowSet d) s) s u d [])) ∧
      (w.size = 0 →
        (tFind wins i = none → Refuses (exec (.gWindowRemove d) s) s d 0x09) ∧
        (tFind wins i ≠ none → ∃ u, kept u ∧ others u ∧ partOf u o = { partOf s o with wins := tDel wins i } ∧
          Commits (exec (.gWindowRemove d) s) s u d []))) ∧
    (Serves s d 0x0032 p → pay s n 0 &&& ~~~ 0x1FFF = 0 → pay s n 1 &&& ~~~ 0x7FFFF = 0 → pay s n 2 &&& ~~~ 0xFF = 0 →
      1 ≤ depth → depth ≤ 262144 →
      (attach = true → port < 96 → (portOf s port).owner ≠ some p → Refuses queue s d 0x06) ∧
      (attach = false ∨ port < 96 ∧ (portOf s port).owner = some p →
        (want ≠ 0x1FFF → want ∈ used → Refuses queue s d 0x08) ∧
        (want = 0x1FFF ∨ want ∉ used → 8192 ≤ used.length ∨ (partOf s p).queues ≤ own → Refuses queue s d 0x07) ∧
        (want = 0x1FFF ∨ want ∉ used → used.length < 8192 → own < (partOf s p).queues →
          Commits queue s { s with deck := { s.deck with queues := tPut s.deck.queues number newQ } } d [BitVec.ofNat 32 number]))) ∧
    (Serves s d 0x0033 p → pay s n 0 &&& ~~~ 0x00FF073F = 0 →
      ((pay s n 0).getLsbD 5 = false → (chanOf s (f 0 0 5)).owner ≠ none → Refuses barge s d 0x08) ∧
      ((pay s n 0).getLsbD 5 = false → (chanOf s (f 0 0 5)).owner = none → (partOf s p).channels ≤ mine.length → Refuses barge s d 0x07) ∧
      ((pay s n 0).getLsbD 5 = false → (chanOf s (f 0 0 5)).owner = none → mine.length < (partOf s p).channels →
        Commits barge s (modChan s (f 0 0 5) given) d [BitVec.ofNat 32 (f 0 0 5)]) ∧
      ((pay s n 0).getLsbD 5 = true → free = [] → Refuses barge s d 0x07) ∧
      ((pay s n 0).getLsbD 5 = true → free ≠ [] → mine.length < (partOf s p).channels →
        ∃ c, c ∈ free ∧ Commits barge s (modChan (drawn s) c given) d [BitVec.ofNat 32 c]))

/-- R203, R204, R207, R208, R218, R229, R231, R232, R535 to R537: PARTITION_CONFIG, PARTITION_RESET and QUOTA_SET set a partition's ranges, begin its reset and set its quotas, and refuse what overlaps another's range, cuts off what is in use, or exceeds the device; BANK_ASSIGN begins the handover of a bank, which ends a load that is being staged in it, and whose completion gives the new owner a bank of zeros and answers. What the rules leave open is taken as the assumption log says (53 and 86). -/
def Obligations.PartitionCommands : Prop :=
  ∀ (s : State) (d : Door) (h : Handover),
    let n := doorNo d
    let f (k lo len : Nat) : Nat := fieldOf (pay s n k) lo len
    let o := f 0 0 5
    let x := partOf s o
    let put (y : Partition) : State := { s with part := tPut s.part o y }
    let config := exec (.gPartitionConfig d) s
    let vb := f 1 0 12
    let vc := f 1 16 13
    let eb := f 2 0 10
    let ec := f 2 16 10
    let ch := f 3 0 6
    let qs := f 3 16 14
    let sound := pay s n 0 &&& ~~~ 0x0001071F = 0 ∧ pay s n 1 &&& ~~~ 0x1FFF0FFF = 0 ∧ pay s n 2 &&& ~~~ 0x03FF03FF = 0 ∧
      pay s n 3 &&& ~~~ 0x3FFF003F = 0 ∧ vb + vc ≤ 4096 ∧ (ec ≠ 0 → 512 ≤ eb) ∧ eb + ec ≤ 1024 ∧ ch ≤ 32 ∧ qs ≤ 8192
    let meets (a m b k : Nat) : Prop := ∃ i, a ≤ i ∧ i < a + m ∧ b ≤ i ∧ i < b + k
    let taken := ∃ y, y ∈ s.part ∧ y.1 ≠ o ∧ (meets vb vc y.2.vidBase y.2.vidCount ∨ meets eb ec y.2.evtBase y.2.evtCount)
    let cut := (∃ y, y ∈ voyagesOf s o ∧ ¬ (vb ≤ y.1 ∧ y.1 < vb + vc)) ∨ ∃ e, e ∈ eventsUsed s o ∧ ¬ (eb ≤ e ∧ e < eb + ec)
    let bind := (pay s n 0).getLsbD 16
    let y : Partition := { x with prio := BitVec.ofNat 3 (f 0 8 3), vidBase := vb, vidCount := vc, evtBase := eb, evtCount := ec
                                  channels := ch, queues := qs, keyslots := BitVec.ofNat 64 (pay64 s n 4) }
    let quota := exec (.gQuotaSet d) s
    let rate := f 0 16 8
    let z : Partition := { x with ferryShare := f 0 8 8, mbxRate := rate, cells := f 1 0 19, hostShare := f 2 0 8, bargeShare := f 2 8 8 }
    let total (new : Nat) (g : Partition → Nat) : Nat := ((List.range 32).map fun q => if q = o then new else g (partOf s q)).sum
    let within := total (f 1 0 19) (·.cells) ≤ 262144 ∧ total (f 2 0 8) (·.hostShare) ≤ 256 ∧ total (f 2 8 8) (·.bargeShare) ≤ 256 ∧
      total rate (·.mbxRate) ≤ 256
    let b := f 0 0 4
    let kind := BitVec.ofNat 2 (f 0 8 2)
    let owner := BitVec.ofNat 5 (f 0 16 5)
    let keep := (pay s n 0).getLsbD 24
    let assign := exec (.gBankAssign d) s
    let legal := kind ≠ 3 ∧ (kind = 1 → owner.toNat ≤ 23) ∧ (kind = 2 → owner = 0)
    let begun : Handover := { kind := kind, owner := owner, keep := keep, door := some n }
    logFull s = false →
    (Serves s d 0x0040 0 → sound → named s o = false →
      (taken → Refuses config s d 0x08) ∧ (¬ taken → cut → Refuses config s d 0x0C) ∧
      (¬ taken → ¬ cut → bind = true → s.fw.bound ≠ some o → s.glb.lock = true → Refuses config s d 0x0D) ∧
      (¬ taken → ¬ cut → bind = false ∨ s.fw.bound = some o → Commits config s (put y) d []) ∧
      (¬ taken → ¬ cut → bind = true → s.fw.bound ≠ some o → s.glb.lock = false →
        Commits config s (modMbx { put y with fw := { s.fw with bound := some o } } 32 fun m => { m with version := none }) d [])) ∧
    (Serves s d 0x0041 0 → pay s n 0 &&& ~~~ 0x1F = 0 →
      (o = 0 → Answers (exec (.gPartitionReset d) s) s d 0x05 [2]) ∧
      (o ≠ 0 → named s o = true → Refuses (exec (.gPartitionReset d) s) s d 0x0B) ∧
      (o ≠ 0 → named s o = false → x.reset = none → ∃ t r, exec (.gPartitionReset d) s = .next t ∧ (partOf t o).reset = some r ∧ r.trigger = 1 ∧
        r.doors = [n] ∧ t.fw.current ≠ some n ∧ (∀ v y, voyOf t v = some y → y.part ≠ o) ∧
        (∀ c, (chanOf s c).owner = some o → (chanOf t c).active = none ∧ (chanOf t c).shadow = none ∧ (chanOf t c).latch = none))) ∧
    (Serves s d 0x0042 0 → pay s n 0 &&& ~~~ 0x00FFFF1F = 0 → pay s n 1 &&& ~~~ 0x7FFFF = 0 → pay s n 2 &&& ~~~ 0xFFFF = 0 → 1 ≤ rate →
      rate ≤ 64 → named s o = false →
      (¬ within → Refuses quota s d 0x07) ∧
      (within → Commits quota s { put z with mbx := tPut s.mbx o { mbxOf s o with tokens := tokensOf s o, since := s.tb.time } } d [])) ∧
    (Serves s d 0x00B0 0 → pay s n 0 &&& ~~~ 0x011F030F = 0 → legal → (kind = 0 → named s owner.toNat = false) →
      ((bankOf s b).kind = 0 → named s (bankOf s b).owner.toNat = false) →
      ((bankOf s b).handover ≠ none → Refuses assign s d 0x0C) ∧
      ((bankOf s b).handover = none → keep = true → (bankOf s b).kind = kind → (bankOf s b).owner = owner → Commits assign s s d []) ∧
      ((bankOf s b).handover = none → (bankOf s b).kind ≠ 0 → keep = false ∨ (bankOf s b).kind ≠ kind ∨ (bankOf s b).owner ≠ owner →
        ((∀ k, stagingBank s k = some b → (portOf s k).loading = none) → ∃ t, exec (.gBankAssign d) s = .next t ∧ Concluded (leaveHands (logNormal
          (modBank s b fun y => { y with handover := some begun, waiting := false }) (commandRecord s n)) n) t) ∧
        (∀ k, (bankOf s b).kind = 1 → stagingBank s k = some b → (portOf s k).loading ≠ none → ∃ u t, exec (.gBankAssign d) s = .next t ∧
          Concluded (leaveHands (logNormal u (commandRecord s n)) n) t ∧ { u with bank := s.bank, port := s.port } = s ∧
          bankOf u b = { bankOf s b with handover := some begun, waiting := false } ∧ (portOf u k).loading = none ∧ inactiveBank (portOf u k) = {}))) ∧
    (Serves s d 0x00B0 0 → pay s n 0 &&& ~~~ 0x011F030F = 0 → legal → (kind = 0 → named s owner.toNat = false) →
      named s (bankOf s b).owner.toNat = false → (bankOf s b).handover = none → (bankOf s b).kind = 0 →
      keep = false ∨ (bankOf s b).kind ≠ kind ∨ (bankOf s b).owner ≠ owner →
      ∃ u t, exec (.gBankAssign d) s = .next t ∧ Concluded (leaveHands (logNormal u (commandRecord s n)) n) t ∧
        { u with bank := s.bank, part := s.part, sch := s.sch } = s ∧
        bankOf u b = { bankOf s b with handover := some begun, waiting := false } ∧
        ∀ k y, tFind (partOf u (bankOf s b).owner.toNat).wins k = some y → ¬ (y.space = 1 ∧ y.bank.toNat = b)) ∧
    (∀ i : Fin 16, isRun s = true → (bankOf s i).handover = some h →
      let v := modBank s i fun y => { y with kind := h.kind, owner := h.owner, handover := none, ret := false, leaving := false, waiting := false }
      let zeros : State := { modBank v i fun y => { y with bad := [], soft := [] } with bankMem := memClear s.bankMem (2 ^ 18 * i.val) (2 ^ 18) }
      let u := if h.keep = true ∨ domainOn s (24 + i.val) = false then v else zeros
      ∃ t, exec (.bankHandoverDone i) s = .next t ∧
        Concluded (match h.door with | some e => (if (mbxOf s e).state = .busy ∧ (mbxOf s e).taken = none then respond u e 0x00 [] else u) | none => u) t)

/-- R479 to R483, R495: KEY_IMPORT fills an empty slot with a key that a wrapping key opens, once in clear for the key-wrapping key, KEY_DERIVE with one derived from a derivation key; a slot that the partition may not use, a slot that is full and a key that does not open are refused. What the rules leave open is taken as the assumption log says (9, 52, 53 and 76). -/
def Obligations.KeyCommands : Prop :=
  ∀ (s : State) (d : Door) (p : Nat) (win : Window) (l : List Byte),
    let n := doorNo d
    let f (k lo len : Nat) : Nat := fieldOf (pay s n k) lo len
    let slot := f 0 0 6
    let wrap := f 0 8 6
    let kind := f 0 16 4
    let may (k : Nat) : Prop := k ≠ 0 ∧ (partOf s p).keyslots.getLsbD k = true
    let sizes : List Nat := [0, 16, 32, 32, 16, 32, 64, 32]
    let size := sizes.getD kind 0
    let full (k : Nat) : Prop := (slotOf s k).kind ≠ 0
    let put (k : Nat) (y : KeySlot) : State := { s with sec := { s.sec with keys := tPut s.sec.keys k y } }
    let reads (len : Nat) : Prop := (pay s n 3).toNat = len ∧ windowFail s p (pay64 s n 1) len .read = none ∧
      windowAt s p (pay64 s n 1) = some win ∧ win.space = 0 ∧ (∀ i, i < len → lostByte s win (pay64 s n 1 + i) = false) ∧
      l = (List.range len).map fun i => byteAt s win (pay64 s n 1 + i)
    let boot := p = 0 ∧ s.sec.kekSet = false ∧ slot = 1 ∧ wrap = 1
    let import_ := exec (.gKeyImport d) s
    let bootstrap := exec (.gKekBootstrapImport d) s
    let derive := exec (.gKeyDerive d) s
    let dst := f 0 8 6
    let labelLen := f 0 24 6
    let label := ((List.range 8).flatMap fun k => leBytes 4 (pay s n (1 + k)).toNat).take labelLen
    logFull s = false →
    (Serves s d 0x0050 p → ¬ boot →
      (slot = 1 ∨ slot = 2 ∨ ¬ may slot → Refuses import_ s d 0x06) ∧
      (slot ≠ 1 → slot ≠ 2 → may slot → (slotOf s wrap).kind ≠ 3 ∨ wrap ≠ 1 ∧ ¬ may wrap → Refuses import_ s d 0x06) ∧
      (slot ≠ 1 → slot ≠ 2 → may slot → (slotOf s wrap).kind = 3 → wrap = 1 ∨ may wrap → pay s n 0 &&& ~~~ 0x000F3F3F = 0 →
        (kind = 0 ∨ 8 ≤ kind → Answers import_ s d 0x05 [2]) ∧
        (1 ≤ kind → kind < 8 → full slot → Refuses import_ s d 0x08) ∧
        (1 ≤ kind → kind < 8 → ¬ full slot →
          (windowFail s p (pay64 s n 1) (pay s n 3).toNat .read ≠ none → (pay s n 3).toNat ≠ 0 →
            Answers import_ (countRefused s p) d 0x0F []) ∧
          (windowFail s p (pay64 s n 1) (pay s n 3).toNat .read = none → (pay s n 3).toNat ≠ 48 + size → Refuses import_ s d 0x40) ∧
          (reads (48 + size) → unwrap (slotOf s wrap).material l kind slot = none → Refuses import_ s d 0x40) ∧
          (∀ m, reads (48 + size) → unwrap (slotOf s wrap).material l kind slot = some m →
            Commits import_ s (put slot { kind := BitVec.ofNat 4 kind, filler := BitVec.ofNat 5 p, material := m }) d [])))) ∧
    (Serves s d 0x0050 p → boot → pay s n 0 &&& ~~~ 0x000F3F3F = 0 → 1 ≤ kind → kind < 8 →
      (full 1 → Refuses bootstrap s d 0x08) ∧
      (¬ full 1 → reads 80 → kind = 3 → unwrapClear l = none → Refuses bootstrap s d 0x40) ∧
      (¬ full 1 → reads 80 → kind ≠ 3 → Refuses bootstrap s d 0x40) ∧
      (∀ m, ¬ full 1 → reads 80 → kind = 3 → unwrapClear l = some m →
        let u := put 1 { kind := 3, filler := 0, persist := true, material := m }
        Commits bootstrap s { u with sec := { u.sec with kekSet := true } } d [])) ∧
    (Serves s d 0x0051 p →
      (¬ may slot ∨ (slotOf s slot).kind ≠ 7 ∨ dst = 1 ∨ dst = 2 ∨ ¬ may dst → Refuses derive s d 0x06) ∧
      (may slot → (slotOf s slot).kind = 7 → dst ≠ 1 → dst ≠ 2 → may dst → pay s n 0 &&& ~~~ 0x3F0F3F3F = 0 →
        (kind = 0 ∨ kind = 6 ∨ 8 ≤ kind ∨ 32 < labelLen → Answers derive s d 0x05 [2]) ∧
        (kind ≠ 0 → kind ≠ 6 → kind < 8 → labelLen ≤ 32 → full dst → Refuses derive s d 0x08) ∧
        (kind ≠ 0 → kind ≠ 6 → kind < 8 → labelLen ≤ 32 → ¬ full dst →
          Commits derive s (put dst { kind := BitVec.ofNat 4 kind, filler := BitVec.ofNat 5 p
                                      material := kdf (slotOf s slot).material label size }) d [])))

/-- R496 to R502, R530: firmware writes the oldest record that is due, chained to the one before it; LOG_SEAL places a seal group, before which a gap record goes where records have been lost, and whose signature answers it and raises its source; the records that are due go before any that is appended; LOG_READ writes readable records to a buffer and moves the export mark to NEXT. What the rules leave open is taken as the assumption log says (56 to 58). -/
def Obligations.LogbookCommands : Prop :=
  ∀ (s : State) (d : Door) (k : LogDraft) (l : List LogDraft) (g : SealPending) (gs : List SealPending) (win : Window),
    let n := doorNo d
    let b := s.log
    let held := b.next - b.mark
    let head : List Byte := leBytes 8 s.tb.time ++ leBytes 4 s.tb.lsn ++
      leBytes 4 (b.next % 2 ^ 16 + k.part * 2 ^ 16 + k.door * 2 ^ 21 + k.kind * 2 ^ 24) ++ leBytes 4 k.object ++
      (sha256 k.body).take 4 ++ leBytes 8 b.h.toNat
    let rec_ : BitVec 256 := BitVec.ofNat 256 (leNat head)
    let keep (r : List (BitVec 256)) : List (BitVec 256) := r.drop (r.length - 4096)
    let sealing := exec (.gLogSeal d) s
    let read := exec (.gLogRead d) s
    let first := pay64 s n 0
    let count := fieldOf (pay s n 2) 0 13
    let a := pay64 s n 3
    let len := (pay s n 5).toNat
    let oldest := b.next - b.ring.length
    let readable := match b.seals with | [] => b.next | x :: _ => x.head
    let m := min count (min (len / 32) (readable - first))
    let records := (b.ring.drop (first - oldest)).take m
    let marked : State := if first ≤ b.mark then { s with log := { b with mark := first + m } } else s
    let left := if first ≤ b.mark then b.next - (first + m) else b.next - b.mark
    let told (k : Nat) : List Word := [BitVec.ofNat 32 k, BitVec.ofNat 32 (k / 2 ^ 32)]
    (isRun s = true → b.due = k :: l → k.details = 0 → b.lost = 0 → held < 4096 → b.sinceSeal % 256 < 255 → (k.kind = 0x03 → logFull s = false) →
      ∃ t, exec .firmwareLogRecord s = .next t ∧ Concluded { s with log := { b with
        due := l, ring := keep (b.ring ++ [rec_]), next := b.next + 1
        h := sha256v (leBytes 32 b.h.toNat ++ leBytes 32 rec_.toNat), sinceSeal := b.sinceSeal + 1 } } t) ∧
    (isRun s = true → b.due = k :: l → k.details = 0 → b.lost = 0 → 4096 ≤ held → k.kind ≠ 0x03 →
      ∃ t, exec .firmwareLogRecord s = .next t ∧ Concluded { s with log := { b with due := l, lost := 1 } } t) ∧
    (isRun s = true → b.due = k :: l → k.kind = 0x03 → logFull s = true →
      ∃ t, exec .firmwareLogRecord s = .next t ∧ Concluded { s with log := { b with due := l } } t) ∧
    (Serves s d 0x0061 0 → 0 < b.sinceSeal → held ≤ 4091 → b.due = [] → b.lost ≠ 0 → b.sinceSeal % 256 < 255 → ∃ u t,
      sealing = .next t ∧ Concluded (leaveHands u n) t ∧ { u with log := b } = s ∧ u.log.lost = 0 ∧ u.log.next = b.next + 5 ∧
        u.log.sinceSeal = 0 ∧ u.log.seals = b.seals ++ [⟨b.next + 1, [n]⟩] ∧
        ∃ gap x, u.log.ring = keep (b.ring ++ [gap, x, u.log.h, 0, 0]) ∧ gap = logHead s 0 2 0xE0 b.lost ((sha256 []).take 4)) ∧
    (Serves s d 0x0061 0 → 0 < b.sinceSeal → held ≤ 4092 → b.due = [] → b.lost = 0 → ∃ u t, sealing = .next t ∧ Concluded (leaveHands u n) t ∧
      u = { s with log := { b with ring := keep (keep (keep (keep (b.ring ++ [logHead s 0 2 0xF0 b.sinceSeal [0, 0, 0, 0]]) ++ [b.h]) ++ [0]) ++ [0]), next := b.next + 4, sinceSeal := 0
                                   seals := b.seals ++ [⟨b.next, [n]⟩] } }) ∧
    (Serves s d 0x0061 0 → b.sinceSeal = 0 → b.due = [] → b.seals = [] → Answers sealing s d 0x00 (told (b.next - 5))) ∧
    (Serves s d 0x0061 0 → b.sinceSeal = 0 → b.due = [] → b.seals = gs ++ [g] → ∃ t, sealing = .next t ∧
      Concluded (leaveHands { s with log := { b with seals := gs ++ [{ g with doors := g.doors ++ [n] }] } } n) t) ∧
    (isRun s = true → s.fw.running = true → b.seals = g :: gs → g.doors = [n] → oldest ≤ g.head →
      ∃ t x y,
        let u := raise { s with log := { b with seals := gs, ring := (b.ring.set (g.head + 2 - oldest) x).set (g.head + 2 - oldest + 1) y } } 706
        exec .sealGroupSigned s = .next t ∧
        Concluded (if (mbxOf s n).state = .busy ∧ (mbxOf s n).taken = none then respond u n 0x00 (told (g.head - 1)) else u) t ∧
        leBytes 32 x.toNat ++ leBytes 32 y.toNat = ((sealSignature s g.head ++ List.replicate 64 0).take 64)) ∧
    (Serves s d 0x0060 0 → first ≤ b.next → pay s n 2 &&& ~~~ 0x1FFF = 0 → 1 ≤ count → count ≤ 4096 →
      (first < oldest → Refuses read s d 0x09) ∧
      (oldest ≤ first → len ≠ 0 → windowFail s 0 a len .write ≠ none → Answers read (countRefused s 0) d 0x0F []) ∧
      (oldest ≤ first → m = 0 → len = 0 ∨ windowFail s 0 a len .write = none →
        Answers read marked d 0x00 ([BitVec.ofNat 32 m] ++ told (first + m) ++ [BitVec.ofNat 32 left])) ∧
      (oldest ≤ first → m ≠ 0 → windowFail s 0 a len .write = none → windowAt s 0 a = some win →
        Answers read { storeBytes (roused s win) win a (records.flatMap fun r => leBytes 32 r.toNat) with log := marked.log } d 0x00
          ([BitVec.ofNat 32 m] ++ told (first + m) ++ [BitVec.ofNat 32 left])))

/-- R57, R58, R486, R493 to R495: SNAPSHOT_REQUEST replaces a partition's snapshot settings and tells the landing of a one-shot one; a failed health test of the TRNG is latched and reported; a debug challenge is issued with a fresh nonce, and its response, right and within 10 s, grants the level, and otherwise counts against eight attempts. What the rules leave open is taken as the assumption log says (9, 59 and 60). -/
def Obligations.SnapshotAndDebugCommands : Prop :=
  ∀ (s : State) (d : Door) (p : Nat) (level : BitVec 8) (key sig : BitVec 512) (c : BitVec 256) (at_ : Int),
    let n := doorNo d
    let snap := exec (.gSnapshotRequest d) s
    let once := (pay s n 0).getLsbD 0
    let again := fieldOf (pay s n 0) 16 16
    let a := pay64 s n 1
    let len := (pay s n 3).toNat
    let asked (s : State) : State := modPart s p fun x =>
      { x with snap := { x.snap with once := x.snap.once || once, repeatN := again, buffer := a, length := len } }
    let k := bvBytes 64 key
    let good := (s.tb.time : Int) ≤ at_ + 10000000000 ∧ sha256v k = Config.dbgRoot ∧
      ecdsaVerify k (sha256 (bvBytes 32 c ++ leBytes 8 Config.devSerial.toNat ++ [s.sec.dbgReq])) (bvBytes 64 sig) = true
    let spent : Security := { s.sec with nonce := none, tapIr := .dbgResp }
    let record (ok : Bool) : LogDraft := { door := 3, kind := 0x0D, object := s.sec.dbgReq.toNat % 4 + if ok then 2 ^ 8 else 0 }
    (Serves s d 0x0070 p → pay s n 0 &&& ~~~ (if 0x0300 ≤ sessionOf s n then 0xFFFF0001 else 1) = 0 →
      (domainOn s 63 = false → once = true ∨ again ≠ 0 → Refuses snap s d 0x0C) ∧
      (domainOn s 63 = true ∨ once = false ∧ again = 0 →
        (len ≠ 0 → windowFail s p a len .write ≠ none → Answers snap (countRefused s p) d 0x0F []) ∧
        (len = 0 ∨ windowFail s p a len .write = none →
          (once = true → Answers snap (asked s) d 0x00 [BitVec.ofNat 32 (nextLandingLsn s)]) ∧
          (once = false → ∃ w, Answers snap (asked (drawn s)) d 0x00 [w])))) ∧
    (isRun s = true → (∃ t', exec .trngHealthFail s = .next t' ∧ Concluded (raise { s with sec := { s.sec with
      trngFail := true, noSealKey := s.sec.noSealKey || (slotOf s 0).material.isEmpty } } 707) t')) ∧
    (isRun s = true → level = 1 ∨ level = 2 →
      (s.sec.trngFail = true ∨ 8 ≤ s.sec.dbgFails.toNat → (∃ t', exec (.dbgChal level) s = .next t' ∧ Concluded { s with sec := { s.sec with tapIr := .dbgChal } } t')) ∧
      (s.sec.trngFail = false → s.sec.dbgFails.toNat < 8 → ∃ x, (∃ t', exec (.dbgChal level) s = .next t' ∧ Concluded { drawn s with sec := { s.sec with
        dbgReq := level, nonce := some (x, s.tb.time), nonceSent := x, tapIr := .dbgChal } } t'))) ∧
    (isRun s = true → s.sec.nonce = some (c, at_) → logRoom s ≥ 1 → s.log.lost = 0 →
      (good → s.sec.dbgReq = 1 → (∃ t', exec (.dbgResp key sig) s = .next t' ∧ Concluded (logAlways (raise { s with sec := { spent with dbgLevel := 1 } } 708) (record true)) t')) ∧
      (good → s.sec.dbgReq = 2 → (∃ t', exec (.dbgResp key sig) s = .next t' ∧ Concluded (logAlways (raise { s with sec := { spent with
        keys := s.sec.keys.filter (fun x => x.1 < 3), dbgLevel := 2 } } 708) (record true)) t')) ∧
      (¬ good → (∃ t', exec (.dbgResp key sig) s = .next t' ∧ Concluded (logAlways { s with sec := { spent with
        dbgFails := if 8 ≤ s.sec.dbgFails.toNat then s.sec.dbgFails else s.sec.dbgFails + 1 } } (record false)) t'))) ∧
    (isRun s = true → s.sec.nonce = none → (∃ t', exec (.dbgResp key sig) s = .next t' ∧ Concluded (logAlways { s with sec := { spent with
      dbgFails := if 8 ≤ s.sec.dbgFails.toNat then s.sec.dbgFails else s.sec.dbgFails + 1 } } (record false)) t'))

/-- R207, R412 to R414, R423 to R427, R490: ENDPOINT_SET makes an entry with the next number: READY on the other side of a link, on a queue, and on a port whose identity is verified, and PENDING on any other; a key slot that the owner may not use is DENIED with every KIND; with KIND 0 it frees an entry; IDENTITY_SCAN replaces the results of the buses it names, writes them to the buffer and tells their counts. What the rules leave open is taken as the assumption log says (61 and 62). -/
def Obligations.EndpointCommands : Prop :=
  ∀ (s : State) (d : Door) (mems : List IdMemory) (win : Window),
    let n := doorNo d
    let f (k lo len : Nat) : Nat := fieldOf (pay s n k) lo len
    let eid := f 0 0 14
    let kind := f 0 16 2
    let own := f 0 20 5
    let w := pay s n 1
    let old := epOf s eid
    let auth := (pay s n 2).getLsbD 8
    let slot := f 2 0 6
    let set := exec (.gEndpointSet d) s
    let gone := exec (.gEndpointRemove d) s
    let sound := pay s n 0 &&& ~~~ 0x01F33FFF = 0 ∧ pay s n 2 &&& ~~~ 0x13F = 0 ∧ eid ≠ 0x3FFF ∧ named s own = false ∧
      (old.state ≠ .free → named s old.owner.toNat = false) ∧ (auth = true → slot ≠ 0 ∧ (partOf s own).keyslots.getLsbD slot = true)
    let base : Endpoint := { kind := BitVec.ofNat 2 kind, owner := BitVec.ofNat 5 own, authEn := auth, keySlot := BitVec.ofNat 6 slot
                             number := old.number + 1 }
    let put (e : Endpoint) : State := { s with ep := { s.ep with dir := tPut s.ep.dir eid e } }
    let makes (e : Endpoint) : Prop := Commits set s (put e) d [(old.number + 1).setWidth 32]
    let port := f 1 0 7
    let bus := f 1 8 24
    let placed : Endpoint := { base with port := BitVec.ofNat 7 port, busAddr := BitVec.ofNat 24 bus }
    let taken := ∃ x, x ∈ s.ep.dir ∧ x.1 ≠ eid ∧ x.2.state ≠ .free ∧ x.2.kind = 1 ∧ x.2.port.toNat = port ∧ x.2.busAddr.toNat = bus
    let far : Endpoint := { base with link := w.getLsbD 0, part := BitVec.ofNat 6 (f 1 8 6), remote := BitVec.ofNat 14 (f 1 16 14) }
    let scan := exec (.gIdentityScan d mems) s
    let mask := f 0 0 8
    let a := pay64 s n 1
    let len := (pay s n 3).toNat
    let found := (memoriesOn mask mems).zipIdx.map fun x => (x.1, identityOf s x.2 x.1)
    let good := (found.filter fun x => x.2.reason == 0).length
    let counts := [found.length, good, found.length - good]
    let record : LogDraft := { commandRecord s n with detail := counts.map (BitVec.ofNat 8), details := 1 }
    logFull s = false →
    (Serves s d 0x0081 0 → auth = true → slot = 0 ∨ (partOf s own).keyslots.getLsbD slot = false →
      (kind ≠ 0 → Refuses set s d 0x06) ∧ (kind = 0 → Refuses gone s d 0x06)) ∧
    (Serves s d 0x0081 0 → sound →
      (kind = 2 → w &&& ~~~ 0x3FFF3F01 = 0 → far.part ≠ s.ep.selfId → far.remote ≠ 0x3FFF → makes { far with state := .ready }) ∧
      (kind = 1 → w &&& ~~~ 0xFFFFFF7F = 0 → port < 96 →
        ((portOf s port).owner = none → Refuses set s d 0x09) ∧
        (∀ o, (portOf s port).owner = some o → o ≠ own → Refuses set s d 0x06) ∧
        ((portOf s port).owner = some own → taken → Refuses set s d 0x08) ∧
        (∀ i, (portOf s port).owner = some own → ¬ taken → bus = 0 → tFind s.ep.ident (16 * (port / 12) + port % 12) = some i → i.reason = 0 →
          makes { placed with state := .ready, portCom := (portOf s port).number, neg := i.neg }) ∧
        ((portOf s port).owner = some own → ¬ taken →
          bus ≠ 0 ∨ (∀ i, tFind s.ep.ident (16 * (port / 12) + port % 12) = some i → i.reason ≠ 0) → makes { placed with state := .pending })) ∧
      (∀ q, kind = 1 → w &&& ~~~ 0xFFFFFF7F = 0 → port = 127 → bus < 8192 → queueOf s bus = some q →
        (q.owner ≠ own → Refuses set s d 0x06) ∧ (q.owner = own → taken → Refuses set s d 0x08) ∧
        (q.owner = own → ¬ taken → makes { placed with state := .ready })) ∧
      (kind = 0 → w = 0 → old.state = .free → Refuses gone s d 0x09) ∧
      (kind = 0 → w = 0 → old.state ≠ .free → Commits gone s (put { number := old.number + 1 }) d [(old.number + 1).setWidth 32])) ∧
    (Serves s d 0x0080 0 → pay s n 0 &&& ~~~ 0xFF = 0 →
      (domainOn s 61 = false → Refuses scan s d 0x0C) ∧
      (domainOn s 61 = true → len ≠ 0 → windowFail s 0 a len .write ≠ none → Answers scan (countRefused s 0) d 0x0F []) ∧
      (domainOn s 61 = true → 16 ≤ len → windowFail s 0 a len .write = none → windowAt s 0 a = some win → ∃ u,
        Answers scan (logNormal u record) d 0x00 (counts.map (BitVec.ofNat 32)) ∧
        { u with ep := s.ep, freeCtr := s.freeCtr, hostMem := s.hostMem, bankMem := s.bankMem, bank := s.bank, deck := s.deck } = s ∧
        (∀ x, x ∈ found → tFind u.ep.ident (16 * x.1.bus.val + x.1.addr.val) = some x.2) ∧
        (∀ k, mask.testBit (k / 16) = false → tFind u.ep.ident k = tFind s.ep.ident k) ∧
        u.hostMem = (storeBytes s win a (scanBytes len found)).hostMem ∧ u.bankMem = (storeBytes s win a (scanBytes len found)).bankMem ∧
        u.deck.mem = (storeBytes s win a (scanBytes len found)).deck.mem))

/-- R207, R208, R507 to R511, R517, R537: POWER_STATE: entry to moored is committed for the next landing while no timed voyage is admitted; a domain is switched off in the commit cycle where its condition holds, the requests of a port in it ending with STALE_ROLE, and on at the end of its transition, whose completion answers the command and raises source 710. What the rules leave open is taken as the assumption log says (80 to 82). -/
def Obligations.PowerCommands : Prop :=
  ∀ (s : State) (d : Door) (x : DomainSwitch),
    let n := doorNo d
    let op := fieldOf (pay s n 0) 0 4
    let k := fieldOf (pay s n 0) 16 6
    let calm := s.pwr.mooring = none ∧ s.pwr.switching = none ∧ ¬ (24 ≤ k ∧ k < 40 ∧ (bankOf s (k - 24)).handover ≠ none)
    let switches := k < 52 ∨ k = 57 ∨ k = 58 ∨ k = 61 ∨ k = 63
    let off := exec (.gPowerStateDomainOff d) s
    let on := exec (.gPowerStateDomainOn d) s
    let moor := exec (.gPowerStateMoor d) s
    let out : State := { s with pwr := { s.pwr with domains := s.pwr.domains &&& ~~~ (1#64 <<< k), switching := some ⟨k, false, n⟩ } }
    let still (j : Nat) : Prop := (portOf s j).delivered = none ∧ (portOf s j).waiting = [] ∧ (portOf s j).joining = [] ∧
      (∀ u, u < 2 → shiftDir (shiftOf (portOf s j) u) = 0) ∧ (∀ x, x ∈ s.deck.stalls → x.agent ≠ .port j) ∧
      ∀ x, x ∈ s.deck.queues → Agent.port j ∉ x.2.waiting ∧ Agent.port j ∉ x.2.woken
    let waits (o : Host.Outcome State Fault Refusal) (u : State) : Prop :=
      ∃ t, o = .next t ∧ Concluded (leaveHands (logNormal u (commandRecord s n)) n) t
    let lit : State := { s with pwr := { s.pwr with switching := none, domains := s.pwr.domains ||| (1#64 <<< x.domain) } }
    let dark : State := { s with pwr := { s.pwr with switching := none } }
    let ends (u : State) : Prop := ∃ t, exec .domainTransitionDone s = .next t ∧
      Concluded (raise (if (mbxOf s x.door).state = .busy ∧ (mbxOf s x.door).taken = none then respond u x.door 0x00 [] else u) 710) t
    (Serves s d 0x0090 0 → logFull s = false → pay s n 0 &&& ~~~ 0x003F000F = 0 →
      (op = 0 ∨ 4 ≤ op → Answers moor s d 0x05 [2]) ∧
      (op = 1 → s.pwr.mooring ≠ none ∨ s.pwr.switching ≠ none ∨ noTimed s = false → Refuses moor s d 0x0C) ∧
      (op = 1 → s.pwr.mooring = none → s.pwr.switching = none → noTimed s = true →
        Commits moor s { s with pwr := { s.pwr with mooring := some ⟨dueLsn s 0, false⟩ } } d []) ∧
      (op = 2 → switches → calm → domainOn s k = false → Commits off s s d []) ∧
      (op = 2 → switches → calm → domainOn s k = true → offAllowed s k = false → Refuses off s d 0x0C) ∧
      (op = 2 → switches → calm → domainOn s k = true → offAllowed s k = true →
        (k < 24 → ∃ u, waits off u ∧ u.pwr = out.pwr ∧ u.deck.mem = s.deck.mem ∧
          (∀ j, j < 4 → portOf u (4 * k + j) = offPort (portOf s (4 * k + j))) ∧ (∀ q, q / 4 ≠ k → portOf u q = portOf s q) ∧
          ((∀ j, j < 4 → still (4 * k + j)) → { u with port := s.port } = out) ∧
          ∀ j r c v y, j < 4 → (portOf s (4 * k + j)).delivered = some (r, c) → r.vid = some v → r.orphan = false → voyOf s v = some y →
            ∃ z, voyOf u v = some z ∧ z.answer = some { status := 0x12, ext := 0x01 }) ∧
        (24 ≤ k → k < 40 → waits off { modBank out (k - 24) fun b => { kind := b.kind, owner := b.owner } with
          bankMem := memClear s.bankMem (2 ^ 18 * (k - 24)) (2 ^ 18) }) ∧
        (40 ≤ k → k < 48 → waits off out) ∧
        (48 ≤ k → k < 52 → waits off { out with sch := { s.sch with inService := s.sch.inService &&& ~~~ (0xF#16 <<< (4 * (k - 48))) } }) ∧
        (k = 57 ∨ k = 58 → waits off (modLink (modBb out (k - 57) fun b => { b with link := false, speed := 0, gptp := [], cnt := [] }) (k - 57)
          fun l => { l with inbox := [] })) ∧
        (k = 61 → ∃ u, waits off u ∧ u.ep.ident = [] ∧ { u with ep := s.ep } = out) ∧
        (k = 63 → waits off { out with tb := { s.tb with snapRam := none } })) ∧
      (op = 2 → ¬ switches → Answers off s d 0x05 [2]) ∧ (op = 3 → ¬ switches → Answers on s d 0x05 [2]) ∧
      (op = 2 → switches → ¬ calm → Refuses off s d 0x0C) ∧ (op = 3 → switches → ¬ calm → Refuses on s d 0x0C) ∧
      (op = 3 → switches → calm → domainOn s k = true → Commits on s s d []) ∧
      (op = 3 → switches → calm → domainOn s k = false →
        waits on { s with pwr := { s.pwr with switching := some ⟨k, true, n⟩ } })) ∧
    (isRun s = true → s.pwr.switching = some x →
      (x.on = false → ends dark) ∧
      (x.on = true → x.domain < 24 → ∃ u, ends u ∧ { u with port := s.port } = lit ∧
        ∀ j, j < 4 → (portOf u (4 * x.domain + j)).eng.scrub = true) ∧
      (x.on = true → 24 ≤ x.domain → x.domain < 40 → ends { modBank lit (x.domain - 24) (fun b => { b with bad := [], soft := [] }) with
        bankMem := memClear s.bankMem (2 ^ 18 * (x.domain - 24)) (2 ^ 18) }) ∧
      (x.on = true → 40 ≤ x.domain → x.domain < 48 → ∃ u, ends u ∧ { u with deck := s.deck } = lit ∧
        ∀ c, c % 32 / 4 = x.domain - 40 → c ∉ u.deck.bad ∧ (∀ j, j ∈ u.deck.soft → j / 8 ≠ c) ∧ ∀ i, i < 64 → memRead u.deck.mem (64 * c + i) = 0) ∧
      (x.on = true → 48 ≤ x.domain → x.domain < 52 → ∃ pass : BitVec 16, pass &&& ~~~ 0xF = 0 ∧
        ends { drawn lit with sch := { s.sch with inService := s.sch.inService ||| (pass <<< (4 * (x.domain - 48)) &&& ~~~ s.sch.retired) } }) ∧
      (x.on = true → 52 ≤ x.domain → ends lit))

/-- R209 to R212, R475 to R477: a firmware update: BEGIN opens it and erases the slot that does not run, CHUNK takes the image in order, the work in the background programs it, COMMIT verifies it and marks it TRIAL, or leaves it erased, CONFIRM makes the running slot permanent, and mode 2 closes the update. What the rules leave open is taken as the assumption log says (77 and 78). -/
def Obligations.FirmwareUpdateCommands : Prop :=
  ∀ (s : State) (d : Door) (u : FwUpdate) (win : Window) (o : Nat) (l : List Byte) (rest : List (Nat × List Byte)),
    let n := doorNo d
    let f (k lo len : Nat) : Nat := fieldOf (pay s n k) lo len
    let put (x : Firmware) : State := { s with fw := x }
    let other := if s.fw.slot then 0x100000 else 0x200000
    let erased := memClear s.fw.flash other 0x100000
    let length := f 0 0 21
    let svn := f 1 0 7
    let start := exec (.gFwUpdateBegin d) s
    let chunk := exec (.gFwUpdateChunk d) s
    let offset := f 0 0 21
    let len := f 3 0 13
    let a := pay64 s n 1
    let bytes := (List.range len).map fun i => byteAt s win (a + i)
    let works (x : Firmware) : Prop := ∃ t, exec .fwFlashBackgroundDone s = .next t ∧ Concluded (put x) t
    let mode := f 0 0 2
    (Serves s d 0x00A0 0 → logFull s = false → pay s n 0 &&& ~~~ 0x1FFFFF = 0 → pay s n 1 &&& ~~~ 0x7F = 0 →
      (length < 4096 ∨ 1048576 < length ∨ length % 4096 ≠ 0 → Answers start s d 0x05 [2]) ∧
      (4096 ≤ length → length ≤ 1048576 → length % 4096 = 0 → svn < s.sec.svnFuse → Answers start s d 0x05 [3]) ∧
      (4096 ≤ length → length ≤ 1048576 → length % 4096 = 0 → s.sec.svnFuse ≤ svn →
        (s.fw.update ≠ none → Refuses start s d 0x08) ∧
        (s.fw.update = none → Commits start s (put { s.fw with update := some { length := length, svn := BitVec.ofNat 7 svn } }) d []))) ∧
    (Serves s d 0x00A1 0 → pay s n 0 &&& ~~~ 0x1FFFFF = 0 → pay s n 3 &&& ~~~ 0x1FFF = 0 → s.fw.update = some u →
      (offset ≠ u.accepted → Answers chunk s d 0x05 [2]) ∧
      (offset = u.accepted → len = min 4096 (u.length - u.accepted) → len ≠ 0 →
        (u.erasing = true ∨ 2 ≤ u.staged.length → Refuses chunk s d 0x0C) ∧
        (u.erasing = false → u.staged.length < 2 →
          (windowFail s 0 a len .read ≠ none → Answers chunk (countRefused s 0) d 0x0F []) ∧
          (windowFail s 0 a len .read = none → windowAt s 0 a = some win → win.space = 0 → (∀ i, i < len → lostByte s win (a + i) = false) →
            Answers chunk (put { s.fw with update := some { u with accepted := u.accepted + len
                                                                   staged := u.staged ++ [(offset, bytes)] } }) d 0x00 [])))) ∧
    (isRun s = true → s.fw.running = true → s.fw.update = some u →
      (u.erasing = true → works { s.fw with flash := erased, update := some { u with erasing := false } }) ∧
      (u.erasing = false → u.staged = [] → works s.fw) ∧
      (u.erasing = false → u.staged = (o, l) :: rest →
        works { s.fw with flash := memPut s.fw.flash (other + o) l, update := some { u with staged := rest } })) ∧
    (Serves s d 0x00A2 0 → logFull s = false → pay s n 0 &&& ~~~ 0x3 = 0 →
      (mode = 3 → Answers (exec (.gFwUpdateCommit d) s) s d 0x05 [2]) ∧
      (mode = 0 → s.fw.update = none → Refuses (exec (.gFwUpdateCommit d) s) s d 0x09) ∧
      (mode = 0 → s.fw.update = some u → u.erasing = false → u.staged = [] →
        (fwPasses s (!s.fw.slot) = true → fwSvn s (!s.fw.slot) = u.svn.toNat → Commits (exec (.gFwUpdateCommit d) s) s
          (put { s.fw with trial := some (!s.fw.slot), trialTried := false, update := none }) d []) ∧
        (fwPasses s (!s.fw.slot) = false ∨ fwSvn s (!s.fw.slot) ≠ u.svn.toNat →
          Answers (exec (.gFwUpdateCommit d) s) (put { s.fw with flash := erased }) d 0x40 [])) ∧
      (mode = 1 → s.fw.trial = some s.fw.slot → Commits (exec (.gFwUpdateConfirm d) s) s
        (logDue { put { s.fw with permanent := s.fw.slot, trial := none } with
          sec := { s.sec with svnFuse := max s.sec.svnFuse (fwSvn s s.fw.slot) } } (bootDraft s 2 0)) d []) ∧
      (mode = 1 → s.fw.trial ≠ some s.fw.slot → ∃ t, exec (.gFwUpdateConfirm d) s = .next t ∧ t.fw.permanent = s.fw.permanent ∧
        t.fw.trial = s.fw.trial ∧ t.sec = s.sec ∧ (Concluded (respond (drawn s) n 0x05 [2]) t ∨ Concluded (respond (drawn s) n 0x09 []) t)) ∧
      (mode = 2 → s.fw.update = none → Refuses (exec (.gFwUpdateAbandon d) s) s d 0x09) ∧
      (mode = 2 → s.fw.update ≠ none →
        Commits (exec (.gFwUpdateAbandon d) s) s (put { s.fw with flash := erased, update := none }) d []))

/-! ## Resets, power and start-up (18_power_reset_startup.md, 07_partitions.md) -/

/-- R20 to R22, R212, R475 to R477, R506, R510, R518 to R521, R525, R573: a cold reset keeps the fuses, the key fuses and the flash, and what lies outside; a warm reset keeps the faults, the logbook and the key slots that persist as well, and tells its cause; the end of a reset starts the root PLL, whose lock brings the device to RUN with the engines that pass their test and boots the chosen slot, then the other, the flash being read at the rate that the slot's header gives, or at a slower one that the flash allows; a failed trial is cleared. The loss of the supply of port group 0 or 1 while moored is a brown-out. What the rules leave open is taken as the assumption log says (72 to 75, 130 to 132). -/
def Obligations.ResetsAndBoot : Prop :=
  ∀ (s : State) (b : BootInputs) (r : Rail) (strap : Bool) (g : Fin 24) (v : VddioRange),
    let cold (s : State) (p : Power) : State :=
      { pending := s.pending, freeCtr := s.freeCtr, hostMem := s.hostMem, hostBad := s.hostBad, out := s.out
        pwr := { p with vddio := s.pwr.vddio, quiesce := s.pwr.quiesce }
        fw := { flash := s.fw.flash, permanent := s.fw.permanent, trial := s.fw.trial, trialTried := s.fw.trialTried }
        sec := { keys := s.sec.keys.filter (fun x => x.1 < 2), kekSet := s.sec.kekSet, svnFuse := s.sec.svnFuse }
        port := s.port.map fun x => (x.1, { pins := x.2.pins.map fun y => (y.1, { ball := y.2.ball }) }) }
    let kept (l : Logbook) : Logbook := { ring := l.ring, next := l.next, mark := l.mark, h := l.h, sinceSeal := l.sinceSeal, due := l.due
                                          seals := l.seals.map fun x => { x with doors := [] } }
    let held : Power := { porstLow := s.pwr.porstLow, railsLow := s.pwr.railsLow, vddioLow := s.pwr.vddioLow }
    let warm (cause : Nat) (faults : BitVec 5) : State :=
      let c := cold s { held with phase := .locking, sticky := faults, nofw := s.pwr.nofw, railsWarn := s.pwr.railsWarn, critOn := s.pwr.critOn
                                  lastReset := BitVec.ofNat 4 (cause + 1), refsel := s.pwr.refsel
                                  linkUp := s.pwr.linkUp, coldBoot := false, cause := BitVec.ofNat 4 cause }
      { c with log := kept s.log, sec := { c.sec with keys := s.sec.keys.filter (fun x => x.1 < 3), dbgFails := s.sec.dbgFails } }
    let locks (s : State) : State := if s.pwr.porstLow || !s.pwr.railsLow.isEmpty || !s.pwr.vddioLow.isEmpty then s else { s with pwr := { s.pwr with phase := .locking } }
    let does (i : Instr) (t : State) : Prop := exec i s = .next t
    let chosen := match s.fw.trial with | some x => if s.fw.trialTried then s.fw.permanent else x | none => s.fw.permanent
    let boots (t : State) (slot : Bool) : Prop := t.fw.running = true ∧ t.fw.ready = true ∧ t.fw.bsy = false ∧ t.fw.watchdog = false ∧
      t.fw.slot = slot ∧ t.pwr.phase = .run ∧ t.pwr.nofw = s.pwr.nofw
    let rated (t : State) (slot : Bool) : Prop :=
      let n := fieldOf (fwWord s slot 4) 0 6
      let d := if n = 0 then 8 else n
      t.fw.xspiWide = true ∧ (b.sfdpLimit = none → t.fw.xspiDiv = d) ∧ ∀ m, b.sfdpLimit = some m →
        (800 ≤ m.toNat * d → t.fw.xspiDiv = d) ∧
        (m.toNat * d < 800 → 4 ≤ t.fw.xspiDiv ∧ t.fw.xspiDiv ≤ 64 ∧ t.fw.xspiDiv % 2 = 0 ∧ (800 ≤ m.toNat * t.fw.xspiDiv ∨ t.fw.xspiDiv = 64) ∧
          ∀ e, 4 ≤ e → e % 2 = 0 → e < t.fw.xspiDiv → m.toNat * e < 800)
    let dead (t : State) : Prop := t.fw.running = false ∧ t.fw.ready = false ∧ t.pwr.nofw = true ∧ t.pwr.phase = .run
    let locked (p : State → Prop) : Prop := ∃ t, does (.pllLock b) t ∧ t.sch.inService = b.selfTest ∧ p t
    does .porstNAsserted (cold s { held with porstLow := true }) ∧
    (s.pwr.porstLow = true → does (.porstNRelease strap) (locks { s with pwr := { s.pwr with porstLow := false, refsel := strap } })) ∧
    (r ≠ .sds → ∃ x, does (.brownOut r) (cold (drawn s) { held with
      railsLow := if s.pwr.railsLow.contains r then s.pwr.railsLow else s.pwr.railsLow ++ [r], refsel := x })) ∧
    (r = .sds → does (.brownOut r) s) ∧
    (r ∈ s.pwr.railsLow → does (.brownOutRecovery r) (locks { s with pwr := { s.pwr with
      railsLow := s.pwr.railsLow.filter (· != r) } })) ∧
    (isRun s = true → s.pwr.hold = false →
      does .wrstNAsserted (warm 0 s.pwr.sticky) ∧ does .warmResetCommand (warm 1 s.pwr.sticky) ∧
      (s.fw.ready = true → does .pf0Flr (warm 3 s.pwr.sticky)) ∧ (s.fw.ready = false → does .pf0Flr s) ∧
      does .pllLockLoss (warm 2 (s.pwr.sticky ||| 8))) ∧
    (s.pwr.phase ≠ .locking → does (.pllLock b) s) ∧
    (s.pwr.phase = .locking →
      (b.fuseError = true → locked dead) ∧
      (b.fuseError = false → fwPasses s chosen = true →
        (b.inTime = true → locked fun t => boots t chosen ∧ rated t chosen) ∧
        (b.inTime = false → locked fun t => t.fw.watchdog = true ∧ t.fw.running = s.fw.running ∧ t.fw.slot = chosen ∧ t.fw.tried = 1 ∧ rated t chosen)) ∧
      (b.fuseError = false → fwPasses s chosen = false → fwPasses s (!chosen) = true → b.inTime2 = true →
        locked fun t => boots t (!chosen) ∧ rated t (!chosen) ∧ t.fw.trial ≠ some chosen) ∧
      (b.fuseError = false → fwPasses s chosen = false → fwPasses s (!chosen) = false → locked dead)) ∧
    (isRun s = true → s.fw.watchdog = true →
      (s.fw.tried = 1 → fwPasses s (!s.fw.slot) = true → b.inTime2 = true →
        ∃ t, does (.bootWatchdogExpiry b) t ∧ boots t (!s.fw.slot) ∧ rated t (!s.fw.slot) ∧ t.fw.trial ≠ some s.fw.slot) ∧
      (s.fw.tried = 2 → ∃ t, does (.bootWatchdogExpiry b) t ∧ dead t ∧ t.fw.trial ≠ some s.fw.slot)) ∧
    (s.pwr.phase = .moored → g.val < 2 → tGet s.pwr.vddio g .out ≠ .out → ∃ x, does (.vddioSupplyChange g .out)
      (cold (drawn { s with pwr := { s.pwr with vddio := tPut s.pwr.vddio g .out } }) { held with vddioLow := [g.val], refsel := x })) ∧
    (g.val ∈ s.pwr.vddioLow → tGet s.pwr.vddio g .out = .out → v ≠ .out → does (.vddioSupplyChange g v)
      (locks { s with pwr := { s.pwr with vddio := tPut s.pwr.vddio g v, vddioLow := s.pwr.vddioLow.filter (· != g.val) } }))

/-- R216, R217, R223, R225, R231 to R237: the triggers of a partition reset: a function-level reset and the clearing of VF Enable; the fence ends the partition's voyages and the work of its channels, and the steps after the drain remove its rings, queues, windows, channels and keys, empty its mailbox, clear the pending and in-service state of its sources with their PRIO and VEC and its target's registers and MSI-X table, cancel the swaps of its ports, whose numbers increment and which are set to reach their safe state, and tell the partition and the steward. Before READY a Configuration Request has no effect. A host link that goes down during a reset discards the partition's writes to the host. What the rules leave open is taken as the assumption log says (11, 83 and 130). -/
def Obligations.FunctionAndPartitionResets : Prop :=
  ∀ (s : State) (p : Fin 32) (r : ResetSeq) (bm me fm : Bool), isRun s = true →
    let fencedBy (t : State) (q trigger : Nat) : Prop :=
      (∃ x, (partOf t q).reset = some x ∧ x.trigger = trigger) ∧ (partOf t q).busMaster = false ∧
        (∀ v y, voyOf t v = some y → y.part ≠ q) ∧
        ∀ c, (chanOf s c).owner = some q → (chanOf t c).active = none ∧ (chanOf t c).shadow = none ∧
          (chanOf t c).latch = none ∧ (chanOf t c).owner = some q
    let g : Target := { targetOf s p with msixEnable := me, functionMask := fm }
    (s.fw.ready = false → ∀ vf, exec (.vfFlr p) s = .next s ∧ exec .vfEnableClear s = .next s ∧ exec (.pcieDoorChange vf p bm me fm) s = .next s) ∧
    (∃ t, exec (.pcieLinkChange false) s = .next t ∧ { t with cq := s.cq, sq := s.sq, pwr := s.pwr } = s ∧ t.pwr = { s.pwr with linkUp := false } ∧
      ((∀ q : Fin 32, (partOf s q).reset = none) → t.cq = s.cq ∧ t.sq = s.sq) ∧
      ((partOf s p).reset = some r → ∀ m c, m < 8 → cqOf s p m = some c → onHost s p c.shadow = true → (∀ x, x ∈ c.unwritten → onHost s p (slotAddr c x.1) = true) →
        cqOf t p m = some { c with unwritten := [], shadowDue := false })) ∧
    (s.fw.ready = true → p.val = 0 ∨ s.vfEnable = false → ∃ t, exec (.vfFlr p) s = .next t ∧ Concluded s t) ∧
    (s.fw.ready = true → p.val ≠ 0 → s.vfEnable = true → (partOf s p).reset = none → ∃ t, exec (.vfFlr p) s = .next t ∧ fencedBy t p 0 ∧ t.vfEnable = true) ∧
    (s.fw.ready = true → p.val ≠ 0 → s.vfEnable = true → (partOf s p).reset = some r →
      ∃ t, exec (.vfFlr p) s = .next t ∧ (partOf t p).reset = some r ∧ t.brg = s.brg ∧ t.sq = s.sq ∧ t.cq = s.cq) ∧
    (s.fw.ready = true → s.vfEnable = true → ∃ t, exec .vfEnableClear s = .next t ∧ t.vfEnable = false ∧
      ∀ q : Fin 32, q.val ≠ 0 → (partOf s q).reset = none → fencedBy t q 3) ∧
    (s.fw.ready = true → s.vfEnable = true → (targetOf s p).pba = [] → ∃ t, exec (.pcieDoorChange true p bm me fm) s = .next t ∧
      Concluded (modPart { s with icu := { s.icu with target := tPut s.icu.target p g } } p fun x => { x with busMaster := bm }) t) ∧
    (s.fw.ready = true → s.vfEnable = true → p.val ≠ 0 → (partOf s p).reset = none →
      ∃ t, exec (.pcieDoorChange false p bm me fm) s = .next t ∧ t.vfEnable = false ∧ fencedBy t p 3) ∧
    ((partOf s p).reset = none → ∃ t, exec (.partitionResetDrained p) s = .next t ∧ Concluded s t) ∧
    ((partOf s p).reset = some r → r.doors = [] → p.val ≠ 0 → ∃ t, exec (.partitionResetDrained p) s = .next t ∧ (partOf t p).reset = none ∧
      (partOf t p).wins = [] ∧ (∀ n, n < 8 → sqOf t p n = none ∧ cqOf t p n = none) ∧
      (∀ q y, q < 8192 → queueOf t q = some y → y.owner ≠ p) ∧ (∀ c, (chanOf s c).owner = some p.val → chanOf t c = {}) ∧
      (∀ k, k ∈ t.sec.keys → 3 ≤ k.1 → k.2.filler.toNat ≠ p) ∧ (mbxOf t p).state = .idle ∧ (mbxOf t p).version = none ∧
      (mbxOf t p).tokens = 8000000 ∧ (partOf t p).event.getLsbD 4 = true ∧ (partOf t 0).event.getLsbD 6 = true ∧
      t.resetDone.getLsbD p = true ∧ tGet (partOf t p).cnt 5 0 = tGet (partOf s p).cnt 5 0 + 1 ∧
      { targetOf t p with pba := [] } = { msixEnable := (targetOf s p).msixEnable, functionMask := (targetOf s p).functionMask } ∧
      (∀ n, n ∈ (List.range 8).map (256 + 8 * p.val + ·) ++ [512 + p.val, 544 + p.val] →
        (n ≠ 544 + p.val → n ∉ t.icu.pend) ∧ n ∉ t.icu.serv ∧ (srcOf t n).prio = 0 ∧ (srcOf t n).vec = 0) ∧
      ∀ (n : Fin 96) (q : Port), keysRise s.port → tFind s.port n = some q → q.owner = some p.val →
        (∀ k, k = n.val ∨ k = 96 + n.val → k ∉ t.icu.pend ∧ k ∉ t.icu.serv ∧ (srcOf t k).prio = 0 ∧ (srcOf t k).vec = 0) ∧
        (portOf t n).number = q.number + 1 ∧ (portOf t n).swap = none ∧ (portOf t n).safeDue = q.safeDue ++ [.baseLanding] ∧ (portOf t n).txq = 0x1FFF)

/-- R447, R448, R454, R477, R514, R524 to R529, R566: what supervises the device: a rail outside its warning limits, the sensors with their hysteresis and the condition that stops the engines, QUIESCE_N, a lockstep mismatch, which puts the device in autonomous hold with every outstanding command answered BUSY and every load under way ended, its bank empty, and during the boot counts as the failure of its attempt, the I/O supplies, the host link and WAKE_N. What the rules leave open is taken as the assumption log says (46, 73 and 79). -/
def Obligations.Supervision : Prop :=
  ∀ (s : State) (r : Rail) (outside up : Bool) (g : Fin 24) (v : VddioRange) (t0 t1 t2 t3 : BitVec 16), isRun s = true →
    let pwr (p : Power) : State := { s with pwr := p }
    let readings := [t0, t1, t2, t3]
    let limit (lo hi n : Nat) : Int := 4 * ((max lo (min hi n) : Nat) : Int)
    let warn := limit 85 150 s.pwr.twarn.toNat
    let crit := limit 100 165 s.pwr.tcrit.toNat
    let follows (old new : BitVec 4) (lim : Int) : Prop := ∀ i : Fin 4,
      new.getLsbD i = (decide (lim ≤ (readings.getD i 0).toInt) || (old.getLsbD i && decide (lim - 20 < (readings.getD i 0).toInt)))
    let read (u : State) : Prop := (∀ i : Fin 4, tFind u.pwr.temp i = readings[i]?) ∧ follows s.pwr.warnOn u.pwr.warnOn warn ∧
      follows s.pwr.critOn u.pwr.critOn crit
    let pin (k : Nat) : LogDraft := { door := 4, kind := 0x0A, object := k }
    let stopped (u : State) : Prop := (∀ n y, voyOf u n = some y → y.state ≠ .active) ∧
      ∀ n y, voyOf s n = some y → ∃ z, voyOf u n = some z ∧ (y.state ≠ .active → z = y) ∧
        (y.state = .active → z.state = .ready ∧ z.slot = none ∧ z.entry = y.entry ∧ z.stage = y.stage ∧ z.regs = y.regs)
    let cold := ∀ t, t ∈ readings → t.toInt < crit
    let cool := ∀ t, t ∈ readings → t.toInt ≤ warn - 40
    let old := tGet s.pwr.vddio g .out
    (∃ t', exec (.supplyWarning r outside) s = .next t' ∧ Concluded (pwr { s.pwr with railsWarn :=
      if outside then (if s.pwr.railsWarn.contains r then s.pwr.railsWarn else s.pwr.railsWarn ++ [r]) else s.pwr.railsWarn.filter (· != r) }) t') ∧
    (s.pwr.thermal = false → s.pwr.thermAct = false ∨ cold → ∃ u t, exec (.temperatureReading t0 t1 t2 t3) s = .next t ∧ Concluded u t ∧ read u ∧
      { u with pwr := s.pwr } = s ∧ u.pwr.thermal = false ∧ u.pwr.thermSafe = s.pwr.thermSafe) ∧
    (keysRise s.sch.voy → s.pwr.thermal = false → s.pwr.thermAct = true → ¬ cold → ∃ u t, exec (.temperatureReading t0 t1 t2 t3) s = .next t ∧ Concluded u t ∧ read u ∧
      u.pwr.thermal = true ∧ u.pwr.thermSafe = true ∧ stopped u ∧ u.log.due = s.log.due ++ [pin 0xFF00]) ∧
    (s.pwr.thermal = true → cool → ∃ u t, exec (.temperatureReading t0 t1 t2 t3) s = .next t ∧ Concluded u t ∧ read u ∧ u.pwr.thermal = false ∧
      u.pwr.thermSafe = false ∧ u.log.due = s.log.due ++ [pin 0xFF01]) ∧
    (s.pwr.thermal = true → ¬ cool → ∃ u t, exec (.temperatureReading t0 t1 t2 t3) s = .next t ∧ Concluded u t ∧ read u ∧ u.pwr.thermal = true) ∧
    (keysRise s.sch.voy → s.pwr.quiesce = false → ∃ u t, exec .quiesceAssert s = .next t ∧ Concluded u t ∧ u.pwr = { s.pwr with quiesce := true } ∧
      stopped u ∧ u.log.due = s.log.due ++ [pin 0]) ∧
    (s.pwr.quiesce = true → (∃ t', exec .quiesceAssert s = .next t' ∧ Concluded s t')) ∧ (s.pwr.quiesce = false → (∃ t', exec .quiesceRelease s = .next t' ∧ Concluded s t')) ∧
    (s.pwr.quiesce = true → (∃ t', exec .quiesceRelease s = .next t' ∧ Concluded { pwr { s.pwr with quiesce := false } with
      log := { s.log with due := s.log.due ++ [pin 1] } } t')) ∧
    (s.fw.watchdog = false → s.fw.running = true →
      ∃ t, exec .ferrymasterMismatch s = .next t ∧ t.pwr.hold = true ∧ t.pwr.holdCtr = s.pwr.holdLimit ∧ t.pwr.sticky = s.pwr.sticky ||| 16 ∧
        t.fw.running = false ∧ t.fw.current = none ∧
        (keysRise s.port → ∀ n q, tFind s.port n = some q → (portOf t n).loading = none ∧
          (q.loading = none → portOf t n = q) ∧
          (q.loading ≠ none → if q.active then (portOf t n).bankA = {} ∧ (portOf t n).bankB = q.bankB else (portOf t n).bankB = {} ∧ (portOf t n).bankA = q.bankA)) ∧
        (∀ n m, tFind s.mbx n = some m → keysRise s.mbx → m.state = .pending ∨ m.state = .busy →
          (mbxOf t n).state = .idle ∨ (mbxOf t n).state = .done ∧
            tFind (mbxOf t n).rsp 1 = some (BitVec.ofNat 32 (sessionOf s n + 0x0A * 2 ^ 24))) ∧
        ∀ n, (mbxOf s n).state = .idle ∨ (mbxOf s n).state = .done → mbxOf t n = { mbxOf s n with taken := none }) ∧
    (s.fw.watchdog = true →
      ∃ b t, exec .ferrymasterMismatch s = .next t ∧ exec (.bootWatchdogExpiry b) { s with freeCtr := s.freeCtr + 1 } = .next t) ∧
    (s.fw.watchdog = false → s.fw.running = false → exec .ferrymasterMismatch s = .next s) ∧
    (v = .out ∨ old = .out ∧ g.val ∉ s.pwr.vddioLow → (∃ t', exec (.vddioSupplyChange g v) s = .next t' ∧ Concluded (pwr { s.pwr with vddio := tPut s.pwr.vddio g v }) t')) ∧
    (v ≠ .out → old ≠ .out → (∃ t', exec (.vddioSupplyChange g v) s = .next t' ∧ Concluded s t')) ∧
    (up = true ∨ (∀ p : Fin 32, (partOf s p).reset = none) → ∃ t', exec (.pcieLinkChange up) s = .next t' ∧ Concluded (pwr { s.pwr with linkUp := up, wakeDriven := s.pwr.wakeDriven && !up }) t') ∧
    (∃ t', exec .wakeNDriveTimeout s = .next t' ∧ Concluded (pwr { s.pwr with wakeDriven := false }) t')

/-- R399, R413, R468, R510 to R517: entry to moored, once its landing is done: posted writes reach their destinations, and the device retains what R512 lists, and nothing else but what lies outside the device and the quarantined cells; and the sources of cast-off, a wake filter, WAKE_IN_N and a frame at the safety port, which bring it to RUN with the time that has passed, the source told, and the commission number of every commissioned port incremented, whether the boot passes or fails; WAKE_IN_N is none during the entry, and another source that comes then acts at its end. What the rules leave open is taken as the assumption log says (72 and 80). -/
def Obligations.MooredAndWake : Prop :=
  ∀ (s : State) (m : Mooring) (n : Fin 8) (us8 : BitVec 16) (f : WakeFrame) (us : BitVec 64) (b : BootInputs),
    let w (k : Nat) : Word := tGet (portOf s n).wake k 0
    let spared (p : Nat) (q : Port) : Prop := (∃ o, q.owner = some o ∧ o ≠ 0) ∨ ∀ l, earlyTable s = some l → ∀ e, e ∈ l → e.port ≠ p
    let numbered (t : State) (p : Nat) (q : Port) : Prop :=
      (q.owner ≠ none → (portOf t p).number = q.number + 1) ∧ (q.owner = none → (portOf t p).number = q.number)
    let woken (i : Instr) (src : Nat) (s : State) : Prop := ∃ t, exec i s = .next t ∧ t.pwr.phase = .run ∧ t.pwr.lastReset = 8 ∧
      t.pwr.wakeSrc = BitVec.ofNat 8 src ∧ t.pwr.wakeDriven = true ∧ t.tb.time = (s.tb.time + 1000 * us.toNat) % 2 ^ 64 ∧
      (b.fuseError = true → t.fw.running = false ∧ t.pwr.nofw = true) ∧
      (b.fuseError = false → b.inTime = true → fwPasses s s.fw.slot = true →
        t.fw.running = true ∧ t.fw.ready = true ∧ t.fw.slot = s.fw.slot ∧ t.pwr.nofw = s.pwr.nofw) ∧
      (keysRise s.port → ∀ p q, tFind s.port p = some q → b.fuseError = true ∨ spared p q → numbered t p q)
    let sees : Prop := (w 0).getLsbD 4 = f.ide ∧ f.id &&& (w 2).setWidth 29 = (w 1).setWidth 29 &&& (w 2).setWidth 29 ∧
      ((w 0).getLsbD 12 = true → f.dlc.toNat = fieldOf (w 0) 8 4 ∧
        ((w 6 ++ w 5 : BitVec 64) = 0 ∨ f.data &&& (w 6 ++ w 5) ≠ 0))
    let quiet : Prop := (∀ k c, tFind s.cq k = some c → c.unwritten = [] ∧ c.shadowDue = false) ∧ ∀ k r, tFind s.sq k = some r → r.shadowDue = false
    let whole (t : State) : Prop :=
      { t with icu := s.icu, part := s.part, port := s.port, bank := s.bank, bb := s.bb, brt := s.brt, hostMem := s.hostMem, ep := { t.ep with dir := s.ep.dir } } =
        { pending := s.pending, freeCtr := s.freeCtr, hostBad := s.hostBad, out := s.out, tb := { time := s.tb.time }
          icu := s.icu, part := s.part, port := s.port, bank := s.bank, bb := s.bb, brt := s.brt, hostMem := s.hostMem
          ep := { dir := s.ep.dir, selfId := s.ep.selfId, announce := s.ep.announce, idbSpeed := s.ep.idbSpeed, makers := s.ep.makers }
          pwr := { phase := .moored, porstLow := s.pwr.porstLow, railsLow := s.pwr.railsLow, vddioLow := s.pwr.vddioLow, vddio := s.pwr.vddio
                   quiesce := s.pwr.quiesce, refsel := s.pwr.refsel, sticky := s.pwr.sticky, nofw := s.pwr.nofw, railsWarn := s.pwr.railsWarn
                   critOn := s.pwr.critOn, lastReset := s.pwr.lastReset, coldBoot := false, domains := s.pwr.domains, holdLimit := s.pwr.holdLimit
                   twarn := s.pwr.twarn, tcrit := s.pwr.tcrit, thermAct := s.pwr.thermAct, wakeSrc := s.pwr.wakeSrc }
          sec := { s.sec with crypto := [] }
          log := { ring := s.log.ring, next := s.log.next, mark := s.log.mark, h := s.log.h, sinceSeal := s.log.sinceSeal, due := s.log.due
                   lost := s.log.lost, seals := s.log.seals.map fun x => { x with doors := [] } }
          glb := { lock := s.glb.lock, landoutWidth := s.glb.landoutWidth }
          sch := { inService := s.sch.inService, retired := s.sch.retired, admBrate := s.sch.admBrate, admCells := s.sch.admCells, quantum := s.sch.quantum }
          deck := { flatPages := s.deck.flatPages, quar := s.deck.quar }
          fw := { flash := s.fw.flash, permanent := s.fw.permanent, trial := s.fw.trial, trialTried := s.fw.trialTried, slot := s.fw.slot
                  bound := s.fw.bound } }
    let parts (t : State) : Prop :=
      { t.icu with group := s.icu.group, target := s.icu.target } = s.icu ∧
      (∀ k g, tFind s.icu.group k = some g → tFind t.icu.group k = some { holdoff := g.holdoff }) ∧
      (∀ k g, tFind s.icu.target k = some g → tFind t.icu.target k = some { g with msixEnable := false, functionMask := false }) ∧
      (∀ p q, tFind s.part p = some q → tFind t.part p = some
        { prio := q.prio, vidBase := q.vidBase, vidCount := q.vidCount, evtBase := q.evtBase, evtCount := q.evtCount, channels := q.channels
          queues := q.queues, keyslots := q.keyslots, ferryShare := q.ferryShare, mbxRate := q.mbxRate, cells := q.cells, hostShare := q.hostShare
          bargeShare := q.bargeShare, hostNow := q.hostShare, bargeNow := q.bargeShare, wins := q.wins }) ∧
      (∀ p q, tFind s.port p = some q → ∃ l, tFind t.port p = some
        { owner := q.owner, lastOwner := q.lastOwner, xclass := q.xclass, txq := q.txq, number := q.number, wake := q.wake, pins := l } ∧
        ∀ k y, tFind q.pins k = some y → tFind l k = some { ball := y.ball, hold := if p < 8 then y.hold else none }) ∧
      (∀ e x, tFind s.ep.dir e = some x → tFind t.ep.dir e = some (if x.kind = 1 ∧ x.port = 127 ∧ x.state = .ready then
        { x with state := .pending, number := x.number + 1, proven := false, neg := 0, portCom := 0 } else x)) ∧
      (∀ k x, tFind s.bb k = some x → tFind t.bb k = some { en := x.en, rate := x.rate, an := x.an, macsec := x.macsec, lat := x.lat }) ∧
      (∀ k x, tFind s.brt k = some x → tFind t.brt k = some { starveLimit := x.starveLimit, slots := x.slots.map fun y => (y.1, { base := y.2.base, limit := y.2.limit }) }) ∧
      (quiet → t.hostMem = s.hostMem ∧ ∀ k x, tFind s.bank k = some x → tFind t.bank k = some { kind := x.kind, owner := x.owner, ret := x.ret }) ∧
      ∀ (p : Fin 32) (j : Fin 8) (c : CompRing) (k : Nat) (y : Window) (a : Nat) (l : List Byte), s.sq = [] → s.cq = [(8 * p.val + j.val, c)] →
        c.unwritten = [] ∧ c.shadowDue = true ∧ a = c.shadow ∧ l = leBytes 8 c.p.toNat ∨
          (∃ x, c.unwritten = [x] ∧ a = c.base + 16 * (x.1.toNat % c.size) ∧ l = leBytes 16 x.2.toNat) ∧ windowOf s p c.shadow = none →
        windowOf s p a = some (k, y) → y.space = 0 → y.w = true → a + l.length ≤ y.base + y.size →
        t.hostMem = memPut s.hostMem (y.target + (a - y.base)) l
    (isRun s = true → s.pwr.mooring = some m → m.landed = true → (∀ p : Fin 32, (partOf s p).reset = none) → s.pwr.wakeDue = none →
      ∃ t, exec .mooredEntry s = .next t ∧ whole t ∧ parts t) ∧
    (isRun s = true → (∀ m, s.pwr.mooring = some m → m.landed = false) → exec .mooredEntry s = .next s) ∧
    (isRun s = true → s.pwr.mooring = some m → m.landed = true → (∀ p : Fin 32, (partOf s p).reset = none) →
      ∀ src, src < 10 → s.pwr.wakeDue = some (src, us, b) → woken .mooredEntry src s) ∧
    (isRun s = true → s.pwr.mooring = some m → exec (.wakePinAsserted us b) s = .next s ∧
      (s.pwr.wakeDue = none → exec (.safetyPortWake us b) s = .next { s with pwr := { s.pwr with wakeDue := some (9, us, b) } })) ∧
    (s.pwr.phase = .moored →
      woken (.wakePinAsserted us b) 8 s ∧ woken (.safetyPortWake us b) 9 s ∧
      (∃ t, exec (.safetyPortWake us b) s = .next t ∧ t.fw.discarded = s.fw.discarded + 1) ∧
      (fieldOf (w 0) 0 2 = 1 → fieldOf (w 0) 16 8 ≤ us8.toNat → woken (.wakeFilterMatch (.level n us8) us b) n s) ∧
      (fieldOf (w 0) 0 2 = 2 → sees → woken (.wakeFilterMatch (.frame n f) us b) n s) ∧
      (fieldOf (w 0) 0 2 = 2 → ¬ sees → exec (.wakeFilterMatch (.frame n f) us b) s = .next s) ∧
      (fieldOf (w 0) 0 2 = 2 → woken (.wakeFilterMatch (.decodeErrors n) us b) n s) ∧
      (fieldOf (w 0) 0 2 = 0 → exec (.wakeFilterMatch (.level n us8) us b) s = .next s))

/-- R213 to R215, R231: the frames of the safety port: a malformed one, one with a wrong CRC, one before READY and one that begins while SSP_BSY is high after the frame before are discarded and told in the next STATUS; SSP_BSY rises after every frame; REQUEST writes the request buffer and rings the doorbell, FETCH returns the response, STATUS the mailbox's status, and RESET with the right word resets the partition that the port is bound to. What the rules leave open is taken as the assumption log says (84). -/
def Obligations.SafetyPortFrames : Prop :=
  ∀ (s : State) (l : List (BitVec 8)) (early : Bool) (p : Nat), isRun s = true →
    let x : SspFrame := ⟨l, early⟩
    let busy := s.fw.bsy = true ∨ early = true ∧ ∃ a, s.fw.bsySince = some a ∧ (s.tb.time : Int) < a + 2000
    let rose : Option Int := some (s.tb.time : Int)
    let type := (l.getD 0 0).toNat
    let n := (l.getD 1 0).toNat
    let crc := leNat ((l.drop (2 + 4 * n)).take 2) = (crc16 (l.take (2 + 4 * n))).toNat
    let word (k : Nat) : Word := wordAt (l.drop 2) k
    let m := mbxOf s 32
    let free := m.state = .idle ∨ m.state = .done
    let fw (f : Firmware) : State := { s with fw := f }
    let reply (t : Nat) (w : List Word) : List Byte :=
      let b := [BitVec.ofNat 8 t, BitVec.ofNat 8 w.length] ++ w.flatMap fun x => leBytes 4 x.toNat
      b ++ leBytes 2 (crc16 b).toNat
    let answer := (List.range (2 + fieldOf (tGet m.rsp 1 0) 16 6)).map fun k => tGet m.rsp k 0
    let status := mbxStatus s 32 ||| (if s.fw.crcErr then 0x20 else 0) ||| (if s.fw.bound.isNone then 0x80 else 0)
    (busy ∨ ¬ crc ∨ l.length < 4 ∨ type ∉ [0x51, 0x52, 0x53, 0x5E] →
      (∃ t', exec (.sspRequest x) s = .next t' ∧ Concluded (fw { s.fw with crcErr := true, discarded := s.fw.discarded + 1, bsySince := rose }) t') ∧ (∃ t', exec (.sspFetch x) s = .next t' ∧ Concluded (fw { s.fw with crcErr := true, discarded := s.fw.discarded + 1, bsySince := rose }) t') ∧ (∃ t', exec (.sspStatus x) s = .next t' ∧ Concluded (fw { s.fw with crcErr := true, discarded := s.fw.discarded + 1, bsySince := rose }) t') ∧ (∃ t', exec (.sspReset x) s = .next t' ∧ Concluded (fw { s.fw with crcErr := true, discarded := s.fw.discarded + 1, bsySince := rose }) t')) ∧
    (¬ busy → crc → type = 0x51 → 2 ≤ n → n ≤ 64 → l.length = 4 + 4 * n → free → doorFenced s 32 = false → s.pwr.mooring = none →
      s.pwr.hold = false → s.fw.ready = true → ∃ u t y, exec (.sspRequest x) s = .next t ∧ Concluded u t ∧ { u with mbx := s.mbx } = fw { s.fw with bsySince := rose } ∧
        (∀ k, k ≠ 32 → mbxOf u k = mbxOf s k) ∧ mbxOf u 32 = y ∧ y.state = .pending ∧ y.rsp = m.rsp ∧ y.version = m.version ∧
        (∀ k, k < n → y.locked.getD k 0 = word k) ∧ ∀ k, n ≤ k → k < 64 → y.locked.getD k 0 = tGet m.req k 0) ∧
    (¬ busy → crc → type = 0x51 → 2 ≤ n → n ≤ 64 → l.length = 4 + 4 * n → doorFenced s 32 = true ∨ s.pwr.mooring ≠ none →
      (∃ t', exec (.sspRequest x) s = .next t' ∧ Concluded (fw { s.fw with discarded := s.fw.discarded + 1, bsySince := rose }) t')) ∧
    (¬ busy → crc → type = 0x52 → n = 0 → 4 ≤ l.length →
      (∃ t', exec (.sspFetch x) s = .next t' ∧ Concluded (fw { s.fw with sspRsp := reply 0x52 (if m.state = .done then answer else []), bsySince := rose }) t')) ∧
    (¬ busy → crc → type = 0x53 → n = 0 → 4 ≤ l.length →
      (∃ t', exec (.sspStatus x) s = .next t' ∧ Concluded (fw { s.fw with sspRsp := reply 0x53 [status], crcErr := false, bsySince := rose }) t')) ∧
    (¬ busy → crc → type = 0x5E → n = 1 → l.length = 8 → s.fw.bound = some p →
      (p ≠ 0 → p < 32 → fieldOf (word 0) 0 5 = p → fieldOf (word 0) 16 16 = 0xA5C3 → (partOf s p).reset = none →
        ∃ t r, exec (.sspReset x) s = .next t ∧ (partOf t p).reset = some r ∧ r.trigger = 2 ∧ t.fw.bsySince = rose ∧ ∀ v y, voyOf t v = some y → y.part ≠ p) ∧
      (p = 0 ∨ fieldOf (word 0) 0 5 ≠ p ∨ fieldOf (word 0) 16 16 ≠ 0xA5C3 → (∃ t', exec (.sspReset x) s = .next t' ∧ Concluded (fw { s.fw with bsySince := rose }) t')))
/-! ## Time and landings (02_crossings_and_landings.md) -/

/-- R26, R28, R36, R41 to R43, R45, R367, R368, R408, R461, R574: an edge of CLK_TB moves device time, kept to 64 bits, with its rate correction, the counters of the timers, whose match toggles an output or stops the channel and whose wrap takes the buffered values, and the hold-off timers; with each second of device time the gPTP slave port sends a Pdelay_Req, in the form of IEEE 802.1AS, which is the model's choice (113). An edge on LANDSYNC is accepted, held for the landing it precedes, an extra one, or outside every window; of one between a landing and the next edge of CLK_TB it is open whether it lies in the landing's first cycle, its error 0, or later (R36; log 102). A window that closes without an accepted edge is a miss, the eighth in a row of which begins holdover; LANDOUT falls after its width. What the rules leave open is taken as the assumption log says (12, 13, 18, 102 and 113). -/
def Obligations.TimeAndSynchronisation : Prop :=
  ∀ (s : State), isRun s = true → s.tb.lsn + 1 < 2 ^ 64 →
    let acc : Int := s.tb.rateAcc + s.tb.rate.toInt
    let W : Nat := 10 * s.tb.w.toNat
    let missed : Bool := s.tb.landed && s.tb.source == 1 && s.tb.lsn % s.tb.div == 0 && s.tb.accepted.all (· < s.tb.lsn) &&
      decide (s.tb.nominal + W + 25 < s.tb.time)
    let counted : Timebase := { s.tb with accepted := some s.tb.lsn, misses := min 8 (s.tb.misses + 1), cnt := bump s.tb.cnt 2 }
    let lost : Bool := s.tb.misses == 7 && !s.tb.holdover
    let closed : State := if lost then raise { s with tb := { counted with p := 0, holdover := true, cnt := bump counted.cnt 4 } } 661
      else { s with tb := counted }
    let w : State := if missed then closed else s
    let v : State := if s.tb.atLanding then { w with freeCtr := s.freeCtr + 1 } else w
    let m : Int := if s.tb.atLanding && (Config.freeWord s.freeCtr).getLsbD 0 then (s.tb.nominal : Int) else (s.tb.time : Int) - 25
    let near (nominal : Nat) : Prop := -(W : Int) ≤ m - nominal ∧ m - nominal ≤ W
    let atLast : Prop := s.tb.landed = true ∧ s.tb.div ∣ s.tb.lsn ∧ near s.tb.nominal
    let atNext : Prop := (∀ x, s.tb.start = some x → nextNominal v < x.s) ∧ s.tb.div ∣ nextLsn s ∧ near (nextNominal v)
    let atStart (x : Start) : Prop := s.tb.start = some x ∧ x.s ≤ nextNominal v ∧ near x.s
    let settled (n : Nat) : Prop := ∃ a, v.tb.accepted = some a ∧ n ≤ a
    let tb (t : Timebase) : State := { v with tb := t }
    let accepts (n : Nat) (t : Timebase) : State :=
      let u : State := tb { t with accepted := some n, misses := 0, cnt := bump v.tb.cnt 0, holdover := false }
      if v.tb.holdover then raise u 661 else u
    let count (x : Timer) : Timer :=
      let mode := timerMode x
      let y : Timer := if mode = 1 ∧ x.cnt = x.aux
        then { x with cnt := 0, wraps := x.wraps + 1, cmp := x.nextCmp.getD x.cmp, aux := x.nextAux.getD x.aux, nextCmp := none, nextAux := none }
        else { x with cnt := x.cnt + 1 }
      let matched : Timer := { y with hits := y.hits + 1, toggle := if mode = 0 then !y.toggle else y.toggle
                                      ctl := if mode = 3 then y.ctl &&& ~~~ 1 else y.ctl }
      if x.ctl.getLsbD 0 then (if mode ≠ 2 ∧ y.cnt = y.cmp then matched else y) else x
    let slave := if s.tb.gptpPort then 1 else 0
    let second (t : State) : Prop := s.tb.source = 2 ∧ s.tb.time / 1000000000 ≠ t.tb.time / 1000000000 ∧ domainOn s (57 + slave) = true ∧
      (bbOf s slave).en = true ∧ (bbOf s slave).link = true
    (∃ t, exec .deviceTimeAdvance s = .next t ∧ { t with tb := s.tb, port := s.port, icu := s.icu, bb := s.bb, out := s.out } = s ∧
      (s.tb.source ≠ 2 ∨ s.tb.time / 1000000000 = t.tb.time / 1000000000 → t.bb = s.bb ∧ t.out = s.out) ∧
      (second t → (∃ l, t.out = { s.out with frames := s.out.frames ++ [(slave, l)] }) ∧
        (bbOf t slave).pdelaySeq = (bbOf s slave).pdelaySeq + 1) ∧
      (s.tb.running = false → t.tb = { s.tb with running := true }) ∧
      (s.tb.running = true → 1000000000 ≤ acc → t.tb = { s.tb with time := (s.tb.time + 20) % 2 ^ 64, rateAcc := acc - 1000000000, atLanding := false }) ∧
      (s.tb.running = true → acc ≤ -1000000000 → t.tb = { s.tb with time := s.tb.time % 2 ^ 64, rateAcc := acc + 1000000000, atLanding := false }) ∧
      (s.tb.running = true → -1000000000 < acc → acc < 1000000000 → t.tb = { s.tb with time := (s.tb.time + 10) % 2 ^ 64, rateAcc := acc, atLanding := false }) ∧
      { t.icu with group := s.icu.group } = s.icu ∧
      (∀ n g, tFind s.icu.group n = some g → tFind t.icu.group n = some { g with left := g.left - 1, claimed := none }) ∧
      ∀ p q, tFind s.port p = some q → { portOf t p with timers := q.timers } = q ∧
        ∀ n x, tFind q.timers n = some x →
          let e := x.pre.toNat + if x.ctl.getLsbD 1 then 4 else 1
          let d := fieldOf x.ctl 16 8 + 1
          tFind (portOf t p).timers n = some (
            if domainOn s (p / 4) && x.ctl.getLsbD 0 then (List.range (e / d)).foldl (fun y _ => count y) { x with pre := BitVec.ofNat 8 (e % d) } else x)) ∧
    (missed → (∃ t', exec .syncWindowClose s = .next t' ∧ Concluded closed t')) ∧
    (missed = false → (∃ t', exec .syncWindowClose s = .next t' ∧ Concluded s t')) ∧
    (s.tb.running = true → s.tb.source = 1 →
      (atLast → settled s.tb.lsn → (∃ t', exec .landsyncEdge s = .next t' ∧ Concluded (tb { v.tb with cnt := bump v.tb.cnt 3 }) t')) ∧
      (atLast → ¬ settled s.tb.lsn → (∃ t', exec .landsyncEdge s = .next t' ∧ Concluded (accepts s.tb.lsn { v.tb with p := m - s.tb.nominal }) t')) ∧
      (¬ atLast → atNext → settled (nextLsn s) → (∃ t', exec .landsyncEdge s = .next t' ∧ Concluded (tb { v.tb with cnt := bump v.tb.cnt 3 }) t')) ∧
      (¬ atLast → atNext → ¬ settled (nextLsn s) → (∃ t', exec .landsyncEdge s = .next t' ∧ Concluded (accepts (nextLsn s) { v.tb with heldEdge := some m.toNat }) t')) ∧
      (∀ x, ¬ atLast → atStart x → ¬ settled (2 ^ 64) → (∃ t', exec .landsyncEdge s = .next t' ∧ Concluded (accepts (2 ^ 64) { v.tb with heldEdge := some m.toNat }) t')) ∧
      (∀ x, ¬ atLast → atStart x → settled (2 ^ 64) → (∃ t', exec .landsyncEdge s = .next t' ∧ Concluded (tb { v.tb with cnt := bump v.tb.cnt 3 }) t')) ∧
      (¬ atLast → ¬ atNext → (∀ x, ¬ atStart x) → (∃ t', exec .landsyncEdge s = .next t' ∧ Concluded (tb { v.tb with cnt := bump v.tb.cnt 1 }) t'))) ∧
    (s.tb.source ≠ 1 → exec .landsyncEdge s = .next s) ∧
    (∀ e, s.tb.landout = some e → e ≤ s.tb.time → exec .landoutEnd s = .next { s with tb := { s.tb with landout := none } }) ∧
    (∀ e, s.tb.landout = some e → s.tb.time < e → exec .landoutEnd s = .next s)

/-- R30 to R32, R37, R42, R49, R120, R122, R125, R585: a gangway cut-off fixes the step of its landing, makes untimed every timed voyage whose crossing closes with its work not over, and begins the round of that landing, which admits a lone candidate that fits and refuses one that does not; before a start landing only a crossing that no landing of the old schedule would have ended closes, the landings to come being as far apart as P moves them. What the rules leave open is taken as the assumption log says (16 and 119). -/
def Obligations.GangwayCutoffs : Prop :=
  ∀ (s : State) (v : Nat) (x : Voyage) (st : Start), isRun s = true → keysRise s.sch.voy →
    let working (y : Voyage) : Prop := y.timed = true ∧ (y.state = .ready ∨ y.state = .active ∨
      y.state = .parked ∧ y.park ≠ .landing ∧ y.park ≠ .maxEntries)
    let changes (u : State) : Prop := { u with sch := s.sch, tb := s.tb, sq := s.sq } = s
    let untimed (y : Voyage) : Voyage := { y with timed := false, demoted := true, resumeAt := none, resumes := [], resumeLatch := y.resumeLatch || !y.resumes.isEmpty }
    let n := nextLsn s
    let mult (c : Nat) : Nat := match c with | 0 => 1 | 1 => s.tb.m1 | 2 => s.tb.m2 | _ => s.tb.m3
    let away (c : Nat) : Nat := if mult c = 0 then 0 else (n + mult c - 1) / mult c * mult c - n
    let due : Prop := s.tb.landed = true ∧ s.tb.closed = none ∧ nextCutTime s ≤ s.tb.time ∧ ∀ y, s.tb.start = some y → nextNominal s < y.s
    let startDue (y : Start) : Prop := s.tb.start = some y ∧ y.cut = false ∧ y.s - 1000 * y.c ≤ s.tb.time
    let closes (u : State) (hit : Voyage → Prop) : Prop := ∀ w y, voyOf s w = some y → y.state ≠ .candidate →
      (working y ∧ hit y → voyOf u w = some (untimed y)) ∧ (¬ (working y ∧ hit y) → voyOf u w = some y)
    let ahead (f : Nat → Nat × Int) : Prop :=
      f 0 = (nextNominal s, match s.tb.heldEdge with | some e => (e : Int) - nextNominal s | none => s.tb.p - if s.tb.landed then nextStep s else 0) ∧
      ∀ k, let lim : Int := ((s.tb.t0 * 1000 / 64 : Nat) : Int)
        let step := (max (-lim) (min lim (f k).2)).tdiv 10 * 10
        f (k + 1) = ((((f k).1 + s.tb.t0 * 1000 : Nat) + step).toNat, (f k).2 - step)
    let closing (y : Voyage) : Bool := y.timed && n % mult y.xclass == 0 &&
      (y.state == .ready || y.state == .active || y.state == .parked && y.park != .landing && y.park != .maxEntries)
    let w : State := { s with sch := { s.sch with voy := s.sch.voy.map fun y => (y.1, if closing y.2 then untimed y.2 else y.2) } }
    let caps := capsOf s.tb.t0 (cutFor s n) (slotList s).length (min 262144 s.sch.admCells.toNat) (min 12800 s.sch.admBrate.toNat)
    let fail := admitFail caps (admittedSums w) x
    let round (u : State) (n : Nat) : Prop := ∃ r, u.sch.rounds = s.sch.rounds.filter (fun y => y.lsn < n) ++ [r] ++ s.sch.rounds.filter (fun y => n < y.lsn) ∧
      r.lsn = n ∧ r.slots = (slotList s).length ∧ r.cells.toNat = min 262144 s.sch.admCells.toNat ∧ r.brate.toNat = min 12800 s.sch.admBrate.toNat
    (due → n < 2 ^ 64 → (∀ y, startDue y → nextCutTime s ≤ y.s - 1000 * y.c) → ∃ u t, exec .gangwayCutoff s = .next t ∧ Concluded u t ∧ changes u ∧
      u.tb = { s.tb with step := some (nextStep s), closed := some n } ∧ round u n ∧ closes u (fun y => mult y.xclass ∣ n) ∧
      (voyOf s v = some x → x.state = .candidate → x.timed = true → s.sch.starting = [] → (∀ y, y ∈ s.sq → y.2.cover = []) → s.sch.rounds = [] →
        dueOf s x ≤ n → s.sch.notAdmitted = [] →
        (∀ k y, voyOf s k = some y → y.state = .candidate → k = v) →
        (s.pwr.hold = true ∨ s.pwr.mooring ≠ none ∨ s.sch.inService = 0 → voyOf u v = some x) ∧
        (s.pwr.hold = false → s.pwr.mooring = none → s.sch.inService ≠ 0 → fail = none → ∃ c, (∀ p q, tFind s.port p = some q → keysRise s.port →
            (tFind c p = if q.owner = some x.part then some q.number else none)) ∧
          voyOf u v = some { x with state := .admitted, captured := c, late := x.late || decide (dueOf s x < n), startLsn := n }) ∧
        (∀ e, s.pwr.hold = false → s.pwr.mooring = none → s.sch.inService ≠ 0 → fail = some e → voyOf u v = some { x with state := .ending } ∧
          u.sch.notAdmitted = [{ vid := v, record := recordOf 0 0 0x20 e 0xFFFF v false { x with late := x.late || decide (dueOf s x < n) } 0, lsn := n }]))) ∧
    (startDue st → ¬ due ∨ st.s - 1000 * st.c < nextCutTime s → ∃ u t, exec .gangwayCutoff s = .next t ∧ Concluded u t ∧ changes u ∧
      u.tb = { s.tb with start := some { st with cut := true } } ∧ round u (2 ^ 64) ∧
      ∃ f, ahead f ∧ closes u fun y => ¬ (f (away y.xclass)).1 < st.s) ∧
    (¬ due → (∀ y, ¬ startDue y) → exec .gangwayCutoff s = .next s)

/-- R30 to R36, R38, R40, R42, R45, R48, R50, R53, R54, R56 to R58, R82, R103, R104, R130, R131, R320, R364, R371, R372, R377, R378, R381 to R384, R397, R585: a landing takes the next LSN and nominal time, applies its step, latches the input images of the ports whose class lands and releases their staging, or holds the safe state of a port that is due it, lets the frames held for it go, makes a swap that is due take effect at a swap point, where a verified image stands in the inactive bank, holds it back while a shift unit stalls, up to its limit of landings, and then aborts the units, moves the landing bounds, publishes the records of the crossings that end, in order, samples a snapshot that is due, or skips it while an export is unfinished, puts in force the RESUMEs that it is due, and dispatches the voyages of the new crossings, those admitted, those that wait for the landing or at MAX_ENTRIES, and those that resume, with their budgets set afresh, or withholds them where the engines are stopped. The start landing takes the new schedule, sets device time as it says, and makes untimed every voyage admitted under the old one. What the rules leave open is taken as the assumption log says (13, 15, 17 and 34). -/
def Obligations.Landings : Prop :=
  ∀ (s : State) (c : Int) (v m : Nat) (x : Voyage) (r : CompRing) (st : Start) (g : BitVec 64), isRun s = true → keysRise s.sch.voy →
    keysRise s.port → ¬ (s.pwr.hold = true ∧ s.pwr.holdCtr = 0) →
    let n := nextLsn s
    let mult (c : Nat) : Nat := match c with | 0 => 1 | 1 => s.tb.m1 | 2 => s.tb.m2 | _ => s.tb.m3
    let missed : Prop := s.tb.landed = true ∧ s.tb.source = 1 ∧ s.tb.nominal + 10 * s.tb.w.toNat + 25 < s.tb.time
    let due : Prop := s.tb.running = true ∧ nextNominal s ≤ s.tb.time ∧ (∀ y, s.tb.start = some y → nextNominal s < y.s) ∧
      (s.tb.landed = false ∧ c = 0 ∨ s.tb.closed = some n ∧ s.tb.step = some c)
    let startDue : Prop := s.tb.start = some st ∧ st.cut = true ∧ st.s ≤ s.tb.time
    let time := match st.v with | some d => d | none => if st.gptp then (g.toNat + 5) / 10 * 10 % 2 ^ 64 else s.tb.time
    let nominal := if st.v ≠ none ∨ st.gptp = true then time else st.s
    let safe (q : Port) : Prop := q.owner ≠ none ∧ (s.pwr.thermSafe = true ∨ ∃ y, s.pwr.mooring = some y ∧ y.commit ≤ n ∧ y.landed = false)
    let due? (x : Snapshot) : Prop := x.once = true ∨ x.repeatN ≠ 0 ∧ n % x.repeatN = 0
    let open? : Prop := s.pwr.quiesce = false ∧ s.pwr.thermal = false
    let stamp (r : BitVec 128) : BitVec 128 := if x.late then stampRecord r n ||| (1 <<< 110) else stampRecord r n
    let set (y : Voyage) : Prop := y.state = .ready ∧ y.timed = true ∧ y.park = .no ∧ y.cycles = budgetCycles x ∧ y.cells = budgetCells x ∧
      y.bytes = budgetBytes x ∧ y.reached = 0 ∧ y.entry = x.entry ∧ y.regs = x.regs ∧ y.resumes = x.resumes.filter (fun r => n < r.1)
    let stalled (q : Port) (k : Nat) : Prop := q.eng.state = .running ∧ (shiftOf q k).stall = true
    let still (q : Port) : Prop := ∀ k, k < imageOutWords q → ((releaseMap q k) &&& 0x7F).toNat < 0x10 ∨ 0x6F < ((releaseMap q k) &&& 0x7F).toNat
    let latched (q : Port) : Tab Word := if q.eng.state = .noImage then [] else q.img.filter fun y => y.1 < imageInWords q
    (due → ∃ u t, exec .landing s = .next t ∧ Concluded u t ∧ u.tb.lsn = n ∧ u.tb.nominal = nextNominal s ∧ u.tb.time = s.tb.time ∧
      u.tb.landed = true ∧ u.tb.step = none ∧ u.tb.closed = none ∧ u.tb.c = cutFor s n ∧ u.tb.t0 = s.tb.t0 ∧
      u.tb.landout = some (s.tb.time + min (1000 * max 1 (min 100 s.glb.landoutWidth.toNat)) (500 * s.tb.t0)) ∧ u.sch.rounds = s.sch.rounds.filter (fun y => n < y.lsn) ∧ u.tb.atLanding = true ∧
      (¬ missed → s.tb.sync = none → s.tb.heldEdge = none → u.tb.p = s.tb.p - c) ∧
      (∀ e, ¬ missed → s.tb.sync = none → s.tb.heldEdge = some e → u.tb.p = e - nextNominal s ∧ u.tb.heldEdge = none) ∧
      (∀ y, s.tb.sync = some y → u.tb.p = 0 ∧ u.tb.misses = 0 ∧ u.tb.holdover = false ∧ u.tb.source = y.source ∧ u.tb.div = y.div ∧
        u.tb.w = y.w ∧ u.tb.rate = y.rate.getD s.tb.rate ∧ u.tb.sync = none) ∧
      (∀ p q, tFind s.port p = some q → q.swap = none → q.safeDue = [] → ¬ safe q →
        (q.owner = none ∨ ¬ mult q.xclass.toNat ∣ n → (portOf u p).latched = q.latched ∧ (portOf u p).pinOut = q.pinOut ∧
          (portOf u p).fresh = q.fresh) ∧
        (q.owner ≠ none → ∀ c, c < 4 → mult c ∣ n → tFind (portOf u p).byClass c =
          some (if mult q.xclass.toNat ∣ n then (latched q, decide (q.eng.state = .noImage) || q.imgInvalid) else (q.latched, q.latchedInvalid))) ∧
        (q.owner ≠ none → mult q.xclass.toNat ∣ n → (∀ f, f ∈ (portOf u p).bc.tx → ∀ h, f.held = some h → n < h) ∧
          (q.eng.state ≠ .running → (portOf u p).bc.tx = q.bc.tx.map fun f => if f.held.any (· ≤ n) then { f with held := none } else f)) ∧
        (q.owner ≠ none → mult q.xclass.toNat ∣ n → (portOf u p).latched = latched q ∧
          (portOf u p).latchedInvalid = (decide (q.eng.state = .noImage) || q.imgInvalid) ∧ (portOf u p).landLsn = BitVec.ofNat 32 n ∧
          (portOf u p).evPend.getLsbD 14 = true ∧
          (q.eng.state = .running → (∀ k, k ∈ (portOf u p).fresh ↔ k ∈ q.fresh ∧ imageOutWords q ≤ k) ∧
            ∀ k, k < imageOutWords q → (releaseMap q k = 0x17 ∨ releaseMap q k = 0x97 ∧ k ∈ q.fresh) →
              (∀ j, j < imageOutWords q → (releaseMap q j &&& 0x7F) = 0x17 → j = k) → (portOf u p).pinOut = (tGet q.stg k 0).setWidth 6))) ∧
      (∀ p q z, tFind s.port p = some q → q.swap = some z → q.safeDue = [] → ¬ safe q → q.owner ≠ none → mult q.xclass.toNat ∣ n →
        (n < z.due → (portOf u p).swap = some z ∧ (portOf u p).number = q.number) ∧
        (z.due ≤ n → still q → (∃ k, k < 2 ∧ stalled q k) →
          (z.held < max 1 z.limit → (portOf u p).swap = some { z with held := z.held + 1 } ∧ (portOf u p).holds = BitVec.ofNat 16 (z.held + 1) ∧
            (portOf u p).number = q.number) ∧
          (max 1 z.limit ≤ z.held → ∀ k, k < 2 → stalled q k → (shiftOf (portOf u p) k).stall = false ∧ (portOf u p).flags.getLsbD (1 + k) = true)) ∧
        (z.due ≤ n → still q → (∀ k, k < 2 → ¬ stalled q k) →
          (q.eng.state ≠ .running ∨ (∃ e, q.eng.wait = .event e) → (inactiveBank q).st = .verified →
            (portOf u p).swap = none ∧ (portOf u p).active = !q.active ∧ activeBank (portOf u p) = inactiveBank q ∧ inactiveBank (portOf u p) = {} ∧
            (portOf u p).number = q.number + 1 ∧ (portOf u p).flags.getLsbD 0 = true ∧ (portOf u p).eng.state = .running ∧
            (portOf u p).eng.pc = BitVec.ofNat 12 (fieldOf (tGet (inactiveBank q).hdr 3 0) 0 12) ∧ ∃ d, d ∈ u.log.due ∧ d.kind = 0x07 ∧ d.object = p) ∧
          (q.eng.state ≠ .running ∨ (∃ e, q.eng.wait = .event e) → (inactiveBank q).st ≠ .verified →
            (portOf u p).swap = some z ∧ (portOf u p).number = q.number) ∧
          (q.eng.state = .running → q.eng.wait ≠ .no → (∀ e, q.eng.wait ≠ .event e) → (portOf u p).swap = some z ∧ (portOf u p).number = q.number))) ∧
      (∀ p : Fin 32, (partOf s p).reset = none →
        let x := (partOf s p).snap
        (¬ due? x → (partOf u p).snap = x) ∧
        (due? x → (∃ k y, (k, y) ∈ s.part ∧ y.snap.exporting ≠ none) → (partOf u p).snap = { x with once := false, skipped := true } ∧
          tGet u.tb.cnt 5 0 = tGet s.tb.cnt 5 0 + 1) ∧
        (due? x → (∀ k y, (k, y) ∈ s.part → y.snap.exporting = none) →
          (partOf u p).snap = { x with once := false, exporting := some (BitVec.ofNat 64 n, BitVec.ofNat 64 s.tb.time), exSkipped := x.skipped
                                       skipped := false, status := x.status ||| 1 } ∧
          ∃ l, u.tb.snapRam = some (BitVec.ofNat 64 n, BitVec.ofNat 64 s.tb.time, l) ∧
            (∀ q k, q < 96 → k < 32 → domainOn s (q / 4) = true →
              ((portOf u q).owner.getD 32, (tGet (portOf u q).cnt k 0 ++ BitVec.ofNat 32 (k + q * 2 ^ 8 + 2 ^ 24) : BitVec 64)) ∈ l) ∧
            ∀ q y k, q < 8192 → k < 6 → tFind u.deck.queues q = some y →
              (y.owner, (tGet y.cnt k 0 ++ BitVec.ofNat 32 (k + q * 2 ^ 8 + 2 * 2 ^ 24) : BitVec 64)) ∈ l)) ∧
      (∀ p q, tFind s.port p = some q → q.swap = none →
        safe q ∨ .baseLanding ∈ q.safeDue ∨ (∃ c, .classLanding c ∈ q.safeDue ∧ c < 4 ∧ mult c ∣ n) →
        (portOf u p).eng.state = .noImage ∧ (portOf u p).stg = [] ∧
          ∀ k, k < 6 → (tGet (portOf u p).pins k {}).hold = some (if q.eng.state = .noImage then 0 else imageSafe q k)) ∧
      (∀ k q, tFind s.deck.queues k = some q → ∀ c, c < 4 → mult c ∣ n → ∃ y, tFind u.deck.queues k = some y ∧ tFind y.bounds c = some (tailOf y)) ∧
      (voyOf s v = some x → x.cring = some m → cqOf s x.part m = some r → r.fault = false → x.heldRecs ≠ [] → x.xclass < 4 → mult x.xclass ∣ n →
        s.sch.notAdmitted = [] → s.sch.following = [] → r.late = [] → (∀ k y, voyOf s k = some y → y.haltAt = none ∧ (k ≠ v → y.heldRecs = [])) →
        ∃ z, cqOf u x.part m = some z ∧ z.p = r.p + BitVec.ofNat _ x.heldRecs.length ∧ z.held = r.held - x.heldRecs.length ∧
          z.unwritten.map Prod.snd = r.unwritten.map Prod.snd ++ x.heldRecs.map stamp ∧
          (x.state = .ending → voyOf u v = none)) ∧
      (voyOf s v = some x → x.timed = true → x.state = .admitted → x.xclass < 4 → mult x.xclass ∣ n → x.haltAt = none → x.heldRecs = [] →
        x.startLsn ≤ n → x.resumes = [] → s.sch.inService ≠ 0 → s.sch.refitDue = false → cutFor s n ≤ s.tb.c →
        (s.pwr.quiesce = false → s.pwr.thermal = false → pagesIn s x = true →
          (∀ k, k ∈ s.sch.pages → k.part = x.part → k.addr ∈ pinnedPages x → v ∈ k.pins ∨ k.window ≠ goneWindow) → ∃ y, voyOf u v = some y ∧ y.state = .ready ∧ y.timed = true ∧
          y.cycles = budgetCycles x ∧ y.cells = budgetCells x ∧ y.bytes = budgetBytes x ∧ y.reached = 0 ∧ y.late = x.late) ∧
        (s.pwr.quiesce = false → s.pwr.thermal = false → pagesIn s x = false → voyOf u v = some { x with late := true }) ∧
        (s.pwr.quiesce = true ∨ s.pwr.thermal = true → ∃ y, voyOf u v = some y ∧ y.state = .ready ∧ y.timed = false ∧ y.demoted = true)) ∧
      (voyOf s v = some x → x.timed = true → x.xclass < 4 → mult x.xclass ∣ n → x.haltAt = none → x.heldRecs = [] → s.sch.inService ≠ 0 →
        s.sch.refitDue = false → cutFor s n ≤ s.tb.c →
        (x.state = .parked → x.park = .landing ∨ x.park = .maxEntries → x.resumes = [] →
          (open? → ∃ y, voyOf u v = some y ∧ set y ∧ y.stage = (if x.park = .landing then .woken else .fresh) ∧ y.saw = (x.saw || x.park == .landing)) ∧
          (¬ open? → ∃ y, voyOf u v = some y ∧ y.state = .ready ∧ y.timed = false ∧ y.demoted = true)) ∧
        (∀ k j, x.resumes = [(k, j)] → k ≤ n →
          (x.state = .parked → x.park = .landing → open? → ∃ y, voyOf u v = some y ∧ set y ∧ y.resumeLatch = true) ∧
          (x.state = .suspended → open? → ∃ y, voyOf u v = some y ∧ set y ∧ y.stage = .resumed ∧ y.resumeLatch = x.resumeLatch)) ∧
        (∀ k j, x.resumes = [(k, j)] → n < k → x.resumeAt = none → x.state = .suspended →
          ∃ y, voyOf u v = some y ∧ y.state = .suspended ∧ y.resumes = x.resumes))) ∧
    (startDue → ∃ u t, exec (.startLanding g) s = .next t ∧ Concluded u t ∧ u.tb.lsn = 0 ∧ u.tb.nominal = nominal ∧ u.tb.time = time ∧
      u.tb.t0 = st.t0 ∧ u.tb.m1 = st.m1 ∧ u.tb.m2 = st.m2 ∧ u.tb.m3 = st.m3 ∧ u.tb.c = st.c ∧ u.tb.start = none ∧ u.tb.landed = true ∧
      u.tb.closed = none ∧ u.tb.step = none ∧ (s.tb.heldEdge = none → u.tb.p = 0) ∧
      ∀ w y z, voyOf s w = some y → y.timed = true → y.state ≠ .candidate → y.state ≠ .ending → y.startLsn < 2 ^ 64 →
        voyOf u w = some z → z.timed = false ∧ z.demoted = true) ∧
    (s.tb.running = false ∨ s.tb.time < nextNominal s → exec .landing s = .next s) ∧
    (¬ startDue → s.tb.start = none ∨ s.tb.start = some st → exec (.startLanding g) s = .next s)

/-! ## Deck memory and the barge (08_deck_memory.md, 09_barge_dma.md, 02_crossings_and_landings.md) -/

/-- R58, R59, R140, R222, R240, R245, R248, R250, R252, R258, R259, R288, R553: the patrol scrubber visits the next cell: it corrects and counts the words with a correctable error, quarantines and reports a cell with an uncorrectable one, and rewinds the packet under production that holds it; a stalled producer that passes every quota test takes its cell and goes on, though one that stalled before it still fails; a scratchpad that has been scrubbed reads as zero, without errors. The export of a snapshot writes its header and as many whole records of the partition's view as fit, tells the partition, and raises its event; one that fails the checks of its window is given up and told as a fault. What the rules leave open is taken as the assumption log says (19, 23 and 25). -/
def Obligations.DeckEventsAndSnapshots : Prop :=
  (∀ (s : State) (v : Nat) (x : Voyage) (qn : Nat) (q : Queue) (reason : Nat) (l : List Stall) (b : Building) (p : Fin 96), isRun s = true →
     let c := s.deck.scrubAt
     let next : Deck := { s.deck with scrubAt := (c + 1) % 262144 }
     let deck (d : Deck) : State := { s with deck := d }
     let holds (y : Queue) : Prop := (∃ k, k ∈ y.packets ∧ c ∈ k.cells) ∨ (∃ k, k ∈ y.freed ∧ c ∈ k.2.cells) ∨ ∃ k, k ∈ y.building ∧ c ∈ k.pkt.cells
     let reported (u : State) : Prop := (∀ k, k ∈ u.deck.quar ↔ k = c ∨ k ∈ s.deck.quar) ∧ u.deck.quarantined = s.deck.quarantined + 1 ∧
       u.deck.eccCell = BitVec.ofNat 18 c ∧ u.deck.eccValid = true ∧ u.deck.mem = s.deck.mem ∧ u.icu = (raise s 657).icu ∧
       u.log.due = s.log.due ++ [{ kind := 0x08, object := c }]
     let cell := nextCell s (.voyage v)
     let own := buildingOf q (.voyage v)
     let pkt := (own.map Building.pkt).getD ⟨[], 0⟩
     (bankOn s (c % 32) = false ∨ c ∈ s.deck.quar ∨ c ∉ s.deck.bad ∧ (∀ j, j ∈ s.deck.soft → j / 8 ≠ c) → (∃ t', exec .patrolScrub s = .next t' ∧ Concluded (deck next) t')) ∧
     (bankOn s (c % 32) = true → c ∉ s.deck.quar → c ∉ s.deck.bad → (∃ t', exec .patrolScrub s = .next t' ∧ Concluded (deck { next with
       soft := s.deck.soft.filter fun j => j / 8 != c
       corrected := BitVec.ofNat 16 (min 0xFFFF (s.deck.corrected.toNat + (s.deck.soft.filter fun j => j / 8 == c).length)) }) t')) ∧
     (bankOn s (c % 32) = true → c ∉ s.deck.quar → c ∈ s.deck.bad → (∀ k y, (k, y) ∈ s.deck.queues → ¬ holds y) →
       ∃ u t, exec .patrolScrub s = .next t ∧ Concluded u t ∧ reported u ∧ u.deck.queues = s.deck.queues ∧ u.deck.scrubAt = next.scrubAt) ∧
     (bankOn s (c % 32) = true → c ∉ s.deck.quar → c ∈ s.deck.bad → queueOf s qn = some q → holds q →
       (∀ y, y ∈ s.deck.queues → y ≠ (qn, q) → ¬ holds y.2) →
       ((∀ z, z ∈ q.building → c ∉ z.pkt.cells) → ∃ u t, exec .patrolScrub s = .next t ∧ Concluded u t ∧ reported u ∧
         queueOf u qn = some { q with cnt := bump q.cnt 5 }) ∧
       (b ∈ q.building → c ∈ b.pkt.cells → (∀ z, z ∈ q.building → z ≠ b → c ∉ z.pkt.cells ∧ z.agent ≠ b.agent) → b.agent = .port p →
         ∃ u t y, exec .patrolScrub s = .next t ∧ Concluded u t ∧ reported u ∧ queueOf u qn = some y ∧ y.packets = q.packets ∧
           y.cnt = bump (bump q.cnt 5) 3 ∧ buildingOf y b.agent = some { b with pkt := ⟨[], 0⟩, rewound := true } ∧
           ∀ k, k ∈ b.pkt.cells → (k / 32) ∉ tGet u.deck.taken (k % 32) [])) ∧
     (s.deck.stalls = l ++ [⟨.voyage v, qn, reason, false⟩] →
       (∀ k, k ∈ l → k.agent ≠ .voyage v ∧ k.granted = false ∧ ∀ y, queueOf s k.queue = some y → quotaFail s k.agent y ≠ none) →
       queueOf s qn = some q → voyOf s v = some x → s.sch.inService ≠ 0 → quotaFail s (.voyage v) q = none → ∃ u t k y, exec .producerStallEnd s = .next t ∧ Concluded u t ∧ cell = some k ∧
         u.deck.stalls = l ∧ queueOf u qn = some y ∧
         buildingOf y (.voyage v) = some { (own.getD { agent := .voyage v }) with pkt := { pkt with cells := pkt.cells ++ [k] } } ∧
         k / 32 ∈ tGet u.deck.taken (k % 32) [] ∧ u.deck.timedTaken = s.deck.timedTaken + (if x.timed then 1 else 0) ∧ u.deck.mem = s.deck.mem ∧
         voyOf u v = some { x with state := .ready, park := .no, stage := .woken, since := s.sch.tick }) ∧
     (s.deck.stalls = [] → exec .producerStallEnd s = .next s) ∧
     ((portOf s p).eng.scrub = true → exec (.scratchpadScrubDone p) s = .next (modPort s p fun y =>
       { y with spad := [], spadBad := [], spadSoft := [], eng := { y.eng with scrub := false } })) ∧
     ((portOf s p).eng.scrub = false → exec (.scratchpadScrubDone p) s = .next s)) ∧
  (∀ (s : State) (p : Fin 32) (lsn time : BitVec 64) (l : List (Nat × BitVec 64)) (win : Window), isRun s = true → s.pwr.quiesce = false →
     s.pwr.thermal = false → (partOf s p).snap.exporting = some (lsn, time) → s.tb.snapRam.map (·.2.2) = some l →
     let x := (partOf s p).snap
     let view := (l.filter fun y => p.val == 0 || y.1 == p.val || y.1 == 33).map Prod.snd
     let count := min view.length ((x.length - 64) / 8)
     let short : Bool := decide (count < view.length)
     let header := leBytes 4 0x00015D4E ++ leBytes 4 ((if short then 1 else 0) + (if x.exSkipped then 2 else 0) + (if p.val = 0 then 4 else 0)) ++
       leBytes 8 lsn.toNat ++ leBytes 8 time.toNat ++ leBytes 4 count ++ leBytes 4 p ++ List.replicate 32 0
     let bytes := header ++ (view.take count).flatMap fun r => leBytes 8 r.toNat
     let status (fault : Bool) : BitVec 4 := BitVec.ofNat 4 ((if short then 2 else 0) + (if x.exSkipped then 4 else 0) + (if fault then 8 else 0))
     let endedAs (fault : Bool) : Snapshot := { x with exporting := none, exSkipped := false, lsn := lsn.setWidth 32, status := status fault }
     let told (u : State) (fault : Bool) : Prop := (partOf u p).snap = endedAs fault ∧ (partOf u p).event.getLsbD 2 = true
     (64 ≤ x.length → (∀ i, i < bytes.length → windowFail s p (x.buffer + i) 1 .write = none ∧ asleepAt s p (x.buffer + i) = none ∧
         windowAt s p (x.buffer + i) = some win) →
       ∃ u t, exec (.snapshotExportDone p) s = .next t ∧ Concluded u t ∧ told u false ∧ u.port = s.port ∧
         u.hostMem = (storeBytes s win x.buffer bytes).hostMem ∧ u.bankMem = (storeBytes s win x.buffer bytes).bankMem ∧
         u.deck.mem = (storeBytes s win x.buffer bytes).deck.mem) ∧
     (∀ e, 64 ≤ x.length → windowFail s p x.buffer 1 .write = some e → asleepAt s p x.buffer = none →
       ∃ u t, exec (.snapshotExportDone p) s = .next t ∧ Concluded u t ∧ told u true ∧ MemoriesKept s u ∧
         tGet (partOf u p).cnt 3 0 = tGet (partOf s p).cnt 3 0 + 1))

/-- R84, R89, R230, R265 to R279, R281 to R283: GO of a steward's load fills the shadow set of an idle channel, which takes it over, is refused while the set is full and tells a bad descriptor. An operand is one piece, or the pieces of a list, whose entries are read once each, as they are used. A burst of a fill or a copy writes the block at the transfer's place, and a compare reads it; the source is read in whole blocks ahead of it, in one burst or two, every burst checked when it is issued; the counts follow, and the lowest difference, the first error, or the end of the length ends the transfer. A channel whose allowance is spent waits for the gate window; the end of a transfer latches how it came out and takes over or discards the shadow set, and pulses event 384 + n, and before it 416 + n where it was not clean: a WAIT on it goes on, and a watch latch keeps it. A descriptor at an address that 32 does not divide is told as bad, which is the model's choice (123). What the rules leave open is taken as the assumption log says (71 and 107). -/
def Obligations.BargeTransfers : Prop :=
  ∀ (s s1 s2 s3 : State) (n : Fin 32) (p : Nat) (c : Channel) (t0 : Transfer) (d e : Descriptor) (cs cs2 cu : Cursor) (y z z2 : Piece) (win src src2 : Window)
    (er : BitVec 4) (v : Nat) (x : Voyage), isRun s = true → tFind s.brg n = some c →
    let chan (x : Channel) : State := { s with brg := tPut s.brg n x }
    let a := (c.addrHi ++ c.addrLo : BitVec 64).toNat
    let desc := (List.range 32).map fun i => byteAt s win (a + i)
    let reads (q x len : Nat) (w : Window) : Prop := windowFail s q x len .read = none ∧ windowAt s q x = some w ∧ asleepAt s q x = none ∧
      ∀ i, i < len → lostByte s w (x + i) = false
    let load := exec (.bargeLoad n) s
    let burst := exec (.bargeBurst n) s
    let close := exec (.bargeTransferEnd n) s
    let open_ : Prop := s.pwr.quiesce = false ∧ s.pwr.thermal = false ∧ c.ended = none ∧ c.active = some t0 ∧ c.owner = some p ∧ t0.desc = d
    let allowed := (if c.rate = 0 then 256 else c.rate.toNat) * 64
    let block (w : Window) (x : Nat) : Nat := let k := if w.space = 0 then 512 else 64; k - placeOf w x % k
    let rounded (w : Window) (x len : Nat) : Nat := (placeOf w x + len + 15) / 16 * 16 - placeOf w x / 16 * 16
    let pad (w : Window) (x : Nat) : Nat := placeOf w x % 16
    let whole (u : State) (w : Window) (x len : Nat) : Prop := pad w x ≤ x ∧ ∀ i, i < rounded w x len → lostByte u w (x - pad w x + i) = false
    let at_ := y.addr + (cu.pos - y.start)
    let from_ := z.addr + (cs.pos - z.start)
    let m := min (y.start + y.len - cu.pos) (block win at_)
    let k := min (z.start + z.len - cs.pos) (block src from_)
    let issued (u : State) (x : Transfer) (moved : Nat) (how : Option BargeEnd) : Prop := chanOf u n =
      { c with count := c.count + rounded win at_ m, cnt := bumpBy c.cnt 1 moved, active := some x, ended := how }
    let ends (x : Transfer) : Option BargeEnd := if x.dst.pos < d.length then none
      else if (d.slist = true → x.src.entry = d.scount) ∧ (d.dlist = true → x.dst.entry = d.dcount) then some .clean else some (.error 5)
    let memory (v u : State) (l : List Byte) : Prop := u.hostMem = (storeBytes v win at_ l).hostMem ∧ u.bankMem = (storeBytes v win at_ l).bankMem ∧
      u.deck.mem = (storeBytes v win at_ l).deck.mem
    let apart (v : State) (c1 : Cursor) : Prop :=
      let srcs := piecesOf v p d.slist d.src d.scount d.length c1
      clashes srcs (piecesOf v p d.dlist d.dst d.dcount d.length cu) = false ∧ ∀ i, i < m → inPieces srcs (at_ + i) = false
    let next : Transfer := { t0 with dst := { cu with pos := cu.pos + m }, ahead := t0.ahead.drop m }
    let bytes := (List.range k).map fun i => byteAt s1 src (from_ + i)
    let read := (fetchBytes s1 src (from_ - pad src from_) (rounded src from_ k)).state
    let c1 : Cursor := { cs with pos := cs.pos + k }
    let differ (l : List Byte) (i : Nat) : Prop := i < l.length ∧ (∀ j, j < i → l.getD j 0 = byteAt s1 win (at_ + j)) ∧ l.getD i 0 ≠ byteAt s1 win (at_ + i)
    let mismatch (i : Nat) : Option BargeEnd := some (.mismatch (BitVec.ofNat 32 (cu.pos + i)))
    let failed (k : Option Word) (t : Tab Word) (er : BitVec 4) : Channel :=
      { c with active := none, ended := none, latch := k, err := er, shadow := none, cnt := if c.shadow ≠ none then bump t 4 else t }
    let operand (f : Found) (isList : Bool) (base count : Nat) (o : Cursor) : Prop :=
      let entry := base + 16 * o.entry
      let w (i : Nat) : Word := wordAt ((List.range 16).map fun i => byteAt s src (entry + i)) i
      let len := fieldOf (w 2) 0 25
      let badEntry : Prop := len = 0 ∨ 16777216 < len ∨ fieldOf (w 2) 25 7 ≠ 0 ∨ w 3 ≠ 0
      let piece : Piece := ⟨o.pos, (w 1 ++ w 0 : BitVec 64).toNat, len⟩
      (isList = false → o.used = [] → f = .piece s { o with used := [⟨0, base, d.length⟩] } ⟨0, base, d.length⟩) ∧
      (∀ y, o.used.getLast? = some y → o.pos < y.start + y.len → f = .piece s o y) ∧
      (isList = true → (∀ x, o.used.getLast? = some x → x.start + x.len ≤ o.pos) →
        (count ≤ o.entry → f = .stop s (.error 5)) ∧
        (o.entry < count → base % 16 ≠ 0 → f = .stop s (.error 4)) ∧
        (o.entry < count → base % 16 = 0 → reads p entry 16 src →
          (badEntry → ∃ v, f = .stop v (.error 4)) ∧
          (¬ badEntry → d.length < o.pos + len → ∃ v, f = .stop v (.error 5)) ∧
          (¬ badEntry → o.pos + len ≤ d.length → ∃ v, MemoriesKept s v ∧
            f = .piece v { o with entry := o.entry + 1, used := o.used ++ [piece] } piece)))
    let from2 := z2.addr + (cs2.pos - z2.start)
    let k2 := min (z2.start + z2.len - cs2.pos) (block src2 from2)
    let bytes2 := bytes ++ (List.range k2).map fun i => byteAt s3 src2 (from2 + i)
    let read2 := (fetchBytes s3 src2 (from2 - pad src2 from2) (rounded src2 from2 k2)).state
    let c2 : Cursor := { cs2 with pos := cs2.pos + k2 }
    let waits (k : Nat) : Prop := x.state = .parked ∧ x.park = .event k
    let pulsed (u : State) (bad : Bool) : Prop := keysRise s.sch.voy → s.sch.inService ≠ 0 → voyOf s v = some x →
      (waits (384 + n.val) ∨ bad = true ∧ waits (416 + n.val) → ∃ y, voyOf u v = some y ∧ y.state = .ready ∧ y.stage = .woken ∧ y.saw = true) ∧
      (bad = false → waits (416 + n.val) → ∃ y, voyOf u v = some y ∧ { y with watch := x.watch } = x) ∧
      ∀ g, x.state ≠ .parked → x.state ≠ .suspended → x.watch = some g → g.channel = n.val →
        voyOf u v = some { x with watch := some { g with completion := true, mismatch := g.mismatch || bad } }
    (c.owner = some 0 → c.shadow ≠ none → load = .next (chan { c with loadRefused := true })) ∧
    (c.owner ≠ some 0 → load = .next s) ∧
    (c.owner = some 0 → c.shadow = none → reads 0 a 32 win → a % 32 = 0 → parseDesc desc false = some e → c.waiting = [] →
      (c.active = none → ∃ u t, load = .next t ∧ Concluded u t ∧ MemoriesKept s u ∧
        chanOf u n = { c with active := some { desc := e }, shadow := none, latch := none, ended := none }) ∧
      (c.active ≠ none → ∃ u t, load = .next t ∧ Concluded u t ∧ MemoriesKept s u ∧ chanOf u n = { c with shadow := some e })) ∧
    (c.owner = some 0 → c.shadow = none → reads 0 a 32 win → a % 32 ≠ 0 ∨ parseDesc desc false = none →
      ∃ u t, load = .next t ∧ Concluded u t ∧ MemoriesKept s u ∧ chanOf u n = { c with descBad := true }) ∧
    (c.owner = some 0 → c.shadow = none → windowFail s 0 a 32 .read ≠ none → asleepAt s 0 a = none →
      ∃ u t, load = .next t ∧ Concluded u t ∧ chanOf u n = { c with descBad := true } ∧ tGet (partOf u 0).cnt 3 0 = tGet (partOf s 0).cnt 3 0 + 1) ∧
    operand (destAt s p d t0.dst) d.dlist d.dst d.dcount t0.dst ∧ operand (sourceAt s p d t0.src) d.slist d.src d.scount t0.src ∧
    (open_ → allowed ≤ c.count → burst = .next (chan { c with withheld := true })) ∧
    (open_ → c.count < allowed → d.mode = 1 → destAt s p d t0.dst = .piece s1 cu y → 0 < m → checkBurst s1 p y cu.pos .write = .ok win →
      ∃ u t, burst = .next t ∧ Concluded u t ∧ issued u next m (ends next) ∧
        memory s1 u ((List.range m).map fun i => BitVec.ofNat 8 (d.src / 2 ^ (8 * ((at_ + i) % 4))))) ∧
    (open_ → c.count < allowed → d.mode = 0 → t0.failed = none → destAt s p d t0.dst = .piece s1 cu y → 0 < m → m ≤ t0.ahead.length →
      checkBurst s1 p y cu.pos .write = .ok win → apart s1 t0.src →
      ∃ u t, burst = .next t ∧ Concluded u t ∧ issued u next m (ends next) ∧ memory s1 u (t0.ahead.take m)) ∧
    (open_ → c.count < allowed → d.mode = 0 → t0.failed = none → t0.ahead = [] → t0.kept = [] → sourceAt s p d t0.src = .piece s1 cs z →
      (∀ v, checkBurst s1 p z cs.pos .read = .stop v (.error er) → ∃ t, burst = .next t ∧ Concluded (modChan v n fun x =>
        { x with active := some { t0 with src := cs, failed := some er }, ended := some (.error er) }) t) ∧
      (checkBurst s1 p z cs.pos .read = .ok src → 0 < k → whole s1 src from_ k → destAt read p d t0.dst = .piece s2 cu y → 0 < m → m ≤ k →
        checkBurst s2 p y cu.pos .write = .ok win → apart s2 c1 →
        let x : Transfer := { next with src := c1, ahead := bytes.drop m }
        ∃ u t, burst = .next t ∧ Concluded u t ∧ issued u x m (ends x) ∧ memory s2 u (bytes.take m)) ∧
      (checkBurst s1 p z cs.pos .read = .ok src → 0 < k → whole s1 src from_ k → destAt read p d t0.dst = .piece s2 cu y → k < m →
        sourceAt s2 p d c1 = .piece s3 cs2 z2 → checkBurst s3 p z2 cs2.pos .read = .ok src2 → 0 < k2 → whole s3 src2 from2 k2 → m ≤ k + k2 →
        checkBurst read2 p y cu.pos .write = .ok win → apart read2 c2 →
        let x : Transfer := { next with src := c2, ahead := bytes2.drop m }
        ∃ u t, burst = .next t ∧ Concluded u t ∧ issued u x m (ends x) ∧ memory read2 u (bytes2.take m))) ∧
    (open_ → c.count < allowed → d.mode = 2 → destAt s p d t0.dst = .piece s1 cu y → 0 < m → checkBurst s1 p y cu.pos .read = .ok win →
      whole s1 win at_ m →
      let takes (how : Option BargeEnd) : Prop := ∃ u t, burst = .next t ∧ Concluded u t ∧ MemoriesKept s1 u ∧ issued u next 0 how
      (m ≤ t0.ahead.length →
        (t0.ahead.take m = (List.range m).map (fun i => byteAt s1 win (at_ + i)) → takes (ends next)) ∧
        ∀ i, differ (t0.ahead.take m) i → takes (mismatch i)) ∧
      (t0.failed = some er → t0.ahead ≠ [] → t0.ahead.length < m →
        ((∀ i, ¬ differ t0.ahead i) → takes (some (.error er))) ∧ ∀ i, differ t0.ahead i → takes (mismatch i))) ∧
    (∀ v, open_ → c.count < allowed → t0.failed = none → destAt s p d t0.dst = .piece s1 cu y →
      d.mode = 1 ∨ 0 < t0.ahead.length ∧ (∀ w, windowAt s1 p at_ = some w → min (y.start + y.len - cu.pos) (block w at_) ≤ t0.ahead.length) →
      checkBurst s1 p y cu.pos (if d.mode = 2 then .read else .write) = .stop v (.error er) →
      ∃ t, burst = .next t ∧ Concluded (modChan v n fun x => { x with active := some { t0 with dst := cu }, ended := some (.error er) }) t) ∧
    (c.ended = some .clean → c.waiting = [] → ∃ u t, close = .next t ∧ Concluded u t ∧ MemoriesKept s { u with port := s.port } ∧ pulsed u false ∧
      (c.shadow = none → chanOf u n = { c with active := none, ended := none, err := 0, cnt := bump c.cnt 0 }) ∧
      (c.shadow = some e → chanOf u n =
        { c with active := some { desc := e }, shadow := none, latch := none, ended := none, err := 0, cnt := bump c.cnt 0 })) ∧
    (∀ k, c.ended = some (.mismatch k) → c.waiting = [] → ∃ u t, close = .next t ∧ Concluded u t ∧ MemoriesKept s { u with port := s.port } ∧ pulsed u true ∧
      chanOf u n = failed (some k) (bump c.cnt 2) c.err) ∧
    (∀ k, c.ended = some (.error k) → c.waiting = [] → ∃ u t, close = .next t ∧ Concluded u t ∧ MemoriesKept s { u with port := s.port } ∧ pulsed u true ∧
      chanOf u n = failed (some 0xFFFFFFFF) (bump c.cnt 3) k) ∧
    (c.ended = none → close = .next s) ∧
    (∃ t, exec .shareGateWindow s = .next t ∧ { t with brg := s.brg, part := s.part } = s ∧
      chanOf t n = { c with count := c.count - allowed, withheld := false, cnt := if c.withheld then bump c.cnt 5 else c.cnt } ∧
      ∀ k g, tFind s.part k = some g → partOf t k = { g with gates := [], hostNow := g.hostShare, bargeNow := g.bargeShare })

/-! ## Berths, interrupts and registers (15_berth_arbitration.md, 16_events_and_interrupts.md, 20_register_map.md) -/

/-- R230, R432, R433, R435, R436, R438, R440 to R442, R449, R485, R538: where the resource is idle, or the owner's berth ends, a decision takes a CONTROL request, that of the lowest slot, else a timed one before any other, with the highest effective priority, then the most losses, then the lowest slot, then the next engine of a port group; the berth begins, its bytes count at the gate, its burst goes on to the arbiter behind this one with its class, an AUTH's request joins those of the crypto engine, and the others age, one above the starvation limit being reported; with no contender the berth ends. The owner keeps its berth to the end of its burst, and past it while it has another one, its beats are below its limit and no CONTROL request waits, the engines of a port group taking turns. A request for a bank in retention makes it leave, and takes no part until it has left. A burst that runs sixteen beats past that limit is cut off: the berth ends, its requester is kept out and told, and what the burst served fails. What the rules leave open is taken as the assumption log says (35, 69, 70, 91 and 129). -/
def Obligations.Berths : Prop :=
  ∀ (s : State) (a : Fin 39) (cyc : BerthCycle) (w : BerthRequest) (served : Served) (n : Fin 32) (c : Channel), isRun s = true →
    let x := arbOf s a
    let l := presentRequests s a cyc.requests
    let came (r : BerthRequest) : Bool := a.val != 32 && a.val != 34 && decide (a.val < 36) && (r.slot.val == 18 || r.slot.val == 19)
    let cls (r : BerthRequest) : TrafficClass := match (if came r then tFind x.carried r.slot else none) with | some y => y.cls | none => classFor s r.work
    let part (r : BerthRequest) : Option Nat := if cls r = .bulk then partFor s r.work else none
    let bank (r : BerthRequest) : Nat := match r.work with | .fill p g => ((windowAt s p g.toNat).map fun y => y.bank.toNat).getD 0 | _ => r.next.val % 16
    let asleep (r : BerthRequest) : Prop := a.val = 35 ∧ ((bankOf s (bank r)).ret = true ∨ (bankOf s (bank r)).leaving = true)
    let woke (u : State) : Prop := ∀ k, ((∃ r, r ∈ l ∧ asleep r ∧ bank r = k) → bankOf u k = { bankOf s k with ret := false, leaving := true, waiting := true }) ∧
      ((∀ r, r ∈ l → asleep r → bank r ≠ k) → bankOf u k = bankOf s k)
    let crypto (u : State) (r : BerthRequest) : Prop := { u.sec with crypto := s.sec.crypto } = s.sec ∧
      (∀ v x, a.val = 34 → r.work = .voyage v → voyOf s v = some x → opOf x.cur = 0x10 → v.val ∈ u.sec.crypto ∧ (v.val ∉ s.sec.crypto → u.sec.crypto.getLast? = some v.val)) ∧
      (a.val ≠ 34 → u.sec = s.sec)
    let share (p : Nat) : Nat := if a.val = 33 then (partOf s p).hostNow * 8192 / 256 else (partOf s p).bargeNow * 16384 / 256
    let held (r : BerthRequest) : Prop := (a.val = 33 ∨ 36 ≤ a.val) ∧ ∃ p, part r = some p ∧ share p ≤ tGet (partOf s p).gates a 0 ∧
      ∃ x y, x ∈ l ∧ part x = some y ∧ y ≠ p ∧ tGet (partOf s y).gates a 0 < share y
    let takes (r : BerthRequest) : Prop := r ∈ l ∧ (requesterOf s a r.slot).cutoff = false ∧ ¬ held r ∧ ¬ asleep r
    let losses (r : BerthRequest) : Nat := (requesterOf s a r.slot).losses.toNat
    let prio (r : BerthRequest) : Nat := min 15 (baseOf s a r.slot + losses r)
    let turn (r : BerthRequest) : Nat := match r.work with | .port p => (p.val + 3 - (requesterOf s a r.slot).engine.toNat) % 4 | _ => 0
    let first (r : BerthRequest) : Prop := w.slot < r.slot ∨ w.slot = r.slot ∧ turn w < turn r
    let beats (r : BerthRequest) : Prop := prio r < prio w ∨ prio r = prio w ∧ (losses r < losses w ∨ losses r = losses w ∧ first r)
    let timed (r : BerthRequest) : Prop := cls r = .timed
    let rotated (r : BerthRequest) (y : Requester) : Requester := match r.work with | .port p => { y with engine := BitVec.ofNat 2 p.val } | _ => y
    let wins : Prop := takes w ∧ (cls w = .control ∧ (∀ r, takes r → cls r = .control → r ≠ w → w.slot < r.slot) ∨
      cls w ≠ .control ∧ ∀ r, takes r → r ≠ w → cls r ≠ .control ∧ ((timed w ∧ ¬ timed r) ∨ (timed w ∨ ¬ timed r) ∧ beats r))
    let limit := max 16 (min 4096 x.starveLimit.toNat)
    let decides := exec (.berthDecision a cyc) s
    let cuts := exec (.berthCutoff a served) s
    let k := x.owner.toNat
    let old := requesterOf s a k
    let burst := if a.val = 33 ∨ k ≠ 0 ∧ (a.val = 32 ∨ a.val = 36) then 32 else 4
    let lim := if 36 ≤ a.val then 0 else max old.limit.toNat burst
    let cut := (if 36 ≤ a.val then burst else lim) + 16
    let waiting : Prop := ∃ b, x.next = some b ∧ tFind (arbOf s b).carried (if a.val = 32 then 19 else 18) ≠ none
    let next (r : BerthRequest) : Prop := r ∈ l ∧ r.slot.val = k ∧ (requesterOf s a r.slot).cutoff = false ∧ ¬ asleep r
    let over_ : Prop := (∀ r, ¬ next r) ∨ lim ≤ x.beats + x.left ∨ k ≠ 0 ∧ ∃ r, r ∈ l ∧ r.slot.val ≠ k ∧ cls r = .control ∧ (requesterOf s a r.slot).cutoff = false ∧ ¬ asleep r
    let done_ : Prop := x.busy = true ∧ ¬ waiting ∧ x.left ≤ cyc.beats.toNat ∧ x.beats + x.left ≤ cut
    let free : Prop := x.busy = false ∨ done_ ∧ over_
    let goes (r : BerthRequest) : Option (Nat × Nat) := if a.val = 36 then some (33, 18) else if a.val = 37 then some (35, 18)
      else if a.val = 38 then some (r.next.val % 32, 18)
      else if a.val = 32 then some (if r.next.val < 32 ∨ r.next.val = 35 then r.next.val else 33, 19) else none
    let begins (u : State) (r : BerthRequest) : Prop := (arbOf u a).busy = true ∧ (arbOf u a).work = r.work ∧ (arbOf u a).left = max 1 ((r.bytes.toNat + 15) / 16) ∧
      (arbOf u a).next = (goes r).map Prod.fst ∧ (arbOf u a).carried = (if came r then tDel x.carried r.slot else x.carried) ∧ crypto u r ∧ woke u ∧
      (∀ b j, goes r = some (b, j) → arbOf u b = { arbOf s b with carried := tPut (arbOf s b).carried j { request := r, cls := cls r } }) ∧
      (∀ j, j ≠ a.val → (∀ i, goes r ≠ some (j, i)) → arbOf u j = arbOf s j) ∧
      ∀ p, partOf u p = if (a.val = 33 ∨ 36 ≤ a.val) ∧ part r = some p then { partOf s p with gates := tUpd (partOf s p).gates a 0 (· + r.bytes.toNat) } else partOf s p
    let told (u : State) : Prop := (requesterOf u a k).cutoff = true ∧ (arbOf u a).busy = false ∧ u.pwr.sticky.getLsbD 2 = true ∧
      (old.cutoff = false → 576 + a.val ∈ u.icu.pend ∨ (srcOf s (576 + a.val)).tgt.getLsbD 0 = false) ∧
      { kind := 0x09, object := a.val + k * 2 ^ 8 : LogDraft } ∈ u.log.due
    let engine : Prop := (a.val < 36 ∧ a.val ≠ 32) ∧ 1 ≤ k ∧ k ≤ 16
    let group : Prop := (a.val < 32 ∨ a.val = 35) ∧ 24 ≤ k ∧ k ≤ 47
    let late : Prop := x.busy = true ∧ 0 < x.left ∧ cut ≤ x.beats ∧ x.work = served
    let alone : Prop := ¬ engine ∧ ¬ group
    (free → wins → ∃ u t, decides = .next t ∧ Concluded u t ∧ begins u w ∧ (arbOf u a).owner = BitVec.ofNat 6 w.slot ∧ (arbOf u a).beats = 0 ∧
      requesterOf u a w.slot = rotated w { requesterOf s a w.slot with losses := 0 } ∧
      (∀ r, takes r → r.slot ≠ w.slot → (isDeckArb a && r.slot == 48) = false →
        let n := min (losses r + 1) 8191
        requesterOf u a r.slot = { requesterOf s a r.slot with losses := BitVec.ofNat 13 n, starved := (requesterOf s a r.slot).starved || decide (limit < n) } ∧
        (limit < n → (requesterOf s a r.slot).starved = false → (srcOf s (576 + a.val)).tgt.getLsbD 0 = true → 576 + a.val ∈ u.icu.pend)) ∧
      (∀ j, (∀ r, takes r → r.slot.val ≠ j) → requesterOf u a j = requesterOf s a j) ∧
      { u with brt := s.brt, part := s.part, icu := s.icu, bank := s.bank, sec := s.sec } = s) ∧
    (free → (∀ r, ¬ takes r) → ∃ u t, decides = .next t ∧ Concluded u t ∧ (arbOf u a).busy = false ∧ (arbOf u a).slots = x.slots ∧ woke u ∧ { u with brt := s.brt, bank := s.bank } = s) ∧
    (done_ → ¬ over_ → next w → (∀ r, next r → r ≠ w → turn w < turn r) → ∃ u t, decides = .next t ∧ Concluded u t ∧ begins u w ∧ (arbOf u a).owner = x.owner ∧
      (arbOf u a).beats = x.beats + x.left ∧ requesterOf u a k = rotated w old ∧ (∀ j, j ≠ k → requesterOf u a j = requesterOf s a j) ∧
      { u with brt := s.brt, part := s.part, bank := s.bank, sec := s.sec } = s) ∧
    (x.busy = true → ¬ waiting → cyc.beats.toNat < x.left → x.beats + cyc.beats.toNat ≤ cut → ∃ u t, decides = .next t ∧ Concluded u t ∧ woke u ∧
      { u with bank := s.bank } = modArb s a fun y => { y with left := x.left - cyc.beats.toNat, beats := x.beats + cyc.beats.toNat }) ∧
    (x.busy = true → waiting → ∃ u t, decides = .next t ∧ Concluded u t ∧ woke u ∧ { u with bank := s.bank } = s) ∧
    (¬ late → cuts = .next s) ∧
    (late → k < 49 →
      (engine → s.sch.inService.getLsbD (k - 1) = true → ∃ u t, cuts = .next t ∧ Concluded u t ∧ told u ∧ u.sch.inService.getLsbD (k - 1) = false) ∧
      (¬ engine → group → ∃ u t, cuts = .next t ∧ Concluded u t ∧ told u ∧ ∀ i, i < 4 → (portOf u (4 * (k - 24) + i)).eng.state = .failed) ∧
      (alone → served = .control ∨ served = .sink ∨ served = .scrub ∨ (∃ i, served = .frame i) ∨ (∃ p, served = .view p) →
        ∃ u t, cuts = .next t ∧ Concluded u t ∧ told u ∧ { u with brt := s.brt, icu := s.icu, pwr := s.pwr, log := s.log } = s) ∧
      (∀ (p : Fin 32) (m : Fin 8) (r : SubRing), alone → served = .ringOther p m → sqOf s p m = some r → r.fault = false →
        (r.fetched ≠ r.p → ∃ u t, cuts = .next t ∧ Concluded u t ∧ told u ∧ sqOf u p m = some { r with fault := true }) ∧
        (r.fetched = r.p → ∃ u t, cuts = .next t ∧ Concluded u t ∧ told u ∧ sqOf u p m = some r)) ∧
      (alone → served = .channel n → tFind s.brg n = some c → c.active ≠ none → c.ended = none →
        ∃ u t, cuts = .next t ∧ Concluded u t ∧ told u ∧ chanOf u n = { c with ended := some (.error 7) }) ∧
      (∀ v y m, alone → served = .voyage v → voyOf s v = some y → y.state = .active → y.timed = false → y.suspending = false → y.halting = false →
        y.heldRecs = [] → keysRise s.sch.voy → s.sch.inService ≠ 0 → (a.val < 32 ∨ a.val = 35) → RingHasRoom s v y m →
        ∃ t, cuts = .next t ∧ EndsWith s t v m y (wd y.cur 7) (faultResidual s v) 0x32 (if a.val < 32 then 1 else 2)))

/-- R455 to R459, R461 to R463, R465, R466, R469: a claim takes the eligible source of the highest priority, or in fallback mode the lowest number, puts it in service, starts its hold-off and answers with its number and priority; a source is eligible at its target while it is pending and not in service, its PRIO is not 0, neither GDIS, the target's DIS nor its hold-off stops it, and it is above THRESH and the running level, or in fallback mode no source is in service there. An EOI ends its service, and one that names none in service at the target is told; a source that becomes eligible sends its vector's message, once, or sets the pending bit of a vector that is masked; an acknowledgement at T33; the unmasking of a vector sends its pending message if one is still due; a hold-off that has run out ends. Which claims fall in one cycle is free (134), and what else the rules leave open is taken as the assumption log says (88 and 94: the layout of an MSI-X entry is the model's). -/
def Obligations.Interrupts : Prop :=
  ∀ (s : State) (t : Fin 32) (n : Nat) (w : Word) (v : Fin 64) (g : Fin 64), isRun s = true →
    let prio (k : Nat) : Nat := (srcOf s k).prio.toNat
    let holds (k : Nat) : HoldGroup := tGet s.icu.group (srcOf s k).group.toNat {}
    let meets : Bool := s.icu.group.any fun y => y.2.claimed.any (· != t.val)
    let same (k : Nat) : Prop := (∃ j, (holds k).claimed = some j ∧ j ≠ t.val) ∧ (Config.freeWord s.freeCtr).getLsbD 0 = true
    let never (_ : Nat) : Prop := False
    let offers (u : State) (but : Nat → Prop) (k j : Nat) : Prop := ownTarget u k = some j ∧ pendingOwn u k = true ∧ k ∉ u.icu.serv ∧ (srcOf u k).prio ≠ 0 ∧
      u.icu.gdis = false ∧ (targetOf u j).dis = false ∧ ((tGet u.icu.group (srcOf u k).group.toNat {}).running = true → but k) ∧
      if (targetOf u j).priority then (targetOf u j).thresh.toNat < (srcOf u k).prio.toNat ∧
        ∀ i, i ∈ u.icu.serv → servTarget u i = some j → (srcOf u i).prio.toNat < (srcOf u k).prio.toNat
      else ∀ i, i ∈ u.icu.serv → servTarget u i ≠ some j
    let best : Prop := offers s same n t ∧ ∀ k, offers s same k t → k ≠ n →
      if (targetOf s t).priority then prio k < prio n ∨ prio k = prio n ∧ n < k else n < k
    let grp := holds n
    let named := fieldOf w 0 10
    let tgt := targetOf s t
    let open_ : Target := { tgt with msix := tUpd tgt.msix v {} fun e => { e with ctl := e.ctl &&& ~~~ 1 } }
    let put (x : Target) : State := { s with icu := { s.icu with target := tPut s.icu.target t x } }
    let due : Prop := ∃ k, offers s never k t ∧ (srcOf s k).vec.toNat = v.val
    let drawnNow : Nat := s.freeCtr + if meets then 1 else 0
    let eoi : State := { s with icu := { s.icu with serv := s.icu.serv.filter (· != named) } }
    let fresh (k j : Nat) : Prop := offers eoi never k j ∧ ¬ offers s never k j
    let sends (j : Nat) : Prop := (targetOf s j).msixEnable = true ∧ (partOf s j).busMaster = true ∧ (partOf s j).reset = none
    let masked (j k : Nat) : Prop := (targetOf s j).functionMask = true ∨ (msixOf s j k).ctl.getLsbD 0 = true
    let message (j k : Nat) : MsiMessage := ⟨j, k, (msixOf s j k).addrHi ++ (msixOf s j k).addrLo, (msixOf s j k).data⟩
    (best → ∃ u x, exec (.icuClaim t) s = .next x ∧ Concluded u x ∧ u.out.readData = [BitVec.ofNat 32 (n + prio n * 2 ^ 16 + 2 ^ 31)] ∧
      (∀ k, k ∈ u.icu.pend ↔ k ∈ s.icu.pend ∧ k ≠ n) ∧ (∀ k, k ∈ u.icu.serv ↔ k = n ∨ k ∈ s.icu.serv) ∧
      tGet u.icu.group (srcOf s n).group.toNat {} = (if grp.holdoff = 0 ∨ grp.running = true then grp
        else { grp with running := true, left := 100 * grp.holdoff.toNat, claimed := some t.val }) ∧
      { u with icu := s.icu, out := s.out } = { s with freeCtr := drawnNow }) ∧
    ((∀ k, ¬ offers s same k t) → (∃ t', exec (.icuClaim t) s = .next t' ∧ Concluded { s with freeCtr := drawnNow, out := { s.out with readData := [0] } } t')) ∧
    (named ∈ s.icu.serv → servTarget s named = some t.val → ∃ x l, exec (.icuEoi t w) s = .next x ∧ Concluded eoi x ∧ x.out.msi = s.out.msi ++ l ∧ l.Nodup ∧
      (∀ k j, fresh k j → sends j → ¬ masked j (srcOf s k).vec.toNat → message j (srcOf s k).vec.toNat ∈ l) ∧
      (∀ k j, fresh k j → sends j → masked j (srcOf s k).vec.toNat → (srcOf s k).vec.toNat ∈ (targetOf x j).pba) ∧
      ∀ y, y ∈ l → ∃ k j, fresh k j ∧ sends j ∧ ¬ masked j (srcOf s k).vec.toNat ∧ y = message j (srcOf s k).vec.toNat) ∧
    (named ∉ s.icu.serv ∨ servTarget s named ≠ some t.val → (∃ t', exec (.icuEoi t w) s = .next t' ∧ Concluded (put { tgt with eoiBad := true }) t')) ∧
    exec (.icuT33Ack w) s = .next { s with icu := { s.icu with pend33 := s.icu.pend33.filter (· != named) } } ∧
    (tgt.functionMask = true ∨ v.val ∉ tgt.pba → exec (.msixVectorUnmask t v) s = .next (put open_)) ∧
    (tgt.functionMask = false → v.val ∈ tgt.pba → ¬ due → exec (.msixVectorUnmask t v) s = .next (put { open_ with pba := tgt.pba.filter (· != v.val) })) ∧
    (tgt.functionMask = false → v.val ∈ tgt.pba → due → tgt.msixEnable = true → (partOf s t).busMaster = true → (partOf s t).reset = none →
      exec (.msixVectorUnmask t v) s = .next { put { open_ with pba := tgt.pba.filter (· != v.val) } with
        out := { s.out with msi := s.out.msi ++ [⟨t, v, (msixOf s t v).addrHi ++ (msixOf s t v).addrLo, (msixOf s t v).data⟩] } }) ∧
    ((tGet s.icu.group g.val {}).running = true → (tGet s.icu.group g.val {}).left = 0 → (∃ t', exec (.holdOffExpiry g) s = .next t' ∧ Concluded { s with icu := { s.icu with
      group := tPut s.icu.group g { tGet s.icu.group g.val {} with running := false, left := 0, claimed := none } } } t')) ∧
    ((tGet s.icu.group g.val {}).running = false ∨ 0 < (tGet s.icu.group g.val {}).left → exec (.holdOffExpiry g) s = .next s)

/-- R6, R8, R27, R148, R177, R180, R224, R235, R260, R385, R399, R406, R430, R449, R450, R469 to R471, R491, R492, R507, R529, R531, R535 to R538, R545 to R550, R552, R553, R556, R557: the writes of the global space: a locked field and a unit that is off ignore them, a configuration change is recorded with the old and the new value or refused in autonomous hold and with a full logbook, an unmapped offset and a wrong width are told; what the writes of the arbiters, the interrupt controller, the endpoint unit, the identity bus, power, the backbone ports, the MACsec associations and the wake filters set, and those of a partition's page; the lock, the flat area, the owners and the retention of the banks; a read answers the bytes of a word, or two words, and any other is an Unsupported Request; a read of a low half captures the high one, a read of a clearing field answers and clears it, and a reserved offset reads as 0. What the rules leave open is taken as the assumption log says (85 to 87, 94 and 135; what the registers of a unit that is off show, 82). -/
def Obligations.Registers : Prop :=
  ∀ (s : State) (n : Fin 16) (w : Word) (off : BitVec 24) (p : Fin 32) (o : BitVec 16) (a : Fin 39) (k : Fin 49) (j : Fin 64) (i : Fin 1024) (m : Fin 2) (q : Fin 96), isRun s = true →
    let b := bankOf s n
    let bank (x : Bank) : State := { s with bank := tPut s.bank n x }
    let free : Prop := s.pwr.hold = false ∧ s.log.next < s.log.mark + 3840
    let glb (g : GlobalRegs) : State := { s with glb := g }
    let change (u : State) (off : Nat) (old new : Word) : State :=
      logNormal u { part := 0, door := 0, kind := 0x04, object := off, body := leBytes 4 old.toNat ++ leBytes 4 new.toNat }
    let latched (g : GlobalRegs) (off : Nat) : GlobalRegs := if g.wraddrValid then g else { g with wraddr := BitVec.ofNat 24 off, wraddrValid := true }
    let refused (bit : BitVec 3) (off : Nat) : State := glb (latched { s.glb with wrerr := s.glb.wrerr ||| bit } off)
    let own (x : Bank) : Word := BitVec.ofNat 32 (x.kind.toNat + x.owner.toNat * 2 ^ 8) ||| (if x.handover ≠ none then 0x80000000 else 0)
    let kind : BitVec 2 := w.setWidth 2
    let owner : BitVec 5 := (w >>> 8).setWidth 5
    let keep := w.getLsbD 16
    let hand : Handover := { kind := kind, owner := owner, keep := keep, door := none }
    let named : Prop := kind = 0 ∨ kind = 1 ∧ owner.toNat ≤ 23 ∨ kind = 2 ∧ owner = 0
    let on : Prop := s.pwr.domains.getLsbD (24 + n.val) = true
    let pages := min 4096 (fieldOf w 0 13)
    let cleared := s.deck.flatRefused && !w.getLsbD 16
    let flat (k : Nat) (r : Bool) : State := { s with deck := { s.deck with flatPages := k, flatRefused := r } }
    let flatWordOf (r : Bool) (k : Nat) : Word := BitVec.ofNat 32 (k + if r then 2 ^ 16 else 0)
    let unused : Prop := (∀ k q, (k, q) ∈ s.deck.queues → 8192 ≤ k) ∧ (∀ i x j y, (i, x) ∈ s.part → (j, y) ∈ x.wins → y.space ≠ 2) ∧
      (pages = 0 ∨ ∀ k, k < 8 → domainOn s (40 + k) = true)
    let write (a : Nat) : Host.Outcome State Fault Refusal := exec (.registerWrite (.glob (BitVec.ofNat 24 a)) (.word w)) s
    let writes (a : Nat) (u : State) : Prop := ∃ t, write a = .next t ∧ Concluded u t
    let answered (u : State) (l : List Word) : State := { u with out := { s.out with readData := l } }
    let captures (a : RegAddr) (key value : Nat) : Prop := exec (.lowHalfCaptureRead ⟨a, 4⟩) s = .next (answered (glb { s.glb with
      capture := tPut s.glb.capture key (BitVec.ofNat 32 (value / 2 ^ 32)) }) [BitVec.ofNat 32 value])
    let sets (a : Nat) (locked : Bool) (u : State) : Prop :=
      (locked = true → s.glb.lock = true → writes a s) ∧
      (locked = false ∨ s.glb.lock = false → (free → ∃ old new, writes a (change u a old new)) ∧ (s.pwr.hold = false → ¬ free → writes a (refused 4 a)))
    let sch (c : Sched) : State := { s with sch := c }
    let icu (c : Icu) : State := { s with icu := c }
    let ep (c : Endpoints) : State := { s with ep := c }
    let pwr (c : Power) : State := { s with pwr := c }
    let local_ (a : Nat) (u : State) : Prop := ∃ t, exec (.registerWrite (.page p (BitVec.ofNat 16 a)) (.word w)) s = .next t ∧ Concluded u t
    let sa (x : MacSa) : MacSa := { an := w.setWidth 2, slot := (w >>> 2).setWidth 6, en := w.getLsbD 8, pn := if w.getLsbD 8 then 1 else x.pn }
    let req := requesterOf s a k
    let base : BitVec 4 := if k.val ≠ 0 ∧ ¬ (a.val < 32 ∧ k.val = 48) then w.setWidth 4 else req.base
    let limit : BitVec 8 := (w >>> 8).setWidth 8
    let bb := bbOf s m
    let attr : SrcAttr := { prio := w.setWidth 4, vec := (w >>> 8).setWidth 6, group := (w >>> 16).setWidth 6
                            tgt := if 576 ≤ i.val ∧ i.val ≤ 711 then (w >>> 24).setWidth 2 else (srcOf s i).tgt }
    let unit (d : Nat) : Prop := domainOn s d = true
    let tgt := targetOf s p
    let pattr : SrcAttr := { srcOf s tgt.psel.toNat with prio := w.setWidth 4, vec := (w >>> 8).setWidth 6 }
    let entry := tGet tgt.msix j.val {}
    let put (x : Target) : State := { s with icu := { s.icu with target := tPut s.icu.target p x } }
    let part (x : Partition) : State := { s with part := tPut s.part p x }
    let flags (x : Nat) : State := modPort s x fun y => { y with flags := y.flags &&& ~~~ (w >>> 4).setWidth 4 }
    let page := 2 ^ 24 + 2 ^ 16 * p.val
    let reads (a : Nat) (x : Word) (u : State) : Prop :=
      exec (.rcFieldRead ⟨.glob (BitVec.ofNat 24 a), 4⟩) s = .next (answered u [x])
    (s.glb.lock = true → (∃ t', exec .glbLockSet s = .next t' ∧ Concluded s t')) ∧
    (s.glb.lock = false → free → (∃ t', exec .glbLockSet s = .next t' ∧ Concluded (change (glb { s.glb with lock := true }) 4 0 1) t')) ∧
    (s.glb.lock = false → s.pwr.hold = false → ¬ free → (∃ t', exec .glbLockSet s = .next t' ∧ Concluded (refused 4 4) t')) ∧
    (s.glb.lock = false → s.pwr.hold = true → s.log.next < s.log.mark + 3840 →
      (∃ t', exec .glbLockSet s = .next t' ∧ Concluded { glb (latched s.glb 4) with pwr := { s.pwr with holdRefused := true } } t')) ∧
    (pages = s.deck.flatPages ∨ s.glb.lock = true → (∃ t', exec (.dckFlatWrite w) s = .next t' ∧ Concluded (flat s.deck.flatPages cleared) t')) ∧
    (pages ≠ s.deck.flatPages → s.glb.lock = false → ¬ unused → (∃ t', exec (.dckFlatWrite w) s = .next t' ∧ Concluded (flat s.deck.flatPages true) t')) ∧
    (pages ≠ s.deck.flatPages → s.glb.lock = false → unused → free → (∃ t', exec (.dckFlatWrite w) s = .next t' ∧ Concluded (change (flat pages cleared) 0x4004 (flatWordOf s.deck.flatRefused s.deck.flatPages) (flatWordOf cleared pages)) t')) ∧
    (s.glb.lock = true ∨ ¬ on → (∃ t', exec (.gbkOwnWrite n w) s = .next t' ∧ Concluded s t')) ∧
    (s.glb.lock = false → on → b.handover ≠ none ∨ ¬ named → (∃ t', exec (.gbkOwnWrite n w) s = .next t' ∧ Concluded (bank { b with ownRefused := true }) t')) ∧
    (s.glb.lock = false → on → b.handover = none → named → free →
      (keep = true → kind = b.kind → owner = b.owner → (∃ t', exec (.gbkOwnWrite n w) s = .next t' ∧ Concluded (change s (0x60000 + 0x20 * n.val) (own b) (own { b with kind := kind, owner := owner })) t')) ∧
      (¬ (keep = true ∧ kind = b.kind ∧ owner = b.owner) → b.kind ≠ 0 → (∀ k, stagingBank s k = some n.val → (portOf s k).loading = none) → (∃ t', exec (.gbkOwnWrite n w) s = .next t' ∧ Concluded (change (bank { b with handover := some hand, waiting := false }) (0x60000 + 0x20 * n.val) (own b) (own { b with kind := kind, owner := owner })) t')) ∧
      (¬ (keep = true ∧ kind = b.kind ∧ owner = b.owner) → b.kind = 0 → ∃ u t, exec (.gbkOwnWrite n w) s = .next t ∧ Concluded u t ∧
        bankOf u n = { b with handover := some hand, waiting := false } ∧ (∀ j y, (j, y) ∈ (partOf u b.owner.toNat).wins ↔
          (j, y) ∈ (partOf s b.owner.toNat).wins ∧ ∀ z, (j, z) ∈ (partOf s b.owner.toNat).wins → ¬ (z.space = 1 ∧ z.bank.toNat = n)))) ∧
    (b.handover = none → b.leaving = false → on → free → (∃ t', exec (.retentionEntry n) s = .next t' ∧ Concluded (change (bank { b with ret := true }) (0x60004 + 0x20 * n.val) (if b.ret then 1 else 0) 1) t')) ∧
    (b.handover ≠ none ∨ b.leaving = true → on → free → (∃ t', exec (.retentionEntry n) s = .next t' ∧ Concluded (change s (0x60004 + 0x20 * n.val) (if b.ret then 1 else 0) (if b.ret then 1 else 0)) t')) ∧
    (¬ on → (∃ t', exec (.retentionEntry n) s = .next t' ∧ Concluded s t')) ∧
    (b.leaving = true → exec (.retentionExitDone n) s = .next (bank { b with leaving := false, waiting := false })) ∧
    (captures (.glob 0x1000) 0x1000 s.tb.time ∧ captures (.glob 0x1008) 0x1008 s.tb.lsn ∧ captures (.glob 0x7004) 0x7004 s.log.next ∧
      captures (.glob 0x700C) 0x700C s.log.mark ∧ captures (.page p 0x3000) (page + 0x3000) s.tb.time ∧ captures (.page p 0x3008) (page + 0x3008) s.tb.lsn ∧
      captures (.page p 0x3010) (page + 0x3010) s.tb.lsn) ∧
    reads 0x4008 (s.deck.quarantined ++ s.deck.corrected) { s with deck := { s.deck with corrected := 0 } } ∧
    (on → reads (0x6000C + 0x20 * n.val) (b.uncorr ++ b.corrected) (bank { b with corrected := 0 })) ∧
    (¬ on → reads (0x6000C + 0x20 * n.val) 0 s) ∧
    (let r := exec (.lowHalfCaptureRead ⟨.glob 0x1000, 8⟩) s
     let u := glb { s.glb with capture := tPut s.glb.capture 0x1000 (BitVec.ofNat 32 (s.tb.time / 2 ^ 32)) }
     r = .next (answered u [BitVec.ofNat 32 s.tb.time, BitVec.ofNat 32 (s.tb.time / 2 ^ 32)]) ∧
     exec (.rcFieldRead ⟨.glob 0x1002, 2⟩) s = .next (answered u [BitVec.ofNat 32 (s.tb.time / 2 ^ 16 % 2 ^ 16)])) ∧
    (∀ x : RegRead, let at_ := match x.addr with | .glob y => y.toNat | .page _ y => y.toNat
      exec (.rcFieldRead x) s = exec (.lowHalfCaptureRead x) s ∧
      (x.len = 0 ∨ 4 < at_ % 4 + x.len → ¬ (x.len = 8 ∧ at_ % 8 = 0) → exec (.rcFieldRead x) s = .next (answered s []))) ∧
    (off.toNat % 4 = 0 → gregAt off.toNat = none → exec (.rcFieldRead ⟨.glob off, 4⟩) s = .next (answered s [0])) ∧
    exec (.rcFieldRead ⟨.page p 0x2008, 4⟩) s = exec (.icuClaim p) s ∧
    (gregAt off.toNat = none → off.toNat % 4 = 0 → exec (.registerWrite (.glob off) (.word w)) s = .next (refused 2 off.toNat)) ∧
    (off.toNat % 4 ≠ 0 → exec (.registerWrite (.glob off) (.word w)) s = .next (refused 1 off.toNat)) ∧
    exec (.registerWrite (.glob off) .other) s = .next (refused 1 off.toNat) ∧
    exec (.registerWrite (.page p o) .other) s = .next s ∧
    (w.getLsbD 0 = true → write 4 = exec .glbLockSet s) ∧ write 0x4004 = exec (.dckFlatWrite w) s ∧
    writes 8 (let e := s.glb.wrerr &&& ~~~ w.setWidth 3; glb { s.glb with wrerr := e, wraddrValid := s.glb.wraddrValid && (s.glb.wrerr == 0 || e != 0) }) ∧
    (s.glb.lock = true → writes 0x2008 s) ∧
    (s.glb.lock = false → free → writes 0x2008 (change { s with sch := { s.sch with admCells := w.setWidth 19 } } 0x2008 (s.sch.admCells.setWidth 32) ((w.setWidth 19).setWidth 32))) ∧
    sets 0x1030 true (glb { s.glb with landoutWidth := w.setWidth 7 }) ∧
    sets 0x2004 false (sch { s.sch with admBrate := if s.glb.lock then s.sch.admBrate else w.setWidth 14, quantum := (w >>> 16).setWidth 16 }) ∧
    (w.getLsbD 7 = true → writes 0x5000 (pwr { s.pwr with holdRefused := false })) ∧ sets 0x5010 true (pwr { s.pwr with holdLimit := w.setWidth 16 }) ∧
    writes 0x5014 (pwr { s.pwr with sticky := s.pwr.sticky &&& ~~~ w.setWidth 5 }) ∧
    sets 0x5028 true (pwr { s.pwr with twarn := w.setWidth 8, tcrit := (w >>> 8).setWidth 8, thermAct := w.getLsbD 16 }) ∧
    (s.glb.lock = true → writes 0x8000 (ep { s.ep with idConflict := s.ep.idConflict && !w.getLsbD 9 })) ∧
    (s.glb.lock = false → sets 0x8000 true (ep { s.ep with idConflict := s.ep.idConflict && !w.getLsbD 9, selfId := w.setWidth 6, announce := w.getLsbD 8 })) ∧
    writes 0x8004 (ep { s.ep with sel := w.setWidth 14 }) ∧
    (unit 61 → sets 0x9000 true (ep { s.ep with idbSpeed := w.getLsbD 0 }) ∧
      (j.val < 8 → sets (0x9010 + 4 * j.val) true (ep { s.ep with makers := tPut s.ep.makers j (w &&& 0x803FFFFF) }))) ∧
    (¬ unit 61 → exec (.registerWrite (.glob 0x9000) (.word w)) s = .next s) ∧
    sets (0x20000 + 0x100 * a.val) false (modArb s a fun x => { x with starveLimit := w.setWidth 13 }) ∧
    (slotPresent a k = true → a.val < 36 →
      (w.getLsbD 29 = false → w.getLsbD 30 = false → sets (0x20010 + 0x100 * a.val + 4 * k.val) false
        (modArb s a fun x => { x with slots := tPut x.slots k { req with base := base, limit := limit } })) ∧
      (w.getLsbD 29 = true ∨ w.getLsbD 30 = true → base = req.base → limit = req.limit → writes (0x20010 + 0x100 * a.val + 4 * k.val)
        (modArb s a fun x => { x with slots := tPut x.slots k { req with starved := req.starved && !w.getLsbD 29, cutoff := req.cutoff && !w.getLsbD 30 } }))) ∧
    sets 0x30000 false (icu { s.icu with gdis := w.getLsbD 0 }) ∧ sets 0x30210 false (icu { s.icu with t33dis := w.getLsbD 1 }) ∧
    sets (0x30100 + 4 * j.val) false (icu { s.icu with group := tPut s.icu.group j { tGet s.icu.group j.val {} with holdoff := w.setWidth 16 } }) ∧
    (j.val < 4 → sets (0x30200 + 4 * j.val) false (icu { s.icu with hattn := tPut s.icu.hattn j (w &&& 0x8000003F) })) ∧
    sets (0x31000 + 4 * i.val) false (icu { s.icu with attr := tPut s.icu.attr i attr }) ∧
    writes 0x50000 { s with resetDone := s.resetDone &&& ~~~ w } ∧
    (unit (57 + m.val) →
      sets (0x20 + 0x10 * m.val) true (modBb s m fun _ => { bb with en := w.getLsbD 0, rate := (w >>> 1).setWidth 2, an := w.getLsbD 3, macsec := w.getLsbD 4
                                                                    link := bb.link && w.getLsbD 0
                                                                    speed := if bb.link && !w.getLsbD 3 then (w >>> 1).setWidth 2 else bb.speed
                                                                    cnt := if bb.link && !w.getLsbD 0 then bump bb.cnt 7 else bb.cnt }) ∧
      sets (0x24 + 0x10 * m.val) true (modBb s m fun _ => { bb with lat := w }) ∧
      sets (0x640C + 0x200 * m.val) false (modMac s m fun x => { x with tx := tUpd x.tx 0 {} sa }) ∧
      sets (0x6414 + 0x200 * m.val) false (modMac s m fun x => { x with tx := tUpd x.tx 1 {} sa }) ∧
      sets (0x6410 + 0x200 * m.val) false (modMac s m id) ∧
      ∀ c : Fin 4, sets (0x6448 + 0x200 * m.val + 0x20 * c.val) false (modMac s m fun x => { x with rx := tUpd x.rx (2 * c.val) {} sa }) ∧
        sets (0x644C + 0x200 * m.val + 0x20 * c.val) false (modMac s m fun x => { x with rx := tUpd x.rx (2 * c.val + 1) {} sa })) ∧
    (¬ unit (57 + m.val) → exec (.registerWrite (.glob (BitVec.ofNat 24 (0x20 + 0x10 * m.val))) (.word w)) s = .next s) ∧
    (unit (q.val / 4) → writes (0x100000 + 0x100 * q.val) (flags q)) ∧
    (q.val < 8 → ∀ c, c < 7 → sets (0x100020 + 0x100 * q.val + 4 * c) true (modPort s q fun y =>
      { y with wake := tPut y.wake c (w &&& (if c = 0 then 0x00FF1F1F else if c < 3 then 0x1FFFFFFF else 0xFFFFFFFF)) })) ∧
    local_ 0x2000 (put { tgt with priority := w.getLsbD 0, dis := w.getLsbD 1, thresh := (w >>> 8).setWidth 4 }) ∧
    local_ 0x2010 (put { tgt with psel := w.setWidth 10 }) ∧ (w.getLsbD 0 = true → local_ 0x2018 (put { tgt with eoiBad := false })) ∧
    (ownTarget s tgt.psel.toNat = some p.val → local_ 0x2014 (icu { s.icu with attr := tPut s.icu.attr tgt.psel.toNat pattr })) ∧
    (ownTarget s tgt.psel.toNat ≠ some p.val → local_ 0x2014 s) ∧
    (∀ f : MsixEntry → MsixEntry, ∀ c, (c = 0 ∧ f = (fun e => { e with addrLo := w }) ∨ c = 1 ∧ f = (fun e => { e with addrHi := w }) ∨
        c = 2 ∧ f = (fun e => { e with data := w }) ∨ c = 3 ∧ ¬ (entry.ctl.getLsbD 0 = true ∧ w.getLsbD 0 = false) ∧ f = fun e => { e with ctl := w &&& 1 }) →
      local_ (0x2800 + 16 * j.val + 4 * c) (put { tgt with msix := tPut tgt.msix j (f entry) })) ∧
    (entry.ctl.getLsbD 0 = true → w.getLsbD 0 = false →
      exec (.registerWrite (.page p (BitVec.ofNat 16 (0x280C + 16 * j.val))) (.word w)) s = exec (.msixVectorUnmask p j) s) ∧
    local_ 0x3020 (part { partOf s p with event := (partOf s p).event &&& ~~~ w.setWidth 7 }) ∧
    local_ 0x3024 (part { partOf s p with xsel := w.setWidth 7 }) ∧
    ((portOf s (partOf s p).xsel.toNat).owner = some p.val → local_ 0x3028 (flags (partOf s p).xsel.toNat)) ∧
    ((portOf s (partOf s p).xsel.toNat).owner ≠ some p.val → local_ 0x3028 s) ∧
    (∀ k, k < 64 → ∃ t, exec (.registerWrite (.page p (BitVec.ofNat 16 (4 * k))) (.word w)) s = .next t ∧ ∃ u, Concluded u t ∧ { u with mbx := s.mbx } = s ∧
      mbxOf u p = if (mbxOf s p).state = .pending ∨ (mbxOf s p).state = .busy then { mbxOf s p with wrIgnored := true }
        else { mbxOf s p with req := tPut (mbxOf s p).req k w })

/-! ## The backbone and the crossing protocol (13_bus_roles.md, 14_endpoints_and_identity.md, 17_security_and_logbook.md) -/

/-- R44, R406 to R410, R422, R492: the backbone ports: the link follows the PHY, and its losses are counted; a frame without a good FCS, or longer than the port accepts, is counted and dropped; a good one is counted, and is handed to the gPTP function or to the receive buffer of the crossing protocol, or is dropped and counted where it is for neither, or where MACsec does not let it in; a protected one validates under the association of its channel and moves the lowest acceptable packet number. A Sync at the slave port sets the rate correction, or leaves it to its Follow_Up, and ends an indicated loss, which begins when three Sync intervals have passed; a Pdelay_Req is answered with its two timestamps, in the form of IEEE 802.1AS, which is the model's choice (113). An ANNOUNCE tells a peer's version or a conflict of part numbers; peers that fall silent are forgotten; this part announces itself every 100 ms. What the rules leave open is taken as the assumption log says (64 to 66). -/
def Obligations.BackbonePorts : Prop :=
  ∀ (s : State) (n : Fin 2) (f : EthFrame) (up : Bool) (speed : BitVec 2) (g : GptpFrame) (gs : List GptpFrame) (rate : BitVec 32) (part : Fin 64) (versions : List Nat) (rest : List CrossingFrame) (peer : Peer)
      (tag : SecTag) (k : Nat) (sa : MacSa) (key data : List Byte), isRun s = true → domainOn s (57 + n.val) = true →
    let b := bbOf s n
    let bb (x : Backbone) : State := { s with bb := tPut s.bb n x }
    let received := exec (.backboneFrameReceived n f) s
    let counts (l : List Nat) : State := bb { b with cnt := l.foldl (fun c k => tPut c k (tGet c k 0 + 1)) b.cnt }
    let ours : Prop := f.dst = BitVec.ofNat 48 (0x024451000000 + s.ep.selfId.toNat) ∨ f.dst = BitVec.allOnes 48
    let handed (u : State) (etype : Nat) (l : List Byte) (v : State) : Prop :=
      (etype = 0x88F7 → ∃ x, v = modBb u n (fun y => { y with gptp := b.gptp ++ [x] }) ∧ x.domain = (l.getD 4 0).toNat ∧
        x.seq = BitVec.ofNat 16 (beNat ((l.drop 30).take 2)) ∧ x.sender = BitVec.ofNat 80 (beNat ((l.drop 20).take 10)) ∧
        x.stamp = s.tb.time + fieldOf b.lat 0 16 ∧ (x.kind = .followUp ↔ (l.getD 0 0).toNat % 16 = 8) ∧ (x.kind = .pdelayReq ↔ (l.getD 0 0).toNat % 16 = 2)) ∧
      (etype = 0x88B5 → ours → (crossingOf l = none → v = bumpEp u 3) ∧ ∀ x, crossingOf l = some x →
        v = if 65536 < rxHeld (linkOf s n) + frameBytes x then bumpEp u 3 else modLink u n fun y => { y with inbox := y.inbox ++ [x] }) ∧
      (etype ≠ 0x88F7 → ¬ (etype = 0x88B5 ∧ ours) → v = bumpBb u n 2)
    let tooLong : Prop := 1522 + (if b.macsec then 32 else 0) < 18 + (if f.vlan ≠ none then 4 else 0) + f.payload.length +
      (match f.tag with | some t => 6 + (if t.tci.getLsbD 3 then 8 else 0) + f.icv.length | none => 0)
    let sound : Prop := f.good = true ∧ ¬ tooLong
    let goes (u : State) (etype : Nat) (l : List Byte) : Prop := ∃ v t, received = .next t ∧ Concluded v t ∧ handed u etype l v
    let live : Prop := b.en = true ∧ b.link = true
    let mac := macOfPort s n
    let found : Prop := rxSa mac tag = some (k, sa) ∧ saKey s sa = some key
    let fits : Prop := found ∧ sa.pn.toNat ≤ tag.pn.toNat ∧ openFrame key f tag = some data
    let moved (l : List Nat) : State := { s with bb := (counts l).bb, sec := { s.sec with mac := tPut s.sec.mac n { mac with
      rx := tPut mac.rx k { sa with pn := BitVec.ofNat 32 (min (2 ^ 32 - 1) (max sa.pn.toNat (tag.pn.toNat + 1 - mac.replayWin.toNat))) } } } }
    let slave : Prop := s.tb.source = 2 ∧ s.tb.gptpPort = (n.val == 1) ∧ s.fw.running = true
    let clamp (r : BitVec 32) : BitVec 32 := BitVec.ofInt 32 (max (-200000) (min 200000 r.toInt))
    let left : State := bb { b with gptp := gs }
    let synced (iv : Nat) (r : BitVec 32) : State := { bb { b with gptp := gs, cnt := bump b.cnt 6 } with
      tb := { s.tb with rate := r, gptpSync := true, holdover := false, syncAt := s.tb.time, syncIv := iv } }
    let again (u : State) : State := if s.tb.holdover then raise u 661 else u
    let takes (u : State) : Prop := (∃ t', exec (.gptpFrameReceived n rate) s = .next t' ∧ Concluded u t')
    let gptpFrame (l : List Byte) : List Byte := beBytes 6 0x0180C200000E ++ beBytes 6 (0x024451000000 + s.ep.selfId.toNat) ++ [0x88, 0xF7] ++ l
    let stamp (x : Nat) : List Byte := beBytes 6 (x / 1000000000) ++ beBytes 4 (x % 1000000000) ++ beBytes 10 g.sender.toNat
    let self := s.ep.selfId.toNat
    let ticks := s.tb.time / 100000000
    let announcement := [BitVec.allOnes 8, BitVec.allOnes 8, BitVec.allOnes 8, BitVec.allOnes 8, BitVec.allOnes 8, BitVec.allOnes 8] ++
      beBytes 6 (0x024451000000 + s.ep.selfId.toNat) ++ [0x88, 0xB5] ++ leBytes 4 (0x0100 + 2 * 2 ^ 16) ++ leBytes 4 s.ep.selfId.toNat ++
      leBytes 4 0 ++ leBytes 4 0 ++ leBytes 4 0 ++ leBytes 4 0 ++ leBytes 4 2 ++ leBytes 2 0x0100 ++ leBytes 2 0x0200
    let link := linkOf s n
    (b.en = true → exec (.backboneLinkChange n up speed) s = .next (bb { b with link := up, speed := if b.an then speed else b.rate, cnt := if b.link && !up then tPut b.cnt 7 (tGet b.cnt 7 0 + 1) else b.cnt })) ∧
    (b.en = false → exec (.backboneLinkChange n up speed) s = .next s) ∧
    (live → ¬ sound → received = .next (counts [3])) ∧
    (live → sound → f.tag = none → b.macsec = false ∨ f.etype.toNat = 0x88F7 → goes (counts [0]) f.etype.toNat f.payload) ∧
    (live → sound → b.macsec = false → f.tag ≠ none → (∃ t', exec (.backboneFrameReceived n f) s = .next t' ∧ Concluded (counts [0, 2]) t')) ∧
    (live → sound → b.macsec = true → f.tag = none → f.etype.toNat ≠ 0x88F7 → (∃ t', exec (.backboneFrameReceived n f) s = .next t' ∧ Concluded (counts [0, 2]) t')) ∧
    (live → sound → b.macsec = true → f.tag = some tag →
      (rxSa mac tag = none ∨ (rxSa mac tag = some (k, sa) ∧ saKey s sa = none) ∨ (found ∧ (tag.pn.toNat < sa.pn.toNat ∨ openFrame key f tag = none)) → (∃ t', exec (.backboneFrameReceived n f) s = .next t' ∧ Concluded (counts [0, 4]) t')) ∧
      (fits → beNat (data.take 2) ≠ 0x8100 → goes (moved [0]) (beNat (data.take 2)) (data.drop 2)) ∧
      (fits → beNat (data.take 2) = 0x8100 → goes (moved [0]) (beNat ((data.drop 4).take 2)) (data.drop 6))) ∧
    (b.gptp = [] → exec (.gptpFrameReceived n rate) s = .next s) ∧
    (b.gptp = g :: gs →
      (∀ two iv, g.domain = 0 → g.kind = .sync two iv → slave → takes (again (synced iv (if two then s.tb.rate else clamp rate)))) ∧
      (g.domain = 0 → g.kind = .followUp → slave → s.tb.gptpSync = true → takes { left with tb := { s.tb with rate := clamp rate } }) ∧
      (g.kind = .followUp → s.tb.gptpSync = false → takes left) ∧ (g.domain ≠ 0 ∨ g.kind = .pdelayResp ∨ g.kind = .other → takes left) ∧
      (g.kind ≠ .pdelayReq → ¬ slave → takes left) ∧
      (g.domain = 0 → g.kind = .pdelayReq → ¬ live → takes left) ∧
      (g.domain = 0 → g.kind = .pdelayReq → live → takes { bb { b with gptp := gs, cnt := bump (bump b.cnt 1) 1 } with out := { s.out with frames := s.out.frames ++
        [(n.val, gptpFrame (pdelayBytes self n 0x3 0x02 g.seq (stamp g.stamp))),
         (n.val, gptpFrame (pdelayBytes self n 0xA 0x00 g.seq (stamp (s.tb.time + fieldOf b.lat 16 16))))] } })) ∧
    (s.tb.source = 2 → s.tb.holdover = false → s.tb.syncAt + 3 * s.tb.syncIv ≤ s.tb.time → (∃ t', exec .gptpSyncLoss s = .next t' ∧ Concluded (raise { s with tb := { s.tb with gptpSync := false, holdover := true, cnt := bump s.tb.cnt 4 } } 661) t')) ∧
    (s.tb.source ≠ 2 ∨ s.tb.holdover = true ∨ s.tb.time < s.tb.syncAt + 3 * s.tb.syncIv → exec .gptpSyncLoss s = .next s) ∧
    (link.inbox.head? ≠ some (.announce part versions) → exec (.announceReceived n part versions) s = .next s) ∧
    (link.inbox = .announce part versions :: rest → part.val = s.ep.selfId.toNat → ∃ u t, exec (.announceReceived n part versions) s = .next t ∧ Concluded u t ∧
      u.ep.idConflict = true ∧ linkOf u n = { link with inbox := rest } ∧ u.icu = (raise s 707).icu ∧ { u with ep := s.ep, icu := s.icu } = s) ∧
    (link.inbox = .announce part versions :: rest → part.val ≠ s.ep.selfId.toNat → ∃ t, exec (.announceReceived n part versions) s = .next t ∧ { t with ep := s.ep } = s ∧
      linkOf t n = { link with inbox := rest, peers := tPut link.peers part ⟨if 0x0200 ∈ versions then 0x0200 else if 0x0100 ∈ versions then 0x0100 else 0, s.tb.time⟩ }) ∧
    (tFind link.peers part = some peer → peer.seen + 350000000 ≤ s.tb.time → ∃ t, exec (.peerTimeout n part) s = .next t ∧ { t with ep := s.ep } = s ∧
      linkOf t n = { link with peers := tDel link.peers part }) ∧
    (tFind link.peers part = some peer → s.tb.time < peer.seen + 350000000 → exec (.peerTimeout n part) s = .next s) ∧
    (s.tb.time % 100000000 < 20 → ∃ u t, exec .announceTimer s = .next t ∧ Concluded u t ∧ (linkOf u n).announced = some ticks ∧
      (s.ep.announce = false → u.out.frames = s.out.frames) ∧
      (s.ep.announce = true → live → b.macsec = false → link.announced ≠ some ticks → (n.val, announcement) ∈ u.out.frames ∧
        tGet (bbOf u n).cnt 1 0 = tGet b.cnt 1 0 + 1)) ∧
    (20 ≤ s.tb.time % 100000000 → exec .announceTimer s = .next s)

/-- R252, R415 to R417, R419 to R422, R428, R429: the fragment at the head of the receive buffer is dropped if it is not for this part at the agreed version; a message of one fragment, of whatever length its cells allow, to a READY entry is committed whole to its queue, a port's with the word of `IDENT` or `BUS_ADDR`, and the first of several opens a message; a following one joins it, the last commits it, and one that does not fit, or comes more than 10 ms late, drops it, as such a gap itself does. The transmit path drops a message whose stamp is stale, whose peer has no version, or whose association has used up its packet numbers, and otherwise sends it fragment by fragment, freeing its cells at the last. The discovery sink decides its messages in order, and tells each decision. What the rules leave open is taken as the assumption log says (63, 67 and 68). -/
def Obligations.CrossingMessages : Prop :=
  ∀ (s : State) (n : Fin 2) (h : CrossingHeader) (payload : List (BitVec 8)) (coming : List CrossingFrame) (q : Queue) (a : Assembly) (m : Message) (rest : List Message) (y : Queue)
      (pkt : Packet) (b : Building) (qn : Nat), isRun s = true → Machine.memWf s.deck.mem = true →
    let live : Prop := domainOn s (57 + n.val) = true ∧ (bbOf s n).en = true ∧ (bbOf s n).link = true
    let on : Prop := domainOn s (57 + n.val) = true
    let link := linkOf s n
    let stands : Prop := on ∧ link.inbox = .data h payload :: coming
    let taken := modLink s n fun x => { x with inbox := coming }
    let agreed (p : Nat) : Nat := ((tFind link.peers p).map (·.version.toNat)).getD 0
    let good : Prop := agreed h.srcPart ≠ 0 ∧ h.version.toNat = agreed h.srcPart ∧ h.dstPart.val = s.ep.selfId.toNat ∧ h.reserved = false
    let e := epOf s h.dstEid.toNat
    let agent : Agent := .rx n h.srcPart
    let arrives := exec (.crossingFragmentReceived n h payload) s
    let dropped (k : Nat) : State := { taken with ep := { taken.ep with cnt := tPut s.ep.cnt k (tGet s.ep.cnt k 0 + 1) } }
    let after (qn k : Nat) : State := (List.range k).foldl (fun w _ => match cellFor w agent qn with | some c => grantCell w agent qn c | none => w) s
    let room (qn k : Nat) (old : List Nat) : Prop := s.deck.stalls = [] ∧ ∀ i, i < k → ∃ c, cellFor (after qn i) agent qn = some c ∧ c ∉ old ∧
      ∀ j, j < i → cellFor (after qn j) agent qn ≠ some c
    let onPort : Prop := e.port ≠ 127
    let named : Prop := if e.port = 127 then qn = fieldOf (e.busAddr.setWidth 32) 0 13 else (portOf s e.port.toNat).txq ≠ 0x1FFF ∧ qn = (portOf s e.port.toNat).txq.toNat
    let deck : Prop := queueOf s qn = some q ∧ q.building = [] ∧ q.waiting = [] ∧ room qn ((payload.length + 63) / 64) []
    let word : Word := if h.ident = BitVec.allOnes 32 then e.busAddr.setWidth 32 else h.ident &&& 0x7FFFFFFF
    let worded (w : Word) (l : List Byte) : List Byte := (leBytes 4 w.toNat).take l.length ++ l.drop 4
    let fresh : Prop := stands ∧ good ∧ tFind link.rx h.srcPart = none ∧ h.first = true ∧ h.fragOff = 0 ∧ h.dstEid ≠ 0x3FFF ∧
      e.state = .ready ∧ e.kind = 1 ∧ 0 < payload.length ∧ named ∧ deck
    let follows : Prop := stands ∧ good ∧ tFind link.rx h.srcPart = some a ∧ h.first = false
    let grown := packetBytes s.deck.mem b.pkt ++ payload
    let under : Prop := queueOf s a.queue = some q ∧ buildingOf q agent = some b ∧ 0 < b.pkt.len ∧ b.rewound = false ∧ b.pkt.cells.Nodup ∧
      b.pkt.cells.length = (b.pkt.len + 63) / 64 ∧ q.waiting = [] ∧ s.deck.stalls = []
    let spacious : Prop := room a.queue ((b.pkt.len + payload.length + 63) / 64 - b.pkt.cells.length) b.pkt.cells
    let ends : Prop := h.msgLen ≠ 0 ∧ h.fragOff.toNat + payload.length = h.msgLen.toNat
    let suits : Prop := h.seq = a.seq ∧ h.fragOff.toNat = b.pkt.len ∧ (h.last = true → ends)
    let inTime : Prop := (s.tb.time : Int) ≤ a.last + 10000000
    let part := m.part.toNat
    let v := if m.sent = 0 then agreed part else m.version.toNat
    let chunk := (m.bytes.drop m.sent).take 1476
    let last : Bool := decide (m.bytes.length ≤ m.sent + chunk.length)
    let path : Prop := link.path = m :: rest ∧ queueOf s (8192 + n.val) = some y ∧ y.packets.head? = some pkt
    let clean : Prop := ∀ c, c ∈ pkt.cells → c ∉ s.deck.bad ∧ c ∉ s.deck.quar
    let frame := beBytes 6 (0x024451000000 + part) ++ beBytes 6 (0x024451000000 + s.ep.selfId.toNat) ++ [0x88, 0xB5] ++
      leBytes 4 (v + 2 ^ 16 + (if m.sent = 0 then 2 ^ 24 else 0) + (if last then 2 ^ 25 else 0)) ++
      leBytes 4 (s.ep.selfId.toNat + part * 2 ^ 8 + link.seq.toNat * 2 ^ 16) ++ leBytes 4 m.remote.toNat ++
      leBytes 4 (m.bytes.length + m.sent * 2 ^ 16) ++ leBytes 4 m.ident.toNat ++ leBytes 4 0 ++ chunk
    let sends := exec (.crossingFragmentSent n) s
    let gone (u : State) : Prop := (linkOf u n).path = rest ∧ (∀ c, c ∈ pkt.cells → c / 32 ∉ tGet u.deck.taken (c % 32) []) ∧
      (queueOf u (8192 + n.val)).map (·.packets) = some y.packets.tail
    let open_ : Prop := m.sent = 0 → (epOf s m.eid).number = m.stamp
    let shut : Prop := v = 0 ∨ v = 0x0100 ∧ 1476 < m.bytes.length ∨ ¬ live
    let spent : Prop := live ∧ (bbOf s n).macsec = true ∧ (∃ key, saKey s (txSa (macOfPort s n)) = some key) ∧ (txSa (macOfPort s n)).pn = BitVec.allOnes 32
    let se := epOf s m.eid
    let record := (m.bytes.drop 64).take (fieldOf (wordAt m.bytes 1) 16 12)
    let odd : Prop := m.eid = 0x3FFF ∨ se.state ≠ .pending ∨ fieldOf (wordAt m.bytes 6) 16 16 ≠ (portOf s se.port.toNat).number.toNat
    let told (u : State) (reason : Nat) : Prop := s.log.next < s.log.mark + 3840 →
      ∃ l, u.log = (logNormal s { kind := 0x0E, object := m.eid + reason * 2 ^ 24, body := l, detail := l, details := 1 }).log
    (stands → ¬ good → (∃ t', exec (.crossingFragmentReceived n h payload) s = .next t' ∧ Concluded (dropped 3) t')) ∧
    (¬ on ∨ link.inbox.head? ≠ some (.data h payload) → arrives = .next s) ∧
    (fresh → h.last = true → h.msgLen.toNat = payload.length →
      ∃ u t z k, arrives = .next t ∧ Concluded u t ∧ queueOf u qn = some z ∧ z.packets = q.packets ++ [k] ∧
        z.building = [] ∧ (¬ onPort → packetBytes u.deck.mem k = payload) ∧ (onPort → packetBytes u.deck.mem k = worded word payload) ∧
        tGet u.ep.cnt 1 0 = tGet s.ep.cnt 1 0 + 1 ∧ tFind (linkOf u n).rx h.srcPart = none) ∧
    (fresh → h.last = false →
      ∃ u t z y x, arrives = .next t ∧ Concluded u t ∧ queueOf u qn = some z ∧ z.packets = q.packets ∧
        buildingOf z agent = some y ∧ packetBytes u.deck.mem y.pkt = payload ∧ tFind (linkOf u n).rx h.srcPart = some x ∧ x.seq = h.seq ∧
        x.eid = h.dstEid.toNat ∧ x.stamp = e.number ∧ x.owner = e.owner.toNat ∧ x.queue = qn ∧ (x.onPort = true ↔ onPort) ∧ x.word = word ∧
        x.last = s.tb.time ∧ x.complete = false) ∧
    (follows → under → spacious → inTime → suits → h.last = true →
      ∃ u t z k, arrives = .next t ∧ Concluded u t ∧ queueOf u a.queue = some z ∧ z.packets = q.packets ++ [k] ∧ buildingOf z agent = none ∧
        packetBytes u.deck.mem k = (if a.onPort then worded a.word grown else grown) ∧
        tGet u.ep.cnt 1 0 = tGet s.ep.cnt 1 0 + 1 ∧ tFind (linkOf u n).rx h.srcPart = none) ∧
    (follows → under → spacious → inTime → suits → h.last = false →
      ∃ u t z y, arrives = .next t ∧ Concluded u t ∧ queueOf u a.queue = some z ∧ z.packets = q.packets ∧ buildingOf z agent = some y ∧
        packetBytes u.deck.mem y.pkt = grown ∧ u.ep.cnt = s.ep.cnt ∧
        tFind (linkOf u n).rx h.srcPart = some { a with left := [], complete := false, last := s.tb.time }) ∧
    (follows → under → ¬ inTime ∨ ¬ suits →
      ∃ u t z, arrives = .next t ∧ Concluded u t ∧ queueOf u a.queue = some z ∧ z.packets = q.packets ∧ z.cnt = bump q.cnt 3 ∧ buildingOf z agent = none ∧
        (∀ c, c ∈ b.pkt.cells → c / 32 ∉ tGet u.deck.taken (c % 32) []) ∧ tFind (linkOf u n).rx h.srcPart = none ∧
        tGet u.ep.cnt 3 0 = tGet s.ep.cnt 3 0 + (if s.tb.time ≤ a.last + 10000000 then 1 else 2)) ∧
    (stands → good → tFind link.rx h.srcPart = none → s.deck.stalls = [] →
      h.first = false ∨ h.dstEid = 0x3FFF ∨ e.state ≠ .ready ∨ e.kind ≠ 1 ∨ (onPort ∧ (portOf s e.port.toNat).txq = 0x1FFF) →
      (∃ t', exec (.crossingFragmentReceived n h payload) s = .next t' ∧ Concluded (dropped 3) t')) ∧
    (tFind link.rx h.srcPart = some a → a.complete = false → link.frames = [] →
      (a.last + 10000000 < s.tb.time → ∃ u t, exec (.fragmentGapTimeout n h.srcPart) s = .next t ∧ Concluded u t ∧ tFind (linkOf u n).rx h.srcPart = none ∧
        tGet u.ep.cnt 3 0 = tGet s.ep.cnt 3 0 + 1 ∧ ∀ k z, queueOf u k = some z → k < 8192 → buildingOf z agent = none) ∧
      (s.tb.time ≤ a.last + 10000000 → exec (.fragmentGapTimeout n h.srcPart) s = .next s)) ∧
    (link.path = [] → sends = .next s) ∧
    (path → m.sent = 0 → (epOf s m.eid).number ≠ m.stamp → ∃ u t, sends = .next t ∧ Concluded u t ∧ gone u ∧ u.out = s.out ∧
      tGet u.ep.cnt 4 0 = tGet s.ep.cnt 4 0 + 1 ∧ tGet (partOf u m.sender).cnt 0 0 = tGet (partOf s m.sender).cnt 0 0 + 1) ∧
    (path → open_ → shut → m.sent = 0 ∨ ¬ live → clean → ∃ u t, sends = .next t ∧ Concluded u t ∧ gone u ∧ u.out = s.out ∧ tGet u.ep.cnt 2 0 = tGet s.ep.cnt 2 0 + 1) ∧
    (path → open_ → spent → clean → ∃ u t, sends = .next t ∧ Concluded u t ∧ gone u ∧ u.out = s.out ∧ tGet u.ep.cnt 2 0 = tGet s.ep.cnt 2 0 + 1 ∧
      tGet (bbOf u n).cnt 5 0 = tGet (bbOf s n).cnt 5 0 + 1) ∧
    (path → open_ → (m.sent = 0 → ¬ shut) → live → (bbOf s n).macsec = false → clean →
      (last = true → ∃ u t, sends = .next t ∧ Concluded u t ∧ gone u ∧ u.out = { s.out with frames := s.out.frames ++ [(n.val, frame)] } ∧
        (linkOf u n).seq = link.seq + 1 ∧ tGet u.ep.cnt 0 0 = tGet s.ep.cnt 0 0 + 1) ∧
      (last = false → ∃ u t, sends = .next t ∧ Concluded u t ∧ u.deck = s.deck ∧ u.out = { s.out with frames := s.out.frames ++ [(n.val, frame)] } ∧
        (linkOf u n).path = { m with sent := m.sent + chunk.length, version := BitVec.ofNat 16 v } :: rest)) ∧
    (s.ep.sink = [] → exec .sinkDecision s = .next s) ∧
    (s.ep.sink = m :: rest → m.eid ≠ 0x3FFF → se.number ≠ m.stamp → (∃ t', exec .sinkDecision s = .next t' ∧ Concluded { s with ep := { s.ep with sink := rest } } t')) ∧
    (s.ep.sink = m :: rest → m.eid = 0x3FFF ∨ se.number = m.stamp →
      (odd ∨ idReason { s with ep := { s.ep with sink := rest } } true record ≠ 0 → ∃ u t r, exec .sinkDecision s = .next t ∧ Concluded u t ∧ u.ep.sink = rest ∧
        tGet u.ep.cnt 5 0 = tGet s.ep.cnt 5 0 + 1 ∧ u.ep.dir = s.ep.dir ∧ told u r ∧ (¬ odd → r = idReason { s with ep := { s.ep with sink := rest } } true record)) ∧
      (¬ odd → idReason { s with ep := { s.ep with sink := rest } } true record = 0 → ∃ u t, exec .sinkDecision s = .next t ∧ Concluded u t ∧ u.ep.sink = rest ∧
        (epOf u m.eid).proven = true ∧ told u 0 ∧ (se.busAddr ≠ 0 → (epOf u m.eid).neg = BitVec.ofNat 16 (idAgreed record) ∧
          ((portOf s se.port.toNat).owner = some se.owner.toNat → (epOf u m.eid).state = .ready ∧ (epOf u m.eid).number = se.number + 1))))

/-! ## Port hardware (12_port_hardware.md, 13_bus_roles.md) -/

/-- R253, R311, R361 to R364, R367 to R371, R373, R379, R380, R386, R390, R392 to R394, R397, R398, R400, R404: what a port's hardware does by itself. The pins: what each drives with its domain off or its supply out of range, its engine failed, in the safe hold, and as the source of its FUNC, with DRV and OINV: `PIN_OUT`, TXD and the data phase of a CAN XL frame, a shift unit's data and select, a timer's level. The timestamp of a capture is device time less 25 ns and the filter's length. With the domain off, or the block not running, none of these rows does anything. A match and a wrap that have come due; a changed level at a ball, with the counts that channels in CAPTURE catch of it, its timestamp, and one that finds the detector full. A shift unit's word, sent, received, both, or neither: the bits that the samples of its input pin give, what shifts next, the end of the frame, the stalls, the word lost for want of room, and the bits that make a word; its event is pending while a cause holds. The bus: a frame received with the record it makes, one lost for want of room, one that failed its checks, one ignored; the choice of the frame that is sent, the frame that begins, is sent, loses, fails, or goes unacknowledged, with the counters that ISO 11898-1 gives each, which is the model's choice (32); beacons and opportunities of PLCA, whose encoding in the record of 10BASE-T1S is the model's choice (112); the recovery from bus-off. What the rules leave open is taken as the assumption log says (18, 31 to 33, 109 to 112). -/
def Obligations.PortHardware : Prop :=
  ∀ (s : State) (p : Fin 96) (c : Fin 4) (k : Fin 6) (u : Fin 2) (level active : Bool) (line : ShiftLine) (stops : List (List Bool)) (f : BusFrame)
      (how : SendResult),
    let q := portOf s p
    let pin := tGet q.pins k {}
    let supplied : Prop := domainOn s (p.val / 4) = true ∧ tGet s.pwr.vddio (p.val / 4) .out ≠ .out
    let levelOf (z : BitVec 2) : Option Bool := if z = 1 then some false else if z = 2 then some true else none
    let func := fieldOf pin.cfg 0 4
    let drives (l : List Bool) : Prop := pinDrive s p k = l.map fun b =>
      let out := b != pin.cfg.getLsbD 11
      if fieldOf pin.cfg 4 2 = 1 then some out else if fieldOf pin.cfg 4 2 = 2 ∧ out = false then some false else none
    let channel := timerOf q (fieldOf pin.cfg 16 2)
    let unit := shiftOf q (if func < 5 then 0 else 1)
    let sel := fieldOf pin.cfg 18 2
    let busMode := if 4 < fieldOf q.bc.cfg 0 3 then 0 else fieldOf q.bc.cfg 0 3
    let stamp (cfg : Word) : Nat := 25 + (if fieldOf cfg 13 2 = 0 then 0 else if fieldOf cfg 13 2 = 1 then 25 else if fieldOf cfg 13 2 = 2 then 100 else 400)
    (∀ cfg : Word, stamp cfg ≤ s.tb.time → captureTime s cfg = BitVec.ofNat 64 (s.tb.time - stamp cfg)) ∧
    (¬ supplied → pinDrive s p k = [none]) ∧
    (supplied → q.eng.state = .failed → pinDrive s p k = [levelOf (imageSafe q k)]) ∧
    (supplied → q.eng.state ≠ .failed → (∀ z, pin.hold = some z → pinDrive s p k = [levelOf z]) ∧
      (pin.hold = none → (func = 0 → drives [q.pinOut.getLsbD k]) ∧
        (func = 1 → (sel = 0 → (∀ y ∈ q.bc.tx, y.onWire = false) → drives [true]) ∧
          (sel = 1 → drives [q.bc.cfg.getLsbD 8 && busMode == 3 && q.bc.xlData]) ∧ (2 ≤ sel → drives [false])) ∧
        (func = 2 ∨ func = 5 → (unit.sr = none → drives [if unit.stall ∧ fieldOf unit.cfg 2 2 = 0 then unit.lastBit else unit.cfg.getLsbD 15]) ∧
          (∀ w l, shiftDir unit = 1 ∨ shiftDir unit = 3 → unit.sr = some (w, l) →
            let bits := fieldOf unit.cfg 5 5 + 1
            let bit (i : Nat) : Bool := w.getLsbD (if unit.cfg.getLsbD 4 then bits - 1 - i else i)
            (fieldOf unit.cfg 2 2 = 0 → drives ((List.range bits).flatMap fun i => [bit i, bit i])) ∧
            (fieldOf unit.cfg 2 2 = 1 → drives ((List.range bits).flatMap fun i => [!bit i, bit i])) ∧
            (fieldOf unit.cfg 2 2 = 2 → drives ([false, false] ++ ((List.range bits).flatMap fun i => [bit i, bit i]) ++
              List.replicate (if unit.cfg.getLsbD 29 then 4 else 2) true)))) ∧
        (func = 3 ∨ func = 6 → unit.sr = none → drives [unit.cfg.getLsbD 13]) ∧
        (func = 4 ∨ func = 7 → drives [!(unit.cfg.getLsbD 22 && unit.isOpen)]) ∧
        (func = 8 → drives [if timerMode channel = 0 then channel.toggle else if timerMode channel = 1 then decide (channel.cnt.toNat < channel.cmp.toNat)
          else if timerMode channel = 2 then false else channel.ctl.getLsbD 0]) ∧
        (9 ≤ func → pinDrive s p k = [none]))) ∧
    (isRun s = false ∨ domainOn s (p.val / 4) = false →
      exec (.timerMatch p c) s = .next s ∧ exec (.timerWrap p c) s = .next s ∧ exec (.timerCapture p c) s = .next s ∧
      exec (.edgeCapture p k level) s = .next s ∧ exec (.shiftWordComplete p u line stops) s = .next s ∧ exec (.busFrameReceived p f) s = .next s ∧
      exec (.busFrameSent p how) s = .next s ∧ exec (.busOffRecovery p) s = .next s ∧ exec (.plcaStatusChange p active) s = .next s) ∧
    (isRun s = true → domainOn s (p.val / 4) = true →
      let port (y : Port) : State := { s with port := tPut s.port p y }
      let pend (y : Port) (e : Nat) : Port := { y with evPend := y.evPend ||| (1 <<< e) }
      let count (y : Port) (j : Nat) : Port := { y with cnt := bump y.cnt j }
      let others (t : State) : Prop := { t with port := s.port } = s ∧ ∀ r : Nat, r ≠ p.val → portOf t r = portOf s r
      let x := timerOf q c
      let timer (y : Timer) : Port := { q with timers := tPut q.timers c y }
      let ball : Port := { q with pins := tPut q.pins k { pin with ball := level } }
      let high := level != pin.cfg.getLsbD 12
      let changed : Prop := pinLevel q k ≠ high
      let catches (y : Timer) : Prop := timerMode y = 2 ∧ fieldOf y.ctl 8 3 = k.val ∧ y.ctl.getLsbD (if high then 11 else 12) = true
      let chosen : Prop := q.edgeCfg.getLsbD (if high then k.val else 8 + k.val) = true
      let e := edgeOf q k
      let ts := captureTime s pin.cfg
      let edge (y : Edge) : Port := { ball with edges := tPut q.edges k y }
      let edged (y : Port) : Prop := ∃ t, exec (.edgeCapture p k level) s = .next t ∧ others t ∧ { portOf t p with timers := q.timers } = y ∧
        ∀ j : Fin 4, (catches (timerOf q j) → timerOf (portOf t p) j = { timerOf q j with caught := some (timerOf q j).cnt }) ∧
          (¬ catches (timerOf q j) → timerOf (portOf t p) j = timerOf q j)
      let z := shiftOf q u
      let outside : Bool := fieldOf z.cfg 2 2 = 0 && z.cfg.getLsbD 12
      let din := fieldOf z.cfg 16 3
      let clocked : Prop := outside = true → fieldOf z.cfg 19 3 < 6
      let seen (l : List Bool) : List Bool := if din < 6 then l.map (· != (tGet q.pins din {}).cfg.getLsbD 12) else []
      let samples := if outside then 1 else [1, 3, 8, 16].getD (fieldOf z.cfg 10 2) 1
      let heard := (line.received.getD []).map seen
      let three (l : List Bool) (j : Nat) : Bool := decide (2 ≤ ((l.drop j).take 3).count true)
      let odd := (samples - 3) / 2
      let free : Word := freeOf s
      let bits := fieldOf z.cfg 5 5 + 1
      let stated := receivedBits z heard
      let word := lineWord z free stated
      let coupled : Prop := fieldOf z.cfg 2 2 = 0 ∧ z.cfg.getLsbD 12 = false
      let bad := z.ferr || framingBad z heard (stops.map seen)
      let takes : Shift := if z.rx.length < 8 then { z with ferr := bad, rx := z.rx ++ [word] } else { z with ferr := bad, rxovr := true }
      let sends (y : Shift) (w : Word) (last : Bool) : Shift :=
        let y : Shift := { y with lastBit := (shiftBits z w).getLastD false }
        match if shiftDir z = 3 ∧ y.done.isSome = true then [] else y.tx with
        | a :: l => { y with sr := some a, tx := l, isOpen := true, stall := y.done.isSome }
        | [] => { y with sr := none, isOpen := y.isOpen && !last, stall := y.stall || (y.isOpen && !last) }
      let shifted (lost : Bool) (y : Shift) : Prop := ∃ t, exec (.shiftWordComplete p u line stops) s = .next t ∧ others { t with freeCtr := s.freeCtr } ∧
        portOf t p = { q with shifts := tPut q.shifts u y, cnt := if lost then bump q.cnt 3 else q.cnt, evPend := if shiftCause y then q.evPend ||| (1 <<< (10 + u.val)) else q.evPend }
      let full := decide (8 ≤ z.rx.length)
      let b := q.bc
      let busOnly (t : State) : Prop := others t ∧ { portOf t p with bc := b, evPend := q.evPend, cnt := q.cnt } = q
      let only (i : Instr) (y : BusCtl) : Prop := ∃ v t, exec i s = .next t ∧ Concluded v t ∧ busOnly v ∧ (portOf v p).bc = y ∧
        (portOf v p).evPend = q.evPend ∧ (portOf v p).cnt = q.cnt
      let mode := if 4 < fieldOf b.cfg 0 3 then 0 else fieldOf b.cfg 0 3
      let onBus : Prop := busOn q = true ∧ b.errState.toNat < 2
      let level2 (y : BusCtl) : BitVec 2 := if mode = 4 then b.errState else if 256 ≤ y.tec.toNat then 2 else if 128 ≤ y.tec.toNat ∨ 128 ≤ y.recv.toNat then 1 else 0
      let raised (t : State) (n : Nat) : Prop := (portOf t p).bc.evt.getLsbD n = true ∧ (b.even.getLsbD n = true → (portOf t p).evPend.getLsbD 12 = true)
      let counted (t : State) (n : Nat) : Prop := tGet (portOf t p).cnt n 0 = tGet q.cnt n 0 + 1
      let record := busRecord s p f
      let part (j : Nat) : Nat := leNat ((record.drop (4 * j)).take 4)
      let hears (good : Bool) (y : State → Prop) : Prop := ∃ v t, exec (.busFrameReceived p f) s = .next t ∧ Concluded v t ∧ busOnly v ∧
        { (portOf v p).bc with rx := b.rx, recv := b.recv, errState := b.errState, evt := b.evt, busy := b.busy, xlData := b.xlData } = b ∧
        (portOf v p).bc.busy = false ∧ (portOf v p).bc.xlData = false ∧ (portOf v p).bc.errState = level2 (portOf v p).bc ∧
        (portOf v p).bc.recv = (if mode = 4 ∨ b.cfg.getLsbD 3 = true then b.recv
          else if good then (if 128 ≤ b.recv.toNat then 127 else if b.recv = 0 then 0 else b.recv - 1)
          else BitVec.ofNat 8 (min 255 (b.recv.toNat + 1 + 8 * f.eights))) ∧ y v
      let fits := modeCarries mode (fieldOf (f.head.getD 1 0) 0 3)
      let ready (y : TxFrame) : Prop := y.held = none ∧ modeCarries mode (frameFmt y) = true
      let plca : Prop := mode = 4 ∧ b.plca.getLsbD 0 = true ∧ b.plcaActive = true
      let node := fieldOf b.plca 8 8
      let may : Prop := b.cfg.getLsbD 3 = false ∧ b.busy = false ∧ (∀ y ∈ b.tx, y.onWire = false) ∧
        (plca → b.turn = node ∧ b.burst ≤ fieldOf b.plca 24 4)
      let mine : Prop := ∃ y, y ∈ b.tx ∧ y.onWire = true
      let rest := b.tx.filter fun y => !y.onWire
      let again := b.tx.map fun y => { y with onWire := false }
      let oneShot := b.cfg.getLsbD 6
      let ends (r : SendResult) (y : State → Prop) : Prop := ∃ v t, exec (.busFrameSent p r) s = .next t ∧ Concluded v t ∧ busOnly v ∧
        { (portOf v p).bc with tx := b.tx, tec := b.tec, errState := b.errState, evt := b.evt, busy := b.busy, xlData := b.xlData } = b ∧
        (portOf v p).bc.xlData = false ∧ y v
      let failed (r : SendResult) (tec : BitVec 9) : Prop := ends r fun v => (portOf v p).bc.tx = (if oneShot then rest else again) ∧ (portOf v p).bc.busy = b.busy ∧
        counted v 12 ∧ (portOf v p).bc.errState = level2 (portOf v p).bc ∧ (portOf v p).bc.tec = tec ∧ (oneShot = true → raised v 2)
      let upBy (m : Nat) : BitVec 9 := if mode = 4 then b.tec else BitVec.ofNat 9 (min 511 (b.tec.toNat + 8 * m))
      (0 < x.hits → exec (.timerMatch p c) s = .next (port (
        let y := timer { x with hits := x.hits - 1 }
        if timerMode x = 1 ∧ x.ctl.getLsbD 6 then y else pend y c))) ∧
      (x.hits = 0 → exec (.timerMatch p c) s = .next s) ∧
      (0 < x.wraps → exec (.timerWrap p c) s = .next (port (
        let y := timer { x with wraps := x.wraps - 1 }
        if x.ctl.getLsbD 6 then pend y c else y))) ∧
      (x.wraps = 0 → exec (.timerWrap p c) s = .next s) ∧
      (∀ n, x.caught = some n → exec (.timerCapture p c) s = .next (port (pend (timer { x with aux := n, caught := none }) c))) ∧
      (x.caught = none → exec (.timerCapture p c) s = .next s) ∧
      (¬ changed → exec (.edgeCapture p k level) s = .next (port ball)) ∧
      (changed →
        (¬ chosen → edged ball) ∧
        (chosen → e.full = false → edged (pend (edge { e with ts := ts, full := true }) (4 + k.val))) ∧
        (chosen → e.full = true → q.edgeCfg.getLsbD (16 + k.val) = false → edged (count (edge { e with ovr := true }) 2)) ∧
        (chosen → e.full = true → q.edgeCfg.getLsbD (16 + k.val) = true → edged (pend (count (edge { e with ovr := true, ts := ts }) 2) (4 + k.val)))) ∧
      (∀ i < bits, let j := if z.cfg.getLsbD 4 then bits - 1 - i else i; word.getLsbD i = (stated.getD j none).getD (free.getLsbD j)) ∧
      (∀ i < bits, let l := (heard.getD i []).take samples
        (fieldOf z.cfg 2 2 = 1 → ∀ one two, heard.getD i [] = [one, two] → stated.getD i none = if one = two then none else some two) ∧
        (fieldOf z.cfg 2 2 ≠ 1 → l.length < samples → stated.getD i none = none) ∧
        (fieldOf z.cfg 2 2 ≠ 1 → l.length = samples →
          (samples = 1 → stated.getD i none = l.head?) ∧ (samples = 3 → stated.getD i none = some (three l 0)) ∧
          (3 < samples → three l odd = three l (odd + 1) → stated.getD i none = some (three l odd)))) ∧
      (bad = true ↔ z.ferr = true ∨ fieldOf z.cfg 2 2 = 1 ∧ (∃ i < bits, stated.getD i none = none) ∨
        fieldOf z.cfg 2 2 = 2 ∧ ∃ l ∈ (stops.map seen).take (if z.cfg.getLsbD 29 then 2 else 1), samples ≤ l.length ∧
          (samples = 1 ∧ l.head? = some false ∨ samples ≠ 1 ∧ three (l.take samples) odd = false ∧ three (l.take samples) ((samples - 2) / 2) = false)) ∧
      (q.eng.state = .failed ∨ ¬ clocked → exec (.shiftWordComplete p u line stops) s = .next s) ∧
      (q.eng.state ≠ .failed → clocked →
        (shiftDir z = 0 → exec (.shiftWordComplete p u line stops) s = .next s) ∧
        (shiftDir z = 1 → (∀ w last, z.sr = some (w, last) → shifted false (sends z w last)) ∧
          (z.sr = none → exec (.shiftWordComplete p u line stops) s = .next s)) ∧
        (shiftDir z = 2 → ¬ coupled → line.received.isSome = true → shifted full takes) ∧
        (shiftDir z = 2 → coupled ∨ line.received = none → exec (.shiftWordComplete p u line stops) s = .next s) ∧
        (shiftDir z = 3 → coupled →
          (∀ w last, z.sr = some (w, last) → z.done = none → z.rx.length < 8 → shifted false (sends takes w last)) ∧
          (∀ w last, z.sr = some (w, last) → z.done = none → 8 ≤ z.rx.length →
            shifted false { z with ferr := bad, done := some word, stall := true, sr := none, lastBit := (shiftBits z w).getLastD false, isOpen := z.isOpen && !last }) ∧
          (z.sr = none ∨ z.done.isSome = true → exec (.shiftWordComplete p u line stops) s = .next s)) ∧
        (shiftDir z = 3 → ¬ coupled →
          (∀ w last, z.sr = some (w, last) → line.sent = true → line.received = none → shifted false (sends z w last)) ∧
          (∀ w last, z.sr = some (w, last) → line.sent = true → line.received.isSome = true → shifted full (sends takes w last)) ∧
          (line.sent = false ∨ z.sr = none → line.received.isSome = true → shifted full takes) ∧
          (line.sent = false ∨ z.sr = none → line.received = none → exec (.shiftWordComplete p u line stops) s = .next s))) ∧
      (record.length = 64 + f.data.length ∧ record.drop 64 = f.data ∧
        part 0 = ((f.head.getD 0 0) &&& 0x7FFFFFFF).toNat ∧ part 1 % 2 ^ 16 = ((f.head.getD 1 0) &&& 0xFF3F).toNat ∧ part 1 / 2 ^ 16 = f.data.length % 2 ^ 12 ∧
        part 2 = ((f.head.getD 2 0) &&& 0xFF).toNat ∧ part 3 = (f.head.getD 3 0).toNat ∧
        leNat ((record.drop 16).take 8) = (captureTime s (tGet q.pins 1 {}).cfg - f.age.setWidth 64).toNat ∧ part 6 = p.val + q.number.toNat * 2 ^ 16 ∧
        ∀ j, 7 ≤ j → j < 16 → part j = 0) ∧
      (¬ onBus → exec (.busFrameReceived p f) s = .next s ∧ exec (.busFrameSent p how) s = .next s) ∧
      (onBus →
        (f.good = true → fits = true → rxBytes b + record.length ≤ 4096 →
          hears true (fun v => (portOf v p).bc.rx = b.rx ++ [record] ∧ raised v 0)) ∧
        (f.good = true → fits = true → 4096 < rxBytes b + record.length →
          hears true (fun v => (portOf v p).bc.rx = b.rx ∧ raised v 4 ∧ counted v 10)) ∧
        (f.good = false ∨ (fits = false ∧ b.cfg.getLsbD 7 = false) → hears false (fun v => (portOf v p).bc.rx = b.rx ∧ counted v 11)) ∧
        (f.good = true → fits = false → b.cfg.getLsbD 7 = true → only (.busFrameReceived p f) { b with busy := false, xlData := false }) ∧
        (nextFrame b = none → ∀ y ∈ b.tx, ¬ ready y) ∧
        (∀ n, nextFrame b = some n → ∃ y, b.tx[n]? = some y ∧ ready y ∧ ∀ (j : Nat) (y' : TxFrame), b.tx[j]? = some y' → ready y' →
          (b.cfg.getLsbD 4 = false → n ≤ j) ∧ (b.cfg.getLsbD 4 = true → b.tx.length ≤ 4096 → arbKey y < arbKey y' ∨ (arbKey y = arbKey y' ∧ n ≤ j))) ∧
        (¬ may ∨ nextFrame b = none → only (.busFrameSent p .began) b) ∧
        (may → ∀ n, nextFrame b = some n →
          only (.busFrameSent p .began) { b with burst := b.burst + 1, tx := b.tx.zipIdx.map fun y => if y.2 = n then { y.1 with onWire := true } else y.1 }) ∧
        (mine → only (.busFrameSent p .otherBegan) b) ∧ (¬ mine → only (.busFrameSent p .otherBegan) { b with busy := true }) ∧
        only (.busFrameSent p .idle) { b with busy := false, xlData := false } ∧
        (∀ on, only (.busFrameSent p (.dataPhase on)) { b with xlData := on && mode == 3 }) ∧
        (plca → only (.busFrameSent p .beacon) { b with turn := 0, burst := 0 } ∧
          only (.busFrameSent p .opportunity) { b with burst := 0, turn := if node = 0 ∧ fieldOf b.plca 16 8 ≤ b.turn + 1 then 0 else b.turn + 1 }) ∧
        (¬ plca → only (.busFrameSent p .beacon) b ∧ only (.busFrameSent p .opportunity) b) ∧
        (¬ mine → only (.busFrameSent p .sent) b ∧ only (.busFrameSent p .lostArbitration) b ∧
          (∀ m, only (.busFrameSent p (.error m)) b) ∧ only (.busFrameSent p .unacknowledged) b ∧ only (.busFrameSent p .arbitrationStuff) b) ∧
        (mine →
          ends .sent (fun v => (portOf v p).bc.tx = rest ∧ (portOf v p).bc.tec = (if b.tec = 0 then 0 else b.tec - 1) ∧ (portOf v p).bc.errState = level2 (portOf v p).bc ∧
            (portOf v p).bc.busy = b.busy ∧ raised v 1 ∧ counted v 9) ∧
          ends .lostArbitration (fun v => (portOf v p).bc.tx = (if oneShot then rest else again) ∧ (portOf v p).bc.tec = b.tec ∧ (portOf v p).bc.errState = b.errState ∧
            (portOf v p).bc.busy = (mode != 4) ∧
            counted v 14 ∧ (oneShot = true → raised v 2 ∧ counted v 12)) ∧
          (∀ m, failed (.error m) (upBy (1 + m))) ∧ failed .unacknowledged (if b.errState = 1 then b.tec else upBy 1) ∧ failed .arbitrationStuff b.tec)) ∧
      (busOn q = true → b.errState = 2 → b.cfg.getLsbD 5 = true → ∃ v t, exec (.busOffRecovery p) s = .next t ∧ Concluded v t ∧ busOnly v ∧
        (portOf v p).bc.errState = 0 ∧ (portOf v p).bc.tec = 0 ∧ (portOf v p).bc.recv = 0 ∧ (portOf v p).bc.busy = false ∧ raised v 3 ∧
        { (portOf v p).bc with tec := b.tec, recv := b.recv, errState := b.errState, evt := b.evt, busy := b.busy } = b) ∧
      (busOn q = false ∨ b.errState ≠ 2 ∨ b.cfg.getLsbD 5 = false → exec (.busOffRecovery p) s = .next s) ∧
      (mode = 4 → b.plca.getLsbD 0 = true → b.plcaActive ≠ active → exec (.plcaStatusChange p active) s = .next (port (
        let y : Port := { q with bc := { b with plcaActive := active, turn := 0, burst := 0, evt := b.evt ||| (1 <<< 5) } }
        let y := if b.even.getLsbD 5 then pend y 12 else y
        if active then y else count y 15))) ∧
      (mode ≠ 4 ∨ b.plca.getLsbD 0 = false ∨ b.plcaActive = active → exec (.plcaStatusChange p active) s = .next s))
end

