-- ==== Sys2Proof/Laws/Tables.lean ====
section
/-!
SUPPORT. What tables and byte memories do: a key reads what was last put under it, every other key what it read before, and every memory operation keeps the canonical form.
-/
namespace Sys2Proof.Machine

variable {α : Type}

/-! ## Tables -/

@[simp] theorem tFind_nil (n : Nat) : tFind ([] : Tab α) n = none := rfl

theorem tFind_tPut (t : Tab α) (n m : Nat) (v : α) : tFind (tPut t n v) m = if n = m then some v else tFind t m := by
  induction t with
  | nil => grind [tPut, tFind]
  | cons x t ih => grind [tPut, tFind]

@[simp] theorem tFind_tPut_self (t : Tab α) (n : Nat) (v : α) : tFind (tPut t n v) n = some v := by simp [tFind_tPut]

theorem tFind_tPut_ne (t : Tab α) {n m : Nat} (v : α) (h : n ≠ m) : tFind (tPut t n v) m = tFind t m := by
  simp [tFind_tPut, h]

@[simp] theorem tGet_tPut_self (t : Tab α) (n : Nat) (v d : α) : tGet (tPut t n v) n d = v := by simp [tGet]

theorem tGet_tPut_ne (t : Tab α) {n m : Nat} (v d : α) (h : n ≠ m) : tGet (tPut t n v) m d = tGet t m d := by
  simp [tGet, tFind_tPut_ne _ _ h]

theorem tGet_tPut (t : Tab α) (n m : Nat) (v d : α) : tGet (tPut t n v) m d = if n = m then v else tGet t m d := by
  by_cases h : n = m <;> simp [tGet, tFind_tPut, h]

@[simp] theorem tGet_tUpd_self (t : Tab α) (n : Nat) (d : α) (f : α → α) : tGet (tUpd t n d f) n d = f (tGet t n d) := by
  simp [tUpd]

theorem tGet_tUpd_ne (t : Tab α) {n m : Nat} (d e : α) (f : α → α) (h : n ≠ m) : tGet (tUpd t n d f) m e = tGet t m e := by
  simp [tUpd, tGet_tPut_ne _ _ _ h]

theorem tFind_tUpd (t : Tab α) (n m : Nat) (d : α) (f : α → α) :
    tFind (tUpd t n d f) m = if n = m then some (f (tGet t n d)) else tFind t m := by
  simp [tUpd, tFind_tPut]

theorem tFind_tDel (t : Tab α) (n m : Nat) : tFind (tDel t n) m = if n = m then none else tFind t m := by
  induction t with
  | nil => grind [tDel, tFind]
  | cons x t ih => grind [tDel, tFind]

/-! ## Memories -/

theorem memRead_low {j n : Nat} {m : Mem} (h : memWfFrom n m = true) (hj : j < n) : memRead m j = 0 := by
  induction m generalizing n with
  | nil => rfl
  | cons c m ih => grind [memWfFrom, memRead]

theorem memRead_memWriteFrom {n : Nat} {m : Mem} (a b : Nat) (x : Byte) (h : memWfFrom n m = true) :
    memRead (memWrite m a x) b = if a = b then x else memRead m b := by
  induction m generalizing n with
  | nil => grind [memWrite, memRead]
  | cons c m ih =>
    have := @memRead_low a (c.1 + 1) m
    grind [memWfFrom, memWrite, memRead]

theorem memRead_memWrite (m : Mem) (a b : Nat) (x : Byte) (h : memWf m = true) :
    memRead (memWrite m a x) b = if a = b then x else memRead m b := memRead_memWriteFrom a b x h

theorem memWfFrom_mono {n k : Nat} {m : Mem} (h : memWfFrom n m = true) (hk : k ≤ n) : memWfFrom k m = true := by
  cases m <;> grind [memWfFrom]

theorem memWfFrom_memWrite {n a : Nat} {m : Mem} (x : Byte) (h : memWfFrom n m = true) (ha : n ≤ a) :
    memWfFrom n (memWrite m a x) = true := by
  induction m generalizing n with
  | nil => grind [memWrite, memWfFrom]
  | cons c m ih =>
    have := @memWfFrom_mono (c.1 + 1) n m
    have := @memWfFrom_mono (c.1 + 1) (a + 1) m
    grind [memWrite, memWfFrom]

theorem memWf_memWrite {m : Mem} (a : Nat) (x : Byte) (h : memWf m = true) : memWf (memWrite m a x) = true :=
  memWfFrom_memWrite x h (Nat.zero_le a)

theorem memWf_memPut {m : Mem} (a : Nat) (l : List Byte) (h : memWf m = true) : memWf (memPut m a l) = true := by
  induction l generalizing m a with
  | nil => exact h
  | cons b l ih => exact ih (a + 1) (memWf_memWrite a b h)

theorem memWf_memPutWord {m : Mem} (a : Nat) (w : Word) (h : memWf m = true) : memWf (memPutWord m a w) = true :=
  memWf_memPut _ _ h

theorem memWfFrom_filter {n : Nat} {m : Mem} (f : Host.Cell → Bool) (h : memWfFrom n m = true) : memWfFrom n (m.filter f) = true := by
  induction m generalizing n with
  | nil => rfl
  | cons c m ih =>
    have := @memWfFrom_mono (c.1 + 1) n (m.filter f)
    grind [memWfFrom]

theorem memWf_memClear {m : Mem} (lo n : Nat) (h : memWf m = true) : memWf (memClear m lo n) = true :=
  memWfFrom_filter _ h

/-- A byte outside the bytes written reads as before; the bytes written read as written. -/
theorem memRead_memPut (m : Mem) (a b : Nat) (l : List Byte) (h : memWf m = true) :
    memRead (memPut m a l) b = if a ≤ b ∧ b < a + l.length then l.getD (b - a) 0 else memRead m b := by
  induction l generalizing m a with
  | nil => have : ¬(a ≤ b ∧ b < a) := by omega
           simp [memPut, this]
  | cons x l ih =>
    rw [memPut, ih _ _ (memWf_memWrite a x h), memRead_memWrite m a b x h]
    by_cases c1 : a = b
    · subst c1
      have : ¬(a + 1 ≤ a ∧ a < a + 1 + l.length) := by omega
      simp [this]
    · by_cases c2 : a + 1 ≤ b ∧ b < a + 1 + l.length
      · have e : b - a = (b - (a + 1)) + 1 := by omega
        have : a ≤ b ∧ b < a + (x :: l).length := by simp; omega
        rw [if_pos c2, if_pos this, e]; rfl
      · have : ¬(a ≤ b ∧ b < a + (x :: l).length) := by simp; omega
        rw [if_neg c2, if_neg c1, if_neg this]

@[simp] theorem memBytes_length (m : Mem) (a n : Nat) : (memBytes m a n).length = n := by
  induction n generalizing a with
  | zero => rfl
  | succ n ih => simp [memBytes, ih]

end Sys2Proof.Machine
end

