-- ==== Sys2Proof/Laws/State.lean ====
section
/-!
SUPPORT. What each update of the state leaves as it was, field by field, and what it makes of the part it changes.
-/
namespace Sys2Proof.Machine

variable (s : State)

/-! ## modPart -/

@[simp] theorem modPart_pending (p : Nat) (f : Partition → Partition) : (modPart s p f).pending = s.pending := rfl
@[simp] theorem modPart_freeCtr (p : Nat) (f : Partition → Partition) : (modPart s p f).freeCtr = s.freeCtr := rfl
@[simp] theorem modPart_pwr (p : Nat) (f : Partition → Partition) : (modPart s p f).pwr = s.pwr := rfl
@[simp] theorem modPart_vfEnable (p : Nat) (f : Partition → Partition) : (modPart s p f).vfEnable = s.vfEnable := rfl
@[simp] theorem modPart_tb (p : Nat) (f : Partition → Partition) : (modPart s p f).tb = s.tb := rfl
@[simp] theorem modPart_sch (p : Nat) (f : Partition → Partition) : (modPart s p f).sch = s.sch := rfl
@[simp] theorem modPart_sq (p : Nat) (f : Partition → Partition) : (modPart s p f).sq = s.sq := rfl
@[simp] theorem modPart_cq (p : Nat) (f : Partition → Partition) : (modPart s p f).cq = s.cq := rfl
@[simp] theorem modPart_mbx (p : Nat) (f : Partition → Partition) : (modPart s p f).mbx = s.mbx := rfl
@[simp] theorem modPart_fw (p : Nat) (f : Partition → Partition) : (modPart s p f).fw = s.fw := rfl
@[simp] theorem modPart_resetDone (p : Nat) (f : Partition → Partition) : (modPart s p f).resetDone = s.resetDone := rfl
@[simp] theorem modPart_deck (p : Nat) (f : Partition → Partition) : (modPart s p f).deck = s.deck := rfl
@[simp] theorem modPart_brg (p : Nat) (f : Partition → Partition) : (modPart s p f).brg = s.brg := rfl
@[simp] theorem modPart_port (p : Nat) (f : Partition → Partition) : (modPart s p f).port = s.port := rfl
@[simp] theorem modPart_bb (p : Nat) (f : Partition → Partition) : (modPart s p f).bb = s.bb := rfl
@[simp] theorem modPart_ep (p : Nat) (f : Partition → Partition) : (modPart s p f).ep = s.ep := rfl
@[simp] theorem modPart_brt (p : Nat) (f : Partition → Partition) : (modPart s p f).brt = s.brt := rfl
@[simp] theorem modPart_icu (p : Nat) (f : Partition → Partition) : (modPart s p f).icu = s.icu := rfl
@[simp] theorem modPart_sec (p : Nat) (f : Partition → Partition) : (modPart s p f).sec = s.sec := rfl
@[simp] theorem modPart_log (p : Nat) (f : Partition → Partition) : (modPart s p f).log = s.log := rfl
@[simp] theorem modPart_bank (p : Nat) (f : Partition → Partition) : (modPart s p f).bank = s.bank := rfl
@[simp] theorem modPart_bankMem (p : Nat) (f : Partition → Partition) : (modPart s p f).bankMem = s.bankMem := rfl
@[simp] theorem modPart_hostMem (p : Nat) (f : Partition → Partition) : (modPart s p f).hostMem = s.hostMem := rfl
@[simp] theorem modPart_hostBad (p : Nat) (f : Partition → Partition) : (modPart s p f).hostBad = s.hostBad := rfl
@[simp] theorem modPart_hostBars (p : Nat) (f : Partition → Partition) : (modPart s p f).hostBars = s.hostBars := rfl
@[simp] theorem modPart_glb (p : Nat) (f : Partition → Partition) : (modPart s p f).glb = s.glb := rfl
@[simp] theorem modPart_out (p : Nat) (f : Partition → Partition) : (modPart s p f).out = s.out := rfl

/-! ## bumpPart -/

@[simp] theorem bumpPart_pending (p k : Nat) : (bumpPart s p k).pending = s.pending := rfl
@[simp] theorem bumpPart_freeCtr (p k : Nat) : (bumpPart s p k).freeCtr = s.freeCtr := rfl
@[simp] theorem bumpPart_pwr (p k : Nat) : (bumpPart s p k).pwr = s.pwr := rfl
@[simp] theorem bumpPart_vfEnable (p k : Nat) : (bumpPart s p k).vfEnable = s.vfEnable := rfl
@[simp] theorem bumpPart_tb (p k : Nat) : (bumpPart s p k).tb = s.tb := rfl
@[simp] theorem bumpPart_sch (p k : Nat) : (bumpPart s p k).sch = s.sch := rfl
@[simp] theorem bumpPart_sq (p k : Nat) : (bumpPart s p k).sq = s.sq := rfl
@[simp] theorem bumpPart_cq (p k : Nat) : (bumpPart s p k).cq = s.cq := rfl
@[simp] theorem bumpPart_mbx (p k : Nat) : (bumpPart s p k).mbx = s.mbx := rfl
@[simp] theorem bumpPart_fw (p k : Nat) : (bumpPart s p k).fw = s.fw := rfl
@[simp] theorem bumpPart_resetDone (p k : Nat) : (bumpPart s p k).resetDone = s.resetDone := rfl
@[simp] theorem bumpPart_deck (p k : Nat) : (bumpPart s p k).deck = s.deck := rfl
@[simp] theorem bumpPart_brg (p k : Nat) : (bumpPart s p k).brg = s.brg := rfl
@[simp] theorem bumpPart_port (p k : Nat) : (bumpPart s p k).port = s.port := rfl
@[simp] theorem bumpPart_bb (p k : Nat) : (bumpPart s p k).bb = s.bb := rfl
@[simp] theorem bumpPart_ep (p k : Nat) : (bumpPart s p k).ep = s.ep := rfl
@[simp] theorem bumpPart_brt (p k : Nat) : (bumpPart s p k).brt = s.brt := rfl
@[simp] theorem bumpPart_icu (p k : Nat) : (bumpPart s p k).icu = s.icu := rfl
@[simp] theorem bumpPart_sec (p k : Nat) : (bumpPart s p k).sec = s.sec := rfl
@[simp] theorem bumpPart_log (p k : Nat) : (bumpPart s p k).log = s.log := rfl
@[simp] theorem bumpPart_bank (p k : Nat) : (bumpPart s p k).bank = s.bank := rfl
@[simp] theorem bumpPart_bankMem (p k : Nat) : (bumpPart s p k).bankMem = s.bankMem := rfl
@[simp] theorem bumpPart_hostMem (p k : Nat) : (bumpPart s p k).hostMem = s.hostMem := rfl
@[simp] theorem bumpPart_hostBad (p k : Nat) : (bumpPart s p k).hostBad = s.hostBad := rfl
@[simp] theorem bumpPart_hostBars (p k : Nat) : (bumpPart s p k).hostBars = s.hostBars := rfl
@[simp] theorem bumpPart_glb (p k : Nat) : (bumpPart s p k).glb = s.glb := rfl
@[simp] theorem bumpPart_out (p k : Nat) : (bumpPart s p k).out = s.out := rfl

/-! ## modPort -/

@[simp] theorem modPort_pending (p : Nat) (f : Port → Port) : (modPort s p f).pending = s.pending := rfl
@[simp] theorem modPort_freeCtr (p : Nat) (f : Port → Port) : (modPort s p f).freeCtr = s.freeCtr := rfl
@[simp] theorem modPort_pwr (p : Nat) (f : Port → Port) : (modPort s p f).pwr = s.pwr := rfl
@[simp] theorem modPort_vfEnable (p : Nat) (f : Port → Port) : (modPort s p f).vfEnable = s.vfEnable := rfl
@[simp] theorem modPort_tb (p : Nat) (f : Port → Port) : (modPort s p f).tb = s.tb := rfl
@[simp] theorem modPort_sch (p : Nat) (f : Port → Port) : (modPort s p f).sch = s.sch := rfl
@[simp] theorem modPort_sq (p : Nat) (f : Port → Port) : (modPort s p f).sq = s.sq := rfl
@[simp] theorem modPort_cq (p : Nat) (f : Port → Port) : (modPort s p f).cq = s.cq := rfl
@[simp] theorem modPort_mbx (p : Nat) (f : Port → Port) : (modPort s p f).mbx = s.mbx := rfl
@[simp] theorem modPort_fw (p : Nat) (f : Port → Port) : (modPort s p f).fw = s.fw := rfl
@[simp] theorem modPort_part (p : Nat) (f : Port → Port) : (modPort s p f).part = s.part := rfl
@[simp] theorem modPort_resetDone (p : Nat) (f : Port → Port) : (modPort s p f).resetDone = s.resetDone := rfl
@[simp] theorem modPort_deck (p : Nat) (f : Port → Port) : (modPort s p f).deck = s.deck := rfl
@[simp] theorem modPort_brg (p : Nat) (f : Port → Port) : (modPort s p f).brg = s.brg := rfl
@[simp] theorem modPort_bb (p : Nat) (f : Port → Port) : (modPort s p f).bb = s.bb := rfl
@[simp] theorem modPort_ep (p : Nat) (f : Port → Port) : (modPort s p f).ep = s.ep := rfl
@[simp] theorem modPort_brt (p : Nat) (f : Port → Port) : (modPort s p f).brt = s.brt := rfl
@[simp] theorem modPort_icu (p : Nat) (f : Port → Port) : (modPort s p f).icu = s.icu := rfl
@[simp] theorem modPort_sec (p : Nat) (f : Port → Port) : (modPort s p f).sec = s.sec := rfl
@[simp] theorem modPort_log (p : Nat) (f : Port → Port) : (modPort s p f).log = s.log := rfl
@[simp] theorem modPort_bank (p : Nat) (f : Port → Port) : (modPort s p f).bank = s.bank := rfl
@[simp] theorem modPort_bankMem (p : Nat) (f : Port → Port) : (modPort s p f).bankMem = s.bankMem := rfl
@[simp] theorem modPort_hostMem (p : Nat) (f : Port → Port) : (modPort s p f).hostMem = s.hostMem := rfl
@[simp] theorem modPort_hostBad (p : Nat) (f : Port → Port) : (modPort s p f).hostBad = s.hostBad := rfl
@[simp] theorem modPort_hostBars (p : Nat) (f : Port → Port) : (modPort s p f).hostBars = s.hostBars := rfl
@[simp] theorem modPort_glb (p : Nat) (f : Port → Port) : (modPort s p f).glb = s.glb := rfl
@[simp] theorem modPort_out (p : Nat) (f : Port → Port) : (modPort s p f).out = s.out := rfl

/-! ## modEng -/

@[simp] theorem modEng_pending (p : Nat) (f : Engine → Engine) : (modEng s p f).pending = s.pending := rfl
@[simp] theorem modEng_freeCtr (p : Nat) (f : Engine → Engine) : (modEng s p f).freeCtr = s.freeCtr := rfl
@[simp] theorem modEng_pwr (p : Nat) (f : Engine → Engine) : (modEng s p f).pwr = s.pwr := rfl
@[simp] theorem modEng_vfEnable (p : Nat) (f : Engine → Engine) : (modEng s p f).vfEnable = s.vfEnable := rfl
@[simp] theorem modEng_tb (p : Nat) (f : Engine → Engine) : (modEng s p f).tb = s.tb := rfl
@[simp] theorem modEng_sch (p : Nat) (f : Engine → Engine) : (modEng s p f).sch = s.sch := rfl
@[simp] theorem modEng_sq (p : Nat) (f : Engine → Engine) : (modEng s p f).sq = s.sq := rfl
@[simp] theorem modEng_cq (p : Nat) (f : Engine → Engine) : (modEng s p f).cq = s.cq := rfl
@[simp] theorem modEng_mbx (p : Nat) (f : Engine → Engine) : (modEng s p f).mbx = s.mbx := rfl
@[simp] theorem modEng_fw (p : Nat) (f : Engine → Engine) : (modEng s p f).fw = s.fw := rfl
@[simp] theorem modEng_part (p : Nat) (f : Engine → Engine) : (modEng s p f).part = s.part := rfl
@[simp] theorem modEng_resetDone (p : Nat) (f : Engine → Engine) : (modEng s p f).resetDone = s.resetDone := rfl
@[simp] theorem modEng_deck (p : Nat) (f : Engine → Engine) : (modEng s p f).deck = s.deck := rfl
@[simp] theorem modEng_brg (p : Nat) (f : Engine → Engine) : (modEng s p f).brg = s.brg := rfl
@[simp] theorem modEng_bb (p : Nat) (f : Engine → Engine) : (modEng s p f).bb = s.bb := rfl
@[simp] theorem modEng_ep (p : Nat) (f : Engine → Engine) : (modEng s p f).ep = s.ep := rfl
@[simp] theorem modEng_brt (p : Nat) (f : Engine → Engine) : (modEng s p f).brt = s.brt := rfl
@[simp] theorem modEng_icu (p : Nat) (f : Engine → Engine) : (modEng s p f).icu = s.icu := rfl
@[simp] theorem modEng_sec (p : Nat) (f : Engine → Engine) : (modEng s p f).sec = s.sec := rfl
@[simp] theorem modEng_log (p : Nat) (f : Engine → Engine) : (modEng s p f).log = s.log := rfl
@[simp] theorem modEng_bank (p : Nat) (f : Engine → Engine) : (modEng s p f).bank = s.bank := rfl
@[simp] theorem modEng_bankMem (p : Nat) (f : Engine → Engine) : (modEng s p f).bankMem = s.bankMem := rfl
@[simp] theorem modEng_hostMem (p : Nat) (f : Engine → Engine) : (modEng s p f).hostMem = s.hostMem := rfl
@[simp] theorem modEng_hostBad (p : Nat) (f : Engine → Engine) : (modEng s p f).hostBad = s.hostBad := rfl
@[simp] theorem modEng_hostBars (p : Nat) (f : Engine → Engine) : (modEng s p f).hostBars = s.hostBars := rfl
@[simp] theorem modEng_glb (p : Nat) (f : Engine → Engine) : (modEng s p f).glb = s.glb := rfl
@[simp] theorem modEng_out (p : Nat) (f : Engine → Engine) : (modEng s p f).out = s.out := rfl

/-! ## bumpPort -/

@[simp] theorem bumpPort_pending (p k : Nat) : (bumpPort s p k).pending = s.pending := rfl
@[simp] theorem bumpPort_freeCtr (p k : Nat) : (bumpPort s p k).freeCtr = s.freeCtr := rfl
@[simp] theorem bumpPort_pwr (p k : Nat) : (bumpPort s p k).pwr = s.pwr := rfl
@[simp] theorem bumpPort_vfEnable (p k : Nat) : (bumpPort s p k).vfEnable = s.vfEnable := rfl
@[simp] theorem bumpPort_tb (p k : Nat) : (bumpPort s p k).tb = s.tb := rfl
@[simp] theorem bumpPort_sch (p k : Nat) : (bumpPort s p k).sch = s.sch := rfl
@[simp] theorem bumpPort_sq (p k : Nat) : (bumpPort s p k).sq = s.sq := rfl
@[simp] theorem bumpPort_cq (p k : Nat) : (bumpPort s p k).cq = s.cq := rfl
@[simp] theorem bumpPort_mbx (p k : Nat) : (bumpPort s p k).mbx = s.mbx := rfl
@[simp] theorem bumpPort_fw (p k : Nat) : (bumpPort s p k).fw = s.fw := rfl
@[simp] theorem bumpPort_part (p k : Nat) : (bumpPort s p k).part = s.part := rfl
@[simp] theorem bumpPort_resetDone (p k : Nat) : (bumpPort s p k).resetDone = s.resetDone := rfl
@[simp] theorem bumpPort_deck (p k : Nat) : (bumpPort s p k).deck = s.deck := rfl
@[simp] theorem bumpPort_brg (p k : Nat) : (bumpPort s p k).brg = s.brg := rfl
@[simp] theorem bumpPort_bb (p k : Nat) : (bumpPort s p k).bb = s.bb := rfl
@[simp] theorem bumpPort_ep (p k : Nat) : (bumpPort s p k).ep = s.ep := rfl
@[simp] theorem bumpPort_brt (p k : Nat) : (bumpPort s p k).brt = s.brt := rfl
@[simp] theorem bumpPort_icu (p k : Nat) : (bumpPort s p k).icu = s.icu := rfl
@[simp] theorem bumpPort_sec (p k : Nat) : (bumpPort s p k).sec = s.sec := rfl
@[simp] theorem bumpPort_log (p k : Nat) : (bumpPort s p k).log = s.log := rfl
@[simp] theorem bumpPort_bank (p k : Nat) : (bumpPort s p k).bank = s.bank := rfl
@[simp] theorem bumpPort_bankMem (p k : Nat) : (bumpPort s p k).bankMem = s.bankMem := rfl
@[simp] theorem bumpPort_hostMem (p k : Nat) : (bumpPort s p k).hostMem = s.hostMem := rfl
@[simp] theorem bumpPort_hostBad (p k : Nat) : (bumpPort s p k).hostBad = s.hostBad := rfl
@[simp] theorem bumpPort_hostBars (p k : Nat) : (bumpPort s p k).hostBars = s.hostBars := rfl
@[simp] theorem bumpPort_glb (p k : Nat) : (bumpPort s p k).glb = s.glb := rfl
@[simp] theorem bumpPort_out (p k : Nat) : (bumpPort s p k).out = s.out := rfl

/-! ## modChan -/

@[simp] theorem modChan_pending (n : Nat) (f : Channel → Channel) : (modChan s n f).pending = s.pending := rfl
@[simp] theorem modChan_freeCtr (n : Nat) (f : Channel → Channel) : (modChan s n f).freeCtr = s.freeCtr := rfl
@[simp] theorem modChan_pwr (n : Nat) (f : Channel → Channel) : (modChan s n f).pwr = s.pwr := rfl
@[simp] theorem modChan_vfEnable (n : Nat) (f : Channel → Channel) : (modChan s n f).vfEnable = s.vfEnable := rfl
@[simp] theorem modChan_tb (n : Nat) (f : Channel → Channel) : (modChan s n f).tb = s.tb := rfl
@[simp] theorem modChan_sch (n : Nat) (f : Channel → Channel) : (modChan s n f).sch = s.sch := rfl
@[simp] theorem modChan_sq (n : Nat) (f : Channel → Channel) : (modChan s n f).sq = s.sq := rfl
@[simp] theorem modChan_cq (n : Nat) (f : Channel → Channel) : (modChan s n f).cq = s.cq := rfl
@[simp] theorem modChan_mbx (n : Nat) (f : Channel → Channel) : (modChan s n f).mbx = s.mbx := rfl
@[simp] theorem modChan_fw (n : Nat) (f : Channel → Channel) : (modChan s n f).fw = s.fw := rfl
@[simp] theorem modChan_part (n : Nat) (f : Channel → Channel) : (modChan s n f).part = s.part := rfl
@[simp] theorem modChan_resetDone (n : Nat) (f : Channel → Channel) : (modChan s n f).resetDone = s.resetDone := rfl
@[simp] theorem modChan_deck (n : Nat) (f : Channel → Channel) : (modChan s n f).deck = s.deck := rfl
@[simp] theorem modChan_port (n : Nat) (f : Channel → Channel) : (modChan s n f).port = s.port := rfl
@[simp] theorem modChan_bb (n : Nat) (f : Channel → Channel) : (modChan s n f).bb = s.bb := rfl
@[simp] theorem modChan_ep (n : Nat) (f : Channel → Channel) : (modChan s n f).ep = s.ep := rfl
@[simp] theorem modChan_brt (n : Nat) (f : Channel → Channel) : (modChan s n f).brt = s.brt := rfl
@[simp] theorem modChan_icu (n : Nat) (f : Channel → Channel) : (modChan s n f).icu = s.icu := rfl
@[simp] theorem modChan_sec (n : Nat) (f : Channel → Channel) : (modChan s n f).sec = s.sec := rfl
@[simp] theorem modChan_log (n : Nat) (f : Channel → Channel) : (modChan s n f).log = s.log := rfl
@[simp] theorem modChan_bank (n : Nat) (f : Channel → Channel) : (modChan s n f).bank = s.bank := rfl
@[simp] theorem modChan_bankMem (n : Nat) (f : Channel → Channel) : (modChan s n f).bankMem = s.bankMem := rfl
@[simp] theorem modChan_hostMem (n : Nat) (f : Channel → Channel) : (modChan s n f).hostMem = s.hostMem := rfl
@[simp] theorem modChan_hostBad (n : Nat) (f : Channel → Channel) : (modChan s n f).hostBad = s.hostBad := rfl
@[simp] theorem modChan_hostBars (n : Nat) (f : Channel → Channel) : (modChan s n f).hostBars = s.hostBars := rfl
@[simp] theorem modChan_glb (n : Nat) (f : Channel → Channel) : (modChan s n f).glb = s.glb := rfl
@[simp] theorem modChan_out (n : Nat) (f : Channel → Channel) : (modChan s n f).out = s.out := rfl

/-! ## modBank -/

@[simp] theorem modBank_pending (n : Nat) (f : Bank → Bank) : (modBank s n f).pending = s.pending := rfl
@[simp] theorem modBank_freeCtr (n : Nat) (f : Bank → Bank) : (modBank s n f).freeCtr = s.freeCtr := rfl
@[simp] theorem modBank_pwr (n : Nat) (f : Bank → Bank) : (modBank s n f).pwr = s.pwr := rfl
@[simp] theorem modBank_vfEnable (n : Nat) (f : Bank → Bank) : (modBank s n f).vfEnable = s.vfEnable := rfl
@[simp] theorem modBank_tb (n : Nat) (f : Bank → Bank) : (modBank s n f).tb = s.tb := rfl
@[simp] theorem modBank_sch (n : Nat) (f : Bank → Bank) : (modBank s n f).sch = s.sch := rfl
@[simp] theorem modBank_sq (n : Nat) (f : Bank → Bank) : (modBank s n f).sq = s.sq := rfl
@[simp] theorem modBank_cq (n : Nat) (f : Bank → Bank) : (modBank s n f).cq = s.cq := rfl
@[simp] theorem modBank_mbx (n : Nat) (f : Bank → Bank) : (modBank s n f).mbx = s.mbx := rfl
@[simp] theorem modBank_fw (n : Nat) (f : Bank → Bank) : (modBank s n f).fw = s.fw := rfl
@[simp] theorem modBank_part (n : Nat) (f : Bank → Bank) : (modBank s n f).part = s.part := rfl
@[simp] theorem modBank_resetDone (n : Nat) (f : Bank → Bank) : (modBank s n f).resetDone = s.resetDone := rfl
@[simp] theorem modBank_deck (n : Nat) (f : Bank → Bank) : (modBank s n f).deck = s.deck := rfl
@[simp] theorem modBank_brg (n : Nat) (f : Bank → Bank) : (modBank s n f).brg = s.brg := rfl
@[simp] theorem modBank_port (n : Nat) (f : Bank → Bank) : (modBank s n f).port = s.port := rfl
@[simp] theorem modBank_bb (n : Nat) (f : Bank → Bank) : (modBank s n f).bb = s.bb := rfl
@[simp] theorem modBank_ep (n : Nat) (f : Bank → Bank) : (modBank s n f).ep = s.ep := rfl
@[simp] theorem modBank_brt (n : Nat) (f : Bank → Bank) : (modBank s n f).brt = s.brt := rfl
@[simp] theorem modBank_icu (n : Nat) (f : Bank → Bank) : (modBank s n f).icu = s.icu := rfl
@[simp] theorem modBank_sec (n : Nat) (f : Bank → Bank) : (modBank s n f).sec = s.sec := rfl
@[simp] theorem modBank_log (n : Nat) (f : Bank → Bank) : (modBank s n f).log = s.log := rfl
@[simp] theorem modBank_bankMem (n : Nat) (f : Bank → Bank) : (modBank s n f).bankMem = s.bankMem := rfl
@[simp] theorem modBank_hostMem (n : Nat) (f : Bank → Bank) : (modBank s n f).hostMem = s.hostMem := rfl
@[simp] theorem modBank_hostBad (n : Nat) (f : Bank → Bank) : (modBank s n f).hostBad = s.hostBad := rfl
@[simp] theorem modBank_hostBars (n : Nat) (f : Bank → Bank) : (modBank s n f).hostBars = s.hostBars := rfl
@[simp] theorem modBank_glb (n : Nat) (f : Bank → Bank) : (modBank s n f).glb = s.glb := rfl
@[simp] theorem modBank_out (n : Nat) (f : Bank → Bank) : (modBank s n f).out = s.out := rfl

/-! ## modMbx -/

@[simp] theorem modMbx_pending (d : Nat) (f : Mailbox → Mailbox) : (modMbx s d f).pending = s.pending := rfl
@[simp] theorem modMbx_freeCtr (d : Nat) (f : Mailbox → Mailbox) : (modMbx s d f).freeCtr = s.freeCtr := rfl
@[simp] theorem modMbx_pwr (d : Nat) (f : Mailbox → Mailbox) : (modMbx s d f).pwr = s.pwr := rfl
@[simp] theorem modMbx_vfEnable (d : Nat) (f : Mailbox → Mailbox) : (modMbx s d f).vfEnable = s.vfEnable := rfl
@[simp] theorem modMbx_tb (d : Nat) (f : Mailbox → Mailbox) : (modMbx s d f).tb = s.tb := rfl
@[simp] theorem modMbx_sch (d : Nat) (f : Mailbox → Mailbox) : (modMbx s d f).sch = s.sch := rfl
@[simp] theorem modMbx_sq (d : Nat) (f : Mailbox → Mailbox) : (modMbx s d f).sq = s.sq := rfl
@[simp] theorem modMbx_cq (d : Nat) (f : Mailbox → Mailbox) : (modMbx s d f).cq = s.cq := rfl
@[simp] theorem modMbx_fw (d : Nat) (f : Mailbox → Mailbox) : (modMbx s d f).fw = s.fw := rfl
@[simp] theorem modMbx_part (d : Nat) (f : Mailbox → Mailbox) : (modMbx s d f).part = s.part := rfl
@[simp] theorem modMbx_resetDone (d : Nat) (f : Mailbox → Mailbox) : (modMbx s d f).resetDone = s.resetDone := rfl
@[simp] theorem modMbx_deck (d : Nat) (f : Mailbox → Mailbox) : (modMbx s d f).deck = s.deck := rfl
@[simp] theorem modMbx_brg (d : Nat) (f : Mailbox → Mailbox) : (modMbx s d f).brg = s.brg := rfl
@[simp] theorem modMbx_port (d : Nat) (f : Mailbox → Mailbox) : (modMbx s d f).port = s.port := rfl
@[simp] theorem modMbx_bb (d : Nat) (f : Mailbox → Mailbox) : (modMbx s d f).bb = s.bb := rfl
@[simp] theorem modMbx_ep (d : Nat) (f : Mailbox → Mailbox) : (modMbx s d f).ep = s.ep := rfl
@[simp] theorem modMbx_brt (d : Nat) (f : Mailbox → Mailbox) : (modMbx s d f).brt = s.brt := rfl
@[simp] theorem modMbx_icu (d : Nat) (f : Mailbox → Mailbox) : (modMbx s d f).icu = s.icu := rfl
@[simp] theorem modMbx_sec (d : Nat) (f : Mailbox → Mailbox) : (modMbx s d f).sec = s.sec := rfl
@[simp] theorem modMbx_log (d : Nat) (f : Mailbox → Mailbox) : (modMbx s d f).log = s.log := rfl
@[simp] theorem modMbx_bank (d : Nat) (f : Mailbox → Mailbox) : (modMbx s d f).bank = s.bank := rfl
@[simp] theorem modMbx_bankMem (d : Nat) (f : Mailbox → Mailbox) : (modMbx s d f).bankMem = s.bankMem := rfl
@[simp] theorem modMbx_hostMem (d : Nat) (f : Mailbox → Mailbox) : (modMbx s d f).hostMem = s.hostMem := rfl
@[simp] theorem modMbx_hostBad (d : Nat) (f : Mailbox → Mailbox) : (modMbx s d f).hostBad = s.hostBad := rfl
@[simp] theorem modMbx_hostBars (d : Nat) (f : Mailbox → Mailbox) : (modMbx s d f).hostBars = s.hostBars := rfl
@[simp] theorem modMbx_glb (d : Nat) (f : Mailbox → Mailbox) : (modMbx s d f).glb = s.glb := rfl
@[simp] theorem modMbx_out (d : Nat) (f : Mailbox → Mailbox) : (modMbx s d f).out = s.out := rfl

/-! ## modEp -/

@[simp] theorem modEp_pending (e : Nat) (f : Endpoint → Endpoint) : (modEp s e f).pending = s.pending := rfl
@[simp] theorem modEp_freeCtr (e : Nat) (f : Endpoint → Endpoint) : (modEp s e f).freeCtr = s.freeCtr := rfl
@[simp] theorem modEp_pwr (e : Nat) (f : Endpoint → Endpoint) : (modEp s e f).pwr = s.pwr := rfl
@[simp] theorem modEp_vfEnable (e : Nat) (f : Endpoint → Endpoint) : (modEp s e f).vfEnable = s.vfEnable := rfl
@[simp] theorem modEp_tb (e : Nat) (f : Endpoint → Endpoint) : (modEp s e f).tb = s.tb := rfl
@[simp] theorem modEp_sch (e : Nat) (f : Endpoint → Endpoint) : (modEp s e f).sch = s.sch := rfl
@[simp] theorem modEp_sq (e : Nat) (f : Endpoint → Endpoint) : (modEp s e f).sq = s.sq := rfl
@[simp] theorem modEp_cq (e : Nat) (f : Endpoint → Endpoint) : (modEp s e f).cq = s.cq := rfl
@[simp] theorem modEp_mbx (e : Nat) (f : Endpoint → Endpoint) : (modEp s e f).mbx = s.mbx := rfl
@[simp] theorem modEp_fw (e : Nat) (f : Endpoint → Endpoint) : (modEp s e f).fw = s.fw := rfl
@[simp] theorem modEp_part (e : Nat) (f : Endpoint → Endpoint) : (modEp s e f).part = s.part := rfl
@[simp] theorem modEp_resetDone (e : Nat) (f : Endpoint → Endpoint) : (modEp s e f).resetDone = s.resetDone := rfl
@[simp] theorem modEp_deck (e : Nat) (f : Endpoint → Endpoint) : (modEp s e f).deck = s.deck := rfl
@[simp] theorem modEp_brg (e : Nat) (f : Endpoint → Endpoint) : (modEp s e f).brg = s.brg := rfl
@[simp] theorem modEp_port (e : Nat) (f : Endpoint → Endpoint) : (modEp s e f).port = s.port := rfl
@[simp] theorem modEp_bb (e : Nat) (f : Endpoint → Endpoint) : (modEp s e f).bb = s.bb := rfl
@[simp] theorem modEp_brt (e : Nat) (f : Endpoint → Endpoint) : (modEp s e f).brt = s.brt := rfl
@[simp] theorem modEp_icu (e : Nat) (f : Endpoint → Endpoint) : (modEp s e f).icu = s.icu := rfl
@[simp] theorem modEp_sec (e : Nat) (f : Endpoint → Endpoint) : (modEp s e f).sec = s.sec := rfl
@[simp] theorem modEp_log (e : Nat) (f : Endpoint → Endpoint) : (modEp s e f).log = s.log := rfl
@[simp] theorem modEp_bank (e : Nat) (f : Endpoint → Endpoint) : (modEp s e f).bank = s.bank := rfl
@[simp] theorem modEp_bankMem (e : Nat) (f : Endpoint → Endpoint) : (modEp s e f).bankMem = s.bankMem := rfl
@[simp] theorem modEp_hostMem (e : Nat) (f : Endpoint → Endpoint) : (modEp s e f).hostMem = s.hostMem := rfl
@[simp] theorem modEp_hostBad (e : Nat) (f : Endpoint → Endpoint) : (modEp s e f).hostBad = s.hostBad := rfl
@[simp] theorem modEp_hostBars (e : Nat) (f : Endpoint → Endpoint) : (modEp s e f).hostBars = s.hostBars := rfl
@[simp] theorem modEp_glb (e : Nat) (f : Endpoint → Endpoint) : (modEp s e f).glb = s.glb := rfl
@[simp] theorem modEp_out (e : Nat) (f : Endpoint → Endpoint) : (modEp s e f).out = s.out := rfl

/-! ## modLink -/

@[simp] theorem modLink_pending (n : Nat) (f : Link → Link) : (modLink s n f).pending = s.pending := rfl
@[simp] theorem modLink_freeCtr (n : Nat) (f : Link → Link) : (modLink s n f).freeCtr = s.freeCtr := rfl
@[simp] theorem modLink_pwr (n : Nat) (f : Link → Link) : (modLink s n f).pwr = s.pwr := rfl
@[simp] theorem modLink_vfEnable (n : Nat) (f : Link → Link) : (modLink s n f).vfEnable = s.vfEnable := rfl
@[simp] theorem modLink_tb (n : Nat) (f : Link → Link) : (modLink s n f).tb = s.tb := rfl
@[simp] theorem modLink_sch (n : Nat) (f : Link → Link) : (modLink s n f).sch = s.sch := rfl
@[simp] theorem modLink_sq (n : Nat) (f : Link → Link) : (modLink s n f).sq = s.sq := rfl
@[simp] theorem modLink_cq (n : Nat) (f : Link → Link) : (modLink s n f).cq = s.cq := rfl
@[simp] theorem modLink_mbx (n : Nat) (f : Link → Link) : (modLink s n f).mbx = s.mbx := rfl
@[simp] theorem modLink_fw (n : Nat) (f : Link → Link) : (modLink s n f).fw = s.fw := rfl
@[simp] theorem modLink_part (n : Nat) (f : Link → Link) : (modLink s n f).part = s.part := rfl
@[simp] theorem modLink_resetDone (n : Nat) (f : Link → Link) : (modLink s n f).resetDone = s.resetDone := rfl
@[simp] theorem modLink_deck (n : Nat) (f : Link → Link) : (modLink s n f).deck = s.deck := rfl
@[simp] theorem modLink_brg (n : Nat) (f : Link → Link) : (modLink s n f).brg = s.brg := rfl
@[simp] theorem modLink_port (n : Nat) (f : Link → Link) : (modLink s n f).port = s.port := rfl
@[simp] theorem modLink_bb (n : Nat) (f : Link → Link) : (modLink s n f).bb = s.bb := rfl
@[simp] theorem modLink_brt (n : Nat) (f : Link → Link) : (modLink s n f).brt = s.brt := rfl
@[simp] theorem modLink_icu (n : Nat) (f : Link → Link) : (modLink s n f).icu = s.icu := rfl
@[simp] theorem modLink_sec (n : Nat) (f : Link → Link) : (modLink s n f).sec = s.sec := rfl
@[simp] theorem modLink_log (n : Nat) (f : Link → Link) : (modLink s n f).log = s.log := rfl
@[simp] theorem modLink_bank (n : Nat) (f : Link → Link) : (modLink s n f).bank = s.bank := rfl
@[simp] theorem modLink_bankMem (n : Nat) (f : Link → Link) : (modLink s n f).bankMem = s.bankMem := rfl
@[simp] theorem modLink_hostMem (n : Nat) (f : Link → Link) : (modLink s n f).hostMem = s.hostMem := rfl
@[simp] theorem modLink_hostBad (n : Nat) (f : Link → Link) : (modLink s n f).hostBad = s.hostBad := rfl
@[simp] theorem modLink_hostBars (n : Nat) (f : Link → Link) : (modLink s n f).hostBars = s.hostBars := rfl
@[simp] theorem modLink_glb (n : Nat) (f : Link → Link) : (modLink s n f).glb = s.glb := rfl
@[simp] theorem modLink_out (n : Nat) (f : Link → Link) : (modLink s n f).out = s.out := rfl

/-! ## bumpEp -/

@[simp] theorem bumpEp_pending (k : Nat) : (bumpEp s k).pending = s.pending := rfl
@[simp] theorem bumpEp_freeCtr (k : Nat) : (bumpEp s k).freeCtr = s.freeCtr := rfl
@[simp] theorem bumpEp_pwr (k : Nat) : (bumpEp s k).pwr = s.pwr := rfl
@[simp] theorem bumpEp_vfEnable (k : Nat) : (bumpEp s k).vfEnable = s.vfEnable := rfl
@[simp] theorem bumpEp_tb (k : Nat) : (bumpEp s k).tb = s.tb := rfl
@[simp] theorem bumpEp_sch (k : Nat) : (bumpEp s k).sch = s.sch := rfl
@[simp] theorem bumpEp_sq (k : Nat) : (bumpEp s k).sq = s.sq := rfl
@[simp] theorem bumpEp_cq (k : Nat) : (bumpEp s k).cq = s.cq := rfl
@[simp] theorem bumpEp_mbx (k : Nat) : (bumpEp s k).mbx = s.mbx := rfl
@[simp] theorem bumpEp_fw (k : Nat) : (bumpEp s k).fw = s.fw := rfl
@[simp] theorem bumpEp_part (k : Nat) : (bumpEp s k).part = s.part := rfl
@[simp] theorem bumpEp_resetDone (k : Nat) : (bumpEp s k).resetDone = s.resetDone := rfl
@[simp] theorem bumpEp_deck (k : Nat) : (bumpEp s k).deck = s.deck := rfl
@[simp] theorem bumpEp_brg (k : Nat) : (bumpEp s k).brg = s.brg := rfl
@[simp] theorem bumpEp_port (k : Nat) : (bumpEp s k).port = s.port := rfl
@[simp] theorem bumpEp_bb (k : Nat) : (bumpEp s k).bb = s.bb := rfl
@[simp] theorem bumpEp_brt (k : Nat) : (bumpEp s k).brt = s.brt := rfl
@[simp] theorem bumpEp_icu (k : Nat) : (bumpEp s k).icu = s.icu := rfl
@[simp] theorem bumpEp_sec (k : Nat) : (bumpEp s k).sec = s.sec := rfl
@[simp] theorem bumpEp_log (k : Nat) : (bumpEp s k).log = s.log := rfl
@[simp] theorem bumpEp_bank (k : Nat) : (bumpEp s k).bank = s.bank := rfl
@[simp] theorem bumpEp_bankMem (k : Nat) : (bumpEp s k).bankMem = s.bankMem := rfl
@[simp] theorem bumpEp_hostMem (k : Nat) : (bumpEp s k).hostMem = s.hostMem := rfl
@[simp] theorem bumpEp_hostBad (k : Nat) : (bumpEp s k).hostBad = s.hostBad := rfl
@[simp] theorem bumpEp_hostBars (k : Nat) : (bumpEp s k).hostBars = s.hostBars := rfl
@[simp] theorem bumpEp_glb (k : Nat) : (bumpEp s k).glb = s.glb := rfl
@[simp] theorem bumpEp_out (k : Nat) : (bumpEp s k).out = s.out := rfl

/-! ## modEpu -/

@[simp] theorem modEpu_pending (f : Endpoints → Endpoints) : (modEpu s f).pending = s.pending := rfl
@[simp] theorem modEpu_freeCtr (f : Endpoints → Endpoints) : (modEpu s f).freeCtr = s.freeCtr := rfl
@[simp] theorem modEpu_pwr (f : Endpoints → Endpoints) : (modEpu s f).pwr = s.pwr := rfl
@[simp] theorem modEpu_vfEnable (f : Endpoints → Endpoints) : (modEpu s f).vfEnable = s.vfEnable := rfl
@[simp] theorem modEpu_tb (f : Endpoints → Endpoints) : (modEpu s f).tb = s.tb := rfl
@[simp] theorem modEpu_sch (f : Endpoints → Endpoints) : (modEpu s f).sch = s.sch := rfl
@[simp] theorem modEpu_sq (f : Endpoints → Endpoints) : (modEpu s f).sq = s.sq := rfl
@[simp] theorem modEpu_cq (f : Endpoints → Endpoints) : (modEpu s f).cq = s.cq := rfl
@[simp] theorem modEpu_mbx (f : Endpoints → Endpoints) : (modEpu s f).mbx = s.mbx := rfl
@[simp] theorem modEpu_fw (f : Endpoints → Endpoints) : (modEpu s f).fw = s.fw := rfl
@[simp] theorem modEpu_part (f : Endpoints → Endpoints) : (modEpu s f).part = s.part := rfl
@[simp] theorem modEpu_resetDone (f : Endpoints → Endpoints) : (modEpu s f).resetDone = s.resetDone := rfl
@[simp] theorem modEpu_deck (f : Endpoints → Endpoints) : (modEpu s f).deck = s.deck := rfl
@[simp] theorem modEpu_brg (f : Endpoints → Endpoints) : (modEpu s f).brg = s.brg := rfl
@[simp] theorem modEpu_port (f : Endpoints → Endpoints) : (modEpu s f).port = s.port := rfl
@[simp] theorem modEpu_bb (f : Endpoints → Endpoints) : (modEpu s f).bb = s.bb := rfl
@[simp] theorem modEpu_brt (f : Endpoints → Endpoints) : (modEpu s f).brt = s.brt := rfl
@[simp] theorem modEpu_icu (f : Endpoints → Endpoints) : (modEpu s f).icu = s.icu := rfl
@[simp] theorem modEpu_sec (f : Endpoints → Endpoints) : (modEpu s f).sec = s.sec := rfl
@[simp] theorem modEpu_log (f : Endpoints → Endpoints) : (modEpu s f).log = s.log := rfl
@[simp] theorem modEpu_bank (f : Endpoints → Endpoints) : (modEpu s f).bank = s.bank := rfl
@[simp] theorem modEpu_bankMem (f : Endpoints → Endpoints) : (modEpu s f).bankMem = s.bankMem := rfl
@[simp] theorem modEpu_hostMem (f : Endpoints → Endpoints) : (modEpu s f).hostMem = s.hostMem := rfl
@[simp] theorem modEpu_hostBad (f : Endpoints → Endpoints) : (modEpu s f).hostBad = s.hostBad := rfl
@[simp] theorem modEpu_hostBars (f : Endpoints → Endpoints) : (modEpu s f).hostBars = s.hostBars := rfl
@[simp] theorem modEpu_glb (f : Endpoints → Endpoints) : (modEpu s f).glb = s.glb := rfl
@[simp] theorem modEpu_out (f : Endpoints → Endpoints) : (modEpu s f).out = s.out := rfl

/-! ## modQueue -/

@[simp] theorem modQueue_pending (q : Nat) (f : Queue → Queue) : (modQueue s q f).pending = s.pending := by unfold modQueue; split <;> rfl
@[simp] theorem modQueue_freeCtr (q : Nat) (f : Queue → Queue) : (modQueue s q f).freeCtr = s.freeCtr := by unfold modQueue; split <;> rfl
@[simp] theorem modQueue_pwr (q : Nat) (f : Queue → Queue) : (modQueue s q f).pwr = s.pwr := by unfold modQueue; split <;> rfl
@[simp] theorem modQueue_vfEnable (q : Nat) (f : Queue → Queue) : (modQueue s q f).vfEnable = s.vfEnable := by unfold modQueue; split <;> rfl
@[simp] theorem modQueue_tb (q : Nat) (f : Queue → Queue) : (modQueue s q f).tb = s.tb := by unfold modQueue; split <;> rfl
@[simp] theorem modQueue_sch (q : Nat) (f : Queue → Queue) : (modQueue s q f).sch = s.sch := by unfold modQueue; split <;> rfl
@[simp] theorem modQueue_sq (q : Nat) (f : Queue → Queue) : (modQueue s q f).sq = s.sq := by unfold modQueue; split <;> rfl
@[simp] theorem modQueue_cq (q : Nat) (f : Queue → Queue) : (modQueue s q f).cq = s.cq := by unfold modQueue; split <;> rfl
@[simp] theorem modQueue_mbx (q : Nat) (f : Queue → Queue) : (modQueue s q f).mbx = s.mbx := by unfold modQueue; split <;> rfl
@[simp] theorem modQueue_fw (q : Nat) (f : Queue → Queue) : (modQueue s q f).fw = s.fw := by unfold modQueue; split <;> rfl
@[simp] theorem modQueue_part (q : Nat) (f : Queue → Queue) : (modQueue s q f).part = s.part := by unfold modQueue; split <;> rfl
@[simp] theorem modQueue_resetDone (q : Nat) (f : Queue → Queue) : (modQueue s q f).resetDone = s.resetDone := by unfold modQueue; split <;> rfl
@[simp] theorem modQueue_brg (q : Nat) (f : Queue → Queue) : (modQueue s q f).brg = s.brg := by unfold modQueue; split <;> rfl
@[simp] theorem modQueue_port (q : Nat) (f : Queue → Queue) : (modQueue s q f).port = s.port := by unfold modQueue; split <;> rfl
@[simp] theorem modQueue_bb (q : Nat) (f : Queue → Queue) : (modQueue s q f).bb = s.bb := by unfold modQueue; split <;> rfl
@[simp] theorem modQueue_ep (q : Nat) (f : Queue → Queue) : (modQueue s q f).ep = s.ep := by unfold modQueue; split <;> rfl
@[simp] theorem modQueue_brt (q : Nat) (f : Queue → Queue) : (modQueue s q f).brt = s.brt := by unfold modQueue; split <;> rfl
@[simp] theorem modQueue_icu (q : Nat) (f : Queue → Queue) : (modQueue s q f).icu = s.icu := by unfold modQueue; split <;> rfl
@[simp] theorem modQueue_sec (q : Nat) (f : Queue → Queue) : (modQueue s q f).sec = s.sec := by unfold modQueue; split <;> rfl
@[simp] theorem modQueue_log (q : Nat) (f : Queue → Queue) : (modQueue s q f).log = s.log := by unfold modQueue; split <;> rfl
@[simp] theorem modQueue_bank (q : Nat) (f : Queue → Queue) : (modQueue s q f).bank = s.bank := by unfold modQueue; split <;> rfl
@[simp] theorem modQueue_bankMem (q : Nat) (f : Queue → Queue) : (modQueue s q f).bankMem = s.bankMem := by unfold modQueue; split <;> rfl
@[simp] theorem modQueue_hostMem (q : Nat) (f : Queue → Queue) : (modQueue s q f).hostMem = s.hostMem := by unfold modQueue; split <;> rfl
@[simp] theorem modQueue_hostBad (q : Nat) (f : Queue → Queue) : (modQueue s q f).hostBad = s.hostBad := by unfold modQueue; split <;> rfl
@[simp] theorem modQueue_hostBars (q : Nat) (f : Queue → Queue) : (modQueue s q f).hostBars = s.hostBars := by unfold modQueue; split <;> rfl
@[simp] theorem modQueue_glb (q : Nat) (f : Queue → Queue) : (modQueue s q f).glb = s.glb := by unfold modQueue; split <;> rfl
@[simp] theorem modQueue_out (q : Nat) (f : Queue → Queue) : (modQueue s q f).out = s.out := by unfold modQueue; split <;> rfl

/-! ## modDeck -/

@[simp] theorem modDeck_pending (f : Deck → Deck) : (modDeck s f).pending = s.pending := rfl
@[simp] theorem modDeck_freeCtr (f : Deck → Deck) : (modDeck s f).freeCtr = s.freeCtr := rfl
@[simp] theorem modDeck_pwr (f : Deck → Deck) : (modDeck s f).pwr = s.pwr := rfl
@[simp] theorem modDeck_vfEnable (f : Deck → Deck) : (modDeck s f).vfEnable = s.vfEnable := rfl
@[simp] theorem modDeck_tb (f : Deck → Deck) : (modDeck s f).tb = s.tb := rfl
@[simp] theorem modDeck_sch (f : Deck → Deck) : (modDeck s f).sch = s.sch := rfl
@[simp] theorem modDeck_sq (f : Deck → Deck) : (modDeck s f).sq = s.sq := rfl
@[simp] theorem modDeck_cq (f : Deck → Deck) : (modDeck s f).cq = s.cq := rfl
@[simp] theorem modDeck_mbx (f : Deck → Deck) : (modDeck s f).mbx = s.mbx := rfl
@[simp] theorem modDeck_fw (f : Deck → Deck) : (modDeck s f).fw = s.fw := rfl
@[simp] theorem modDeck_part (f : Deck → Deck) : (modDeck s f).part = s.part := rfl
@[simp] theorem modDeck_resetDone (f : Deck → Deck) : (modDeck s f).resetDone = s.resetDone := rfl
@[simp] theorem modDeck_brg (f : Deck → Deck) : (modDeck s f).brg = s.brg := rfl
@[simp] theorem modDeck_port (f : Deck → Deck) : (modDeck s f).port = s.port := rfl
@[simp] theorem modDeck_bb (f : Deck → Deck) : (modDeck s f).bb = s.bb := rfl
@[simp] theorem modDeck_ep (f : Deck → Deck) : (modDeck s f).ep = s.ep := rfl
@[simp] theorem modDeck_brt (f : Deck → Deck) : (modDeck s f).brt = s.brt := rfl
@[simp] theorem modDeck_icu (f : Deck → Deck) : (modDeck s f).icu = s.icu := rfl
@[simp] theorem modDeck_sec (f : Deck → Deck) : (modDeck s f).sec = s.sec := rfl
@[simp] theorem modDeck_log (f : Deck → Deck) : (modDeck s f).log = s.log := rfl
@[simp] theorem modDeck_bank (f : Deck → Deck) : (modDeck s f).bank = s.bank := rfl
@[simp] theorem modDeck_bankMem (f : Deck → Deck) : (modDeck s f).bankMem = s.bankMem := rfl
@[simp] theorem modDeck_hostMem (f : Deck → Deck) : (modDeck s f).hostMem = s.hostMem := rfl
@[simp] theorem modDeck_hostBad (f : Deck → Deck) : (modDeck s f).hostBad = s.hostBad := rfl
@[simp] theorem modDeck_hostBars (f : Deck → Deck) : (modDeck s f).hostBars = s.hostBars := rfl
@[simp] theorem modDeck_glb (f : Deck → Deck) : (modDeck s f).glb = s.glb := rfl
@[simp] theorem modDeck_out (f : Deck → Deck) : (modDeck s f).out = s.out := rfl

/-! ## modVoy -/

@[simp] theorem modVoy_pending (v : Nat) (f : Voyage → Voyage) : (modVoy s v f).pending = s.pending := by unfold modVoy; split <;> rfl
@[simp] theorem modVoy_freeCtr (v : Nat) (f : Voyage → Voyage) : (modVoy s v f).freeCtr = s.freeCtr := by unfold modVoy; split <;> rfl
@[simp] theorem modVoy_pwr (v : Nat) (f : Voyage → Voyage) : (modVoy s v f).pwr = s.pwr := by unfold modVoy; split <;> rfl
@[simp] theorem modVoy_vfEnable (v : Nat) (f : Voyage → Voyage) : (modVoy s v f).vfEnable = s.vfEnable := by unfold modVoy; split <;> rfl
@[simp] theorem modVoy_tb (v : Nat) (f : Voyage → Voyage) : (modVoy s v f).tb = s.tb := by unfold modVoy; split <;> rfl
@[simp] theorem modVoy_sq (v : Nat) (f : Voyage → Voyage) : (modVoy s v f).sq = s.sq := by unfold modVoy; split <;> rfl
@[simp] theorem modVoy_cq (v : Nat) (f : Voyage → Voyage) : (modVoy s v f).cq = s.cq := by unfold modVoy; split <;> rfl
@[simp] theorem modVoy_mbx (v : Nat) (f : Voyage → Voyage) : (modVoy s v f).mbx = s.mbx := by unfold modVoy; split <;> rfl
@[simp] theorem modVoy_fw (v : Nat) (f : Voyage → Voyage) : (modVoy s v f).fw = s.fw := by unfold modVoy; split <;> rfl
@[simp] theorem modVoy_part (v : Nat) (f : Voyage → Voyage) : (modVoy s v f).part = s.part := by unfold modVoy; split <;> rfl
@[simp] theorem modVoy_resetDone (v : Nat) (f : Voyage → Voyage) : (modVoy s v f).resetDone = s.resetDone := by unfold modVoy; split <;> rfl
@[simp] theorem modVoy_deck (v : Nat) (f : Voyage → Voyage) : (modVoy s v f).deck = s.deck := by unfold modVoy; split <;> rfl
@[simp] theorem modVoy_brg (v : Nat) (f : Voyage → Voyage) : (modVoy s v f).brg = s.brg := by unfold modVoy; split <;> rfl
@[simp] theorem modVoy_port (v : Nat) (f : Voyage → Voyage) : (modVoy s v f).port = s.port := by unfold modVoy; split <;> rfl
@[simp] theorem modVoy_bb (v : Nat) (f : Voyage → Voyage) : (modVoy s v f).bb = s.bb := by unfold modVoy; split <;> rfl
@[simp] theorem modVoy_ep (v : Nat) (f : Voyage → Voyage) : (modVoy s v f).ep = s.ep := by unfold modVoy; split <;> rfl
@[simp] theorem modVoy_brt (v : Nat) (f : Voyage → Voyage) : (modVoy s v f).brt = s.brt := by unfold modVoy; split <;> rfl
@[simp] theorem modVoy_icu (v : Nat) (f : Voyage → Voyage) : (modVoy s v f).icu = s.icu := by unfold modVoy; split <;> rfl
@[simp] theorem modVoy_sec (v : Nat) (f : Voyage → Voyage) : (modVoy s v f).sec = s.sec := by unfold modVoy; split <;> rfl
@[simp] theorem modVoy_log (v : Nat) (f : Voyage → Voyage) : (modVoy s v f).log = s.log := by unfold modVoy; split <;> rfl
@[simp] theorem modVoy_bank (v : Nat) (f : Voyage → Voyage) : (modVoy s v f).bank = s.bank := by unfold modVoy; split <;> rfl
@[simp] theorem modVoy_bankMem (v : Nat) (f : Voyage → Voyage) : (modVoy s v f).bankMem = s.bankMem := by unfold modVoy; split <;> rfl
@[simp] theorem modVoy_hostMem (v : Nat) (f : Voyage → Voyage) : (modVoy s v f).hostMem = s.hostMem := by unfold modVoy; split <;> rfl
@[simp] theorem modVoy_hostBad (v : Nat) (f : Voyage → Voyage) : (modVoy s v f).hostBad = s.hostBad := by unfold modVoy; split <;> rfl
@[simp] theorem modVoy_hostBars (v : Nat) (f : Voyage → Voyage) : (modVoy s v f).hostBars = s.hostBars := by unfold modVoy; split <;> rfl
@[simp] theorem modVoy_glb (v : Nat) (f : Voyage → Voyage) : (modVoy s v f).glb = s.glb := by unfold modVoy; split <;> rfl
@[simp] theorem modVoy_out (v : Nat) (f : Voyage → Voyage) : (modVoy s v f).out = s.out := by unfold modVoy; split <;> rfl

/-! ## modSch -/

@[simp] theorem modSch_pending (f : Sched → Sched) : (modSch s f).pending = s.pending := rfl
@[simp] theorem modSch_freeCtr (f : Sched → Sched) : (modSch s f).freeCtr = s.freeCtr := rfl
@[simp] theorem modSch_pwr (f : Sched → Sched) : (modSch s f).pwr = s.pwr := rfl
@[simp] theorem modSch_vfEnable (f : Sched → Sched) : (modSch s f).vfEnable = s.vfEnable := rfl
@[simp] theorem modSch_tb (f : Sched → Sched) : (modSch s f).tb = s.tb := rfl
@[simp] theorem modSch_sq (f : Sched → Sched) : (modSch s f).sq = s.sq := rfl
@[simp] theorem modSch_cq (f : Sched → Sched) : (modSch s f).cq = s.cq := rfl
@[simp] theorem modSch_mbx (f : Sched → Sched) : (modSch s f).mbx = s.mbx := rfl
@[simp] theorem modSch_fw (f : Sched → Sched) : (modSch s f).fw = s.fw := rfl
@[simp] theorem modSch_part (f : Sched → Sched) : (modSch s f).part = s.part := rfl
@[simp] theorem modSch_resetDone (f : Sched → Sched) : (modSch s f).resetDone = s.resetDone := rfl
@[simp] theorem modSch_deck (f : Sched → Sched) : (modSch s f).deck = s.deck := rfl
@[simp] theorem modSch_brg (f : Sched → Sched) : (modSch s f).brg = s.brg := rfl
@[simp] theorem modSch_port (f : Sched → Sched) : (modSch s f).port = s.port := rfl
@[simp] theorem modSch_bb (f : Sched → Sched) : (modSch s f).bb = s.bb := rfl
@[simp] theorem modSch_ep (f : Sched → Sched) : (modSch s f).ep = s.ep := rfl
@[simp] theorem modSch_brt (f : Sched → Sched) : (modSch s f).brt = s.brt := rfl
@[simp] theorem modSch_icu (f : Sched → Sched) : (modSch s f).icu = s.icu := rfl
@[simp] theorem modSch_sec (f : Sched → Sched) : (modSch s f).sec = s.sec := rfl
@[simp] theorem modSch_log (f : Sched → Sched) : (modSch s f).log = s.log := rfl
@[simp] theorem modSch_bank (f : Sched → Sched) : (modSch s f).bank = s.bank := rfl
@[simp] theorem modSch_bankMem (f : Sched → Sched) : (modSch s f).bankMem = s.bankMem := rfl
@[simp] theorem modSch_hostMem (f : Sched → Sched) : (modSch s f).hostMem = s.hostMem := rfl
@[simp] theorem modSch_hostBad (f : Sched → Sched) : (modSch s f).hostBad = s.hostBad := rfl
@[simp] theorem modSch_hostBars (f : Sched → Sched) : (modSch s f).hostBars = s.hostBars := rfl
@[simp] theorem modSch_glb (f : Sched → Sched) : (modSch s f).glb = s.glb := rfl
@[simp] theorem modSch_out (f : Sched → Sched) : (modSch s f).out = s.out := rfl

/-! ## modSq -/

@[simp] theorem modSq_pending (p n : Nat) (f : SubRing → SubRing) : (modSq s p n f).pending = s.pending := by unfold modSq; split <;> rfl
@[simp] theorem modSq_freeCtr (p n : Nat) (f : SubRing → SubRing) : (modSq s p n f).freeCtr = s.freeCtr := by unfold modSq; split <;> rfl
@[simp] theorem modSq_pwr (p n : Nat) (f : SubRing → SubRing) : (modSq s p n f).pwr = s.pwr := by unfold modSq; split <;> rfl
@[simp] theorem modSq_vfEnable (p n : Nat) (f : SubRing → SubRing) : (modSq s p n f).vfEnable = s.vfEnable := by unfold modSq; split <;> rfl
@[simp] theorem modSq_tb (p n : Nat) (f : SubRing → SubRing) : (modSq s p n f).tb = s.tb := by unfold modSq; split <;> rfl
@[simp] theorem modSq_sch (p n : Nat) (f : SubRing → SubRing) : (modSq s p n f).sch = s.sch := by unfold modSq; split <;> rfl
@[simp] theorem modSq_cq (p n : Nat) (f : SubRing → SubRing) : (modSq s p n f).cq = s.cq := by unfold modSq; split <;> rfl
@[simp] theorem modSq_mbx (p n : Nat) (f : SubRing → SubRing) : (modSq s p n f).mbx = s.mbx := by unfold modSq; split <;> rfl
@[simp] theorem modSq_fw (p n : Nat) (f : SubRing → SubRing) : (modSq s p n f).fw = s.fw := by unfold modSq; split <;> rfl
@[simp] theorem modSq_part (p n : Nat) (f : SubRing → SubRing) : (modSq s p n f).part = s.part := by unfold modSq; split <;> rfl
@[simp] theorem modSq_resetDone (p n : Nat) (f : SubRing → SubRing) : (modSq s p n f).resetDone = s.resetDone := by unfold modSq; split <;> rfl
@[simp] theorem modSq_deck (p n : Nat) (f : SubRing → SubRing) : (modSq s p n f).deck = s.deck := by unfold modSq; split <;> rfl
@[simp] theorem modSq_brg (p n : Nat) (f : SubRing → SubRing) : (modSq s p n f).brg = s.brg := by unfold modSq; split <;> rfl
@[simp] theorem modSq_port (p n : Nat) (f : SubRing → SubRing) : (modSq s p n f).port = s.port := by unfold modSq; split <;> rfl
@[simp] theorem modSq_bb (p n : Nat) (f : SubRing → SubRing) : (modSq s p n f).bb = s.bb := by unfold modSq; split <;> rfl
@[simp] theorem modSq_ep (p n : Nat) (f : SubRing → SubRing) : (modSq s p n f).ep = s.ep := by unfold modSq; split <;> rfl
@[simp] theorem modSq_brt (p n : Nat) (f : SubRing → SubRing) : (modSq s p n f).brt = s.brt := by unfold modSq; split <;> rfl
@[simp] theorem modSq_icu (p n : Nat) (f : SubRing → SubRing) : (modSq s p n f).icu = s.icu := by unfold modSq; split <;> rfl
@[simp] theorem modSq_sec (p n : Nat) (f : SubRing → SubRing) : (modSq s p n f).sec = s.sec := by unfold modSq; split <;> rfl
@[simp] theorem modSq_log (p n : Nat) (f : SubRing → SubRing) : (modSq s p n f).log = s.log := by unfold modSq; split <;> rfl
@[simp] theorem modSq_bank (p n : Nat) (f : SubRing → SubRing) : (modSq s p n f).bank = s.bank := by unfold modSq; split <;> rfl
@[simp] theorem modSq_bankMem (p n : Nat) (f : SubRing → SubRing) : (modSq s p n f).bankMem = s.bankMem := by unfold modSq; split <;> rfl
@[simp] theorem modSq_hostMem (p n : Nat) (f : SubRing → SubRing) : (modSq s p n f).hostMem = s.hostMem := by unfold modSq; split <;> rfl
@[simp] theorem modSq_hostBad (p n : Nat) (f : SubRing → SubRing) : (modSq s p n f).hostBad = s.hostBad := by unfold modSq; split <;> rfl
@[simp] theorem modSq_hostBars (p n : Nat) (f : SubRing → SubRing) : (modSq s p n f).hostBars = s.hostBars := by unfold modSq; split <;> rfl
@[simp] theorem modSq_glb (p n : Nat) (f : SubRing → SubRing) : (modSq s p n f).glb = s.glb := by unfold modSq; split <;> rfl
@[simp] theorem modSq_out (p n : Nat) (f : SubRing → SubRing) : (modSq s p n f).out = s.out := by unfold modSq; split <;> rfl

/-! ## modCq -/

@[simp] theorem modCq_pending (p m : Nat) (f : CompRing → CompRing) : (modCq s p m f).pending = s.pending := by unfold modCq; split <;> rfl
@[simp] theorem modCq_freeCtr (p m : Nat) (f : CompRing → CompRing) : (modCq s p m f).freeCtr = s.freeCtr := by unfold modCq; split <;> rfl
@[simp] theorem modCq_pwr (p m : Nat) (f : CompRing → CompRing) : (modCq s p m f).pwr = s.pwr := by unfold modCq; split <;> rfl
@[simp] theorem modCq_vfEnable (p m : Nat) (f : CompRing → CompRing) : (modCq s p m f).vfEnable = s.vfEnable := by unfold modCq; split <;> rfl
@[simp] theorem modCq_tb (p m : Nat) (f : CompRing → CompRing) : (modCq s p m f).tb = s.tb := by unfold modCq; split <;> rfl
@[simp] theorem modCq_sch (p m : Nat) (f : CompRing → CompRing) : (modCq s p m f).sch = s.sch := by unfold modCq; split <;> rfl
@[simp] theorem modCq_sq (p m : Nat) (f : CompRing → CompRing) : (modCq s p m f).sq = s.sq := by unfold modCq; split <;> rfl
@[simp] theorem modCq_mbx (p m : Nat) (f : CompRing → CompRing) : (modCq s p m f).mbx = s.mbx := by unfold modCq; split <;> rfl
@[simp] theorem modCq_fw (p m : Nat) (f : CompRing → CompRing) : (modCq s p m f).fw = s.fw := by unfold modCq; split <;> rfl
@[simp] theorem modCq_part (p m : Nat) (f : CompRing → CompRing) : (modCq s p m f).part = s.part := by unfold modCq; split <;> rfl
@[simp] theorem modCq_resetDone (p m : Nat) (f : CompRing → CompRing) : (modCq s p m f).resetDone = s.resetDone := by unfold modCq; split <;> rfl
@[simp] theorem modCq_deck (p m : Nat) (f : CompRing → CompRing) : (modCq s p m f).deck = s.deck := by unfold modCq; split <;> rfl
@[simp] theorem modCq_brg (p m : Nat) (f : CompRing → CompRing) : (modCq s p m f).brg = s.brg := by unfold modCq; split <;> rfl
@[simp] theorem modCq_port (p m : Nat) (f : CompRing → CompRing) : (modCq s p m f).port = s.port := by unfold modCq; split <;> rfl
@[simp] theorem modCq_bb (p m : Nat) (f : CompRing → CompRing) : (modCq s p m f).bb = s.bb := by unfold modCq; split <;> rfl
@[simp] theorem modCq_ep (p m : Nat) (f : CompRing → CompRing) : (modCq s p m f).ep = s.ep := by unfold modCq; split <;> rfl
@[simp] theorem modCq_brt (p m : Nat) (f : CompRing → CompRing) : (modCq s p m f).brt = s.brt := by unfold modCq; split <;> rfl
@[simp] theorem modCq_icu (p m : Nat) (f : CompRing → CompRing) : (modCq s p m f).icu = s.icu := by unfold modCq; split <;> rfl
@[simp] theorem modCq_sec (p m : Nat) (f : CompRing → CompRing) : (modCq s p m f).sec = s.sec := by unfold modCq; split <;> rfl
@[simp] theorem modCq_log (p m : Nat) (f : CompRing → CompRing) : (modCq s p m f).log = s.log := by unfold modCq; split <;> rfl
@[simp] theorem modCq_bank (p m : Nat) (f : CompRing → CompRing) : (modCq s p m f).bank = s.bank := by unfold modCq; split <;> rfl
@[simp] theorem modCq_bankMem (p m : Nat) (f : CompRing → CompRing) : (modCq s p m f).bankMem = s.bankMem := by unfold modCq; split <;> rfl
@[simp] theorem modCq_hostMem (p m : Nat) (f : CompRing → CompRing) : (modCq s p m f).hostMem = s.hostMem := by unfold modCq; split <;> rfl
@[simp] theorem modCq_hostBad (p m : Nat) (f : CompRing → CompRing) : (modCq s p m f).hostBad = s.hostBad := by unfold modCq; split <;> rfl
@[simp] theorem modCq_hostBars (p m : Nat) (f : CompRing → CompRing) : (modCq s p m f).hostBars = s.hostBars := by unfold modCq; split <;> rfl
@[simp] theorem modCq_glb (p m : Nat) (f : CompRing → CompRing) : (modCq s p m f).glb = s.glb := by unfold modCq; split <;> rfl
@[simp] theorem modCq_out (p m : Nat) (f : CompRing → CompRing) : (modCq s p m f).out = s.out := by unfold modCq; split <;> rfl

/-! ## modBb -/

@[simp] theorem modBb_pending (n : Nat) (f : Backbone → Backbone) : (modBb s n f).pending = s.pending := rfl
@[simp] theorem modBb_freeCtr (n : Nat) (f : Backbone → Backbone) : (modBb s n f).freeCtr = s.freeCtr := rfl
@[simp] theorem modBb_pwr (n : Nat) (f : Backbone → Backbone) : (modBb s n f).pwr = s.pwr := rfl
@[simp] theorem modBb_vfEnable (n : Nat) (f : Backbone → Backbone) : (modBb s n f).vfEnable = s.vfEnable := rfl
@[simp] theorem modBb_tb (n : Nat) (f : Backbone → Backbone) : (modBb s n f).tb = s.tb := rfl
@[simp] theorem modBb_sch (n : Nat) (f : Backbone → Backbone) : (modBb s n f).sch = s.sch := rfl
@[simp] theorem modBb_sq (n : Nat) (f : Backbone → Backbone) : (modBb s n f).sq = s.sq := rfl
@[simp] theorem modBb_cq (n : Nat) (f : Backbone → Backbone) : (modBb s n f).cq = s.cq := rfl
@[simp] theorem modBb_mbx (n : Nat) (f : Backbone → Backbone) : (modBb s n f).mbx = s.mbx := rfl
@[simp] theorem modBb_fw (n : Nat) (f : Backbone → Backbone) : (modBb s n f).fw = s.fw := rfl
@[simp] theorem modBb_part (n : Nat) (f : Backbone → Backbone) : (modBb s n f).part = s.part := rfl
@[simp] theorem modBb_resetDone (n : Nat) (f : Backbone → Backbone) : (modBb s n f).resetDone = s.resetDone := rfl
@[simp] theorem modBb_deck (n : Nat) (f : Backbone → Backbone) : (modBb s n f).deck = s.deck := rfl
@[simp] theorem modBb_brg (n : Nat) (f : Backbone → Backbone) : (modBb s n f).brg = s.brg := rfl
@[simp] theorem modBb_port (n : Nat) (f : Backbone → Backbone) : (modBb s n f).port = s.port := rfl
@[simp] theorem modBb_ep (n : Nat) (f : Backbone → Backbone) : (modBb s n f).ep = s.ep := rfl
@[simp] theorem modBb_brt (n : Nat) (f : Backbone → Backbone) : (modBb s n f).brt = s.brt := rfl
@[simp] theorem modBb_icu (n : Nat) (f : Backbone → Backbone) : (modBb s n f).icu = s.icu := rfl
@[simp] theorem modBb_sec (n : Nat) (f : Backbone → Backbone) : (modBb s n f).sec = s.sec := rfl
@[simp] theorem modBb_log (n : Nat) (f : Backbone → Backbone) : (modBb s n f).log = s.log := rfl
@[simp] theorem modBb_bank (n : Nat) (f : Backbone → Backbone) : (modBb s n f).bank = s.bank := rfl
@[simp] theorem modBb_bankMem (n : Nat) (f : Backbone → Backbone) : (modBb s n f).bankMem = s.bankMem := rfl
@[simp] theorem modBb_hostMem (n : Nat) (f : Backbone → Backbone) : (modBb s n f).hostMem = s.hostMem := rfl
@[simp] theorem modBb_hostBad (n : Nat) (f : Backbone → Backbone) : (modBb s n f).hostBad = s.hostBad := rfl
@[simp] theorem modBb_hostBars (n : Nat) (f : Backbone → Backbone) : (modBb s n f).hostBars = s.hostBars := rfl
@[simp] theorem modBb_glb (n : Nat) (f : Backbone → Backbone) : (modBb s n f).glb = s.glb := rfl
@[simp] theorem modBb_out (n : Nat) (f : Backbone → Backbone) : (modBb s n f).out = s.out := rfl

/-! ## modIcu -/

@[simp] theorem modIcu_pending (f : Icu → Icu) : (modIcu s f).pending = s.pending := rfl
@[simp] theorem modIcu_freeCtr (f : Icu → Icu) : (modIcu s f).freeCtr = s.freeCtr := rfl
@[simp] theorem modIcu_pwr (f : Icu → Icu) : (modIcu s f).pwr = s.pwr := rfl
@[simp] theorem modIcu_vfEnable (f : Icu → Icu) : (modIcu s f).vfEnable = s.vfEnable := rfl
@[simp] theorem modIcu_tb (f : Icu → Icu) : (modIcu s f).tb = s.tb := rfl
@[simp] theorem modIcu_sch (f : Icu → Icu) : (modIcu s f).sch = s.sch := rfl
@[simp] theorem modIcu_sq (f : Icu → Icu) : (modIcu s f).sq = s.sq := rfl
@[simp] theorem modIcu_cq (f : Icu → Icu) : (modIcu s f).cq = s.cq := rfl
@[simp] theorem modIcu_mbx (f : Icu → Icu) : (modIcu s f).mbx = s.mbx := rfl
@[simp] theorem modIcu_fw (f : Icu → Icu) : (modIcu s f).fw = s.fw := rfl
@[simp] theorem modIcu_part (f : Icu → Icu) : (modIcu s f).part = s.part := rfl
@[simp] theorem modIcu_resetDone (f : Icu → Icu) : (modIcu s f).resetDone = s.resetDone := rfl
@[simp] theorem modIcu_deck (f : Icu → Icu) : (modIcu s f).deck = s.deck := rfl
@[simp] theorem modIcu_brg (f : Icu → Icu) : (modIcu s f).brg = s.brg := rfl
@[simp] theorem modIcu_port (f : Icu → Icu) : (modIcu s f).port = s.port := rfl
@[simp] theorem modIcu_bb (f : Icu → Icu) : (modIcu s f).bb = s.bb := rfl
@[simp] theorem modIcu_ep (f : Icu → Icu) : (modIcu s f).ep = s.ep := rfl
@[simp] theorem modIcu_brt (f : Icu → Icu) : (modIcu s f).brt = s.brt := rfl
@[simp] theorem modIcu_sec (f : Icu → Icu) : (modIcu s f).sec = s.sec := rfl
@[simp] theorem modIcu_log (f : Icu → Icu) : (modIcu s f).log = s.log := rfl
@[simp] theorem modIcu_bank (f : Icu → Icu) : (modIcu s f).bank = s.bank := rfl
@[simp] theorem modIcu_bankMem (f : Icu → Icu) : (modIcu s f).bankMem = s.bankMem := rfl
@[simp] theorem modIcu_hostMem (f : Icu → Icu) : (modIcu s f).hostMem = s.hostMem := rfl
@[simp] theorem modIcu_hostBad (f : Icu → Icu) : (modIcu s f).hostBad = s.hostBad := rfl
@[simp] theorem modIcu_hostBars (f : Icu → Icu) : (modIcu s f).hostBars = s.hostBars := rfl
@[simp] theorem modIcu_glb (f : Icu → Icu) : (modIcu s f).glb = s.glb := rfl
@[simp] theorem modIcu_out (f : Icu → Icu) : (modIcu s f).out = s.out := rfl

/-! ## modTarget -/

@[simp] theorem modTarget_pending (t : Nat) (f : Target → Target) : (modTarget s t f).pending = s.pending := rfl
@[simp] theorem modTarget_freeCtr (t : Nat) (f : Target → Target) : (modTarget s t f).freeCtr = s.freeCtr := rfl
@[simp] theorem modTarget_pwr (t : Nat) (f : Target → Target) : (modTarget s t f).pwr = s.pwr := rfl
@[simp] theorem modTarget_vfEnable (t : Nat) (f : Target → Target) : (modTarget s t f).vfEnable = s.vfEnable := rfl
@[simp] theorem modTarget_tb (t : Nat) (f : Target → Target) : (modTarget s t f).tb = s.tb := rfl
@[simp] theorem modTarget_sch (t : Nat) (f : Target → Target) : (modTarget s t f).sch = s.sch := rfl
@[simp] theorem modTarget_sq (t : Nat) (f : Target → Target) : (modTarget s t f).sq = s.sq := rfl
@[simp] theorem modTarget_cq (t : Nat) (f : Target → Target) : (modTarget s t f).cq = s.cq := rfl
@[simp] theorem modTarget_mbx (t : Nat) (f : Target → Target) : (modTarget s t f).mbx = s.mbx := rfl
@[simp] theorem modTarget_fw (t : Nat) (f : Target → Target) : (modTarget s t f).fw = s.fw := rfl
@[simp] theorem modTarget_part (t : Nat) (f : Target → Target) : (modTarget s t f).part = s.part := rfl
@[simp] theorem modTarget_resetDone (t : Nat) (f : Target → Target) : (modTarget s t f).resetDone = s.resetDone := rfl
@[simp] theorem modTarget_deck (t : Nat) (f : Target → Target) : (modTarget s t f).deck = s.deck := rfl
@[simp] theorem modTarget_brg (t : Nat) (f : Target → Target) : (modTarget s t f).brg = s.brg := rfl
@[simp] theorem modTarget_port (t : Nat) (f : Target → Target) : (modTarget s t f).port = s.port := rfl
@[simp] theorem modTarget_bb (t : Nat) (f : Target → Target) : (modTarget s t f).bb = s.bb := rfl
@[simp] theorem modTarget_ep (t : Nat) (f : Target → Target) : (modTarget s t f).ep = s.ep := rfl
@[simp] theorem modTarget_brt (t : Nat) (f : Target → Target) : (modTarget s t f).brt = s.brt := rfl
@[simp] theorem modTarget_sec (t : Nat) (f : Target → Target) : (modTarget s t f).sec = s.sec := rfl
@[simp] theorem modTarget_log (t : Nat) (f : Target → Target) : (modTarget s t f).log = s.log := rfl
@[simp] theorem modTarget_bank (t : Nat) (f : Target → Target) : (modTarget s t f).bank = s.bank := rfl
@[simp] theorem modTarget_bankMem (t : Nat) (f : Target → Target) : (modTarget s t f).bankMem = s.bankMem := rfl
@[simp] theorem modTarget_hostMem (t : Nat) (f : Target → Target) : (modTarget s t f).hostMem = s.hostMem := rfl
@[simp] theorem modTarget_hostBad (t : Nat) (f : Target → Target) : (modTarget s t f).hostBad = s.hostBad := rfl
@[simp] theorem modTarget_hostBars (t : Nat) (f : Target → Target) : (modTarget s t f).hostBars = s.hostBars := rfl
@[simp] theorem modTarget_glb (t : Nat) (f : Target → Target) : (modTarget s t f).glb = s.glb := rfl
@[simp] theorem modTarget_out (t : Nat) (f : Target → Target) : (modTarget s t f).out = s.out := rfl

/-! ## modTb -/

@[simp] theorem modTb_pending (f : Timebase → Timebase) : (modTb s f).pending = s.pending := rfl
@[simp] theorem modTb_freeCtr (f : Timebase → Timebase) : (modTb s f).freeCtr = s.freeCtr := rfl
@[simp] theorem modTb_pwr (f : Timebase → Timebase) : (modTb s f).pwr = s.pwr := rfl
@[simp] theorem modTb_vfEnable (f : Timebase → Timebase) : (modTb s f).vfEnable = s.vfEnable := rfl
@[simp] theorem modTb_sch (f : Timebase → Timebase) : (modTb s f).sch = s.sch := rfl
@[simp] theorem modTb_sq (f : Timebase → Timebase) : (modTb s f).sq = s.sq := rfl
@[simp] theorem modTb_cq (f : Timebase → Timebase) : (modTb s f).cq = s.cq := rfl
@[simp] theorem modTb_mbx (f : Timebase → Timebase) : (modTb s f).mbx = s.mbx := rfl
@[simp] theorem modTb_fw (f : Timebase → Timebase) : (modTb s f).fw = s.fw := rfl
@[simp] theorem modTb_part (f : Timebase → Timebase) : (modTb s f).part = s.part := rfl
@[simp] theorem modTb_resetDone (f : Timebase → Timebase) : (modTb s f).resetDone = s.resetDone := rfl
@[simp] theorem modTb_deck (f : Timebase → Timebase) : (modTb s f).deck = s.deck := rfl
@[simp] theorem modTb_brg (f : Timebase → Timebase) : (modTb s f).brg = s.brg := rfl
@[simp] theorem modTb_port (f : Timebase → Timebase) : (modTb s f).port = s.port := rfl
@[simp] theorem modTb_bb (f : Timebase → Timebase) : (modTb s f).bb = s.bb := rfl
@[simp] theorem modTb_ep (f : Timebase → Timebase) : (modTb s f).ep = s.ep := rfl
@[simp] theorem modTb_brt (f : Timebase → Timebase) : (modTb s f).brt = s.brt := rfl
@[simp] theorem modTb_icu (f : Timebase → Timebase) : (modTb s f).icu = s.icu := rfl
@[simp] theorem modTb_sec (f : Timebase → Timebase) : (modTb s f).sec = s.sec := rfl
@[simp] theorem modTb_log (f : Timebase → Timebase) : (modTb s f).log = s.log := rfl
@[simp] theorem modTb_bank (f : Timebase → Timebase) : (modTb s f).bank = s.bank := rfl
@[simp] theorem modTb_bankMem (f : Timebase → Timebase) : (modTb s f).bankMem = s.bankMem := rfl
@[simp] theorem modTb_hostMem (f : Timebase → Timebase) : (modTb s f).hostMem = s.hostMem := rfl
@[simp] theorem modTb_hostBad (f : Timebase → Timebase) : (modTb s f).hostBad = s.hostBad := rfl
@[simp] theorem modTb_hostBars (f : Timebase → Timebase) : (modTb s f).hostBars = s.hostBars := rfl
@[simp] theorem modTb_glb (f : Timebase → Timebase) : (modTb s f).glb = s.glb := rfl
@[simp] theorem modTb_out (f : Timebase → Timebase) : (modTb s f).out = s.out := rfl

/-! ## modLog -/

@[simp] theorem modLog_pending (f : Logbook → Logbook) : (modLog s f).pending = s.pending := rfl
@[simp] theorem modLog_freeCtr (f : Logbook → Logbook) : (modLog s f).freeCtr = s.freeCtr := rfl
@[simp] theorem modLog_pwr (f : Logbook → Logbook) : (modLog s f).pwr = s.pwr := rfl
@[simp] theorem modLog_vfEnable (f : Logbook → Logbook) : (modLog s f).vfEnable = s.vfEnable := rfl
@[simp] theorem modLog_tb (f : Logbook → Logbook) : (modLog s f).tb = s.tb := rfl
@[simp] theorem modLog_sch (f : Logbook → Logbook) : (modLog s f).sch = s.sch := rfl
@[simp] theorem modLog_sq (f : Logbook → Logbook) : (modLog s f).sq = s.sq := rfl
@[simp] theorem modLog_cq (f : Logbook → Logbook) : (modLog s f).cq = s.cq := rfl
@[simp] theorem modLog_mbx (f : Logbook → Logbook) : (modLog s f).mbx = s.mbx := rfl
@[simp] theorem modLog_fw (f : Logbook → Logbook) : (modLog s f).fw = s.fw := rfl
@[simp] theorem modLog_part (f : Logbook → Logbook) : (modLog s f).part = s.part := rfl
@[simp] theorem modLog_resetDone (f : Logbook → Logbook) : (modLog s f).resetDone = s.resetDone := rfl
@[simp] theorem modLog_deck (f : Logbook → Logbook) : (modLog s f).deck = s.deck := rfl
@[simp] theorem modLog_brg (f : Logbook → Logbook) : (modLog s f).brg = s.brg := rfl
@[simp] theorem modLog_port (f : Logbook → Logbook) : (modLog s f).port = s.port := rfl
@[simp] theorem modLog_bb (f : Logbook → Logbook) : (modLog s f).bb = s.bb := rfl
@[simp] theorem modLog_ep (f : Logbook → Logbook) : (modLog s f).ep = s.ep := rfl
@[simp] theorem modLog_brt (f : Logbook → Logbook) : (modLog s f).brt = s.brt := rfl
@[simp] theorem modLog_icu (f : Logbook → Logbook) : (modLog s f).icu = s.icu := rfl
@[simp] theorem modLog_sec (f : Logbook → Logbook) : (modLog s f).sec = s.sec := rfl
@[simp] theorem modLog_bank (f : Logbook → Logbook) : (modLog s f).bank = s.bank := rfl
@[simp] theorem modLog_bankMem (f : Logbook → Logbook) : (modLog s f).bankMem = s.bankMem := rfl
@[simp] theorem modLog_hostMem (f : Logbook → Logbook) : (modLog s f).hostMem = s.hostMem := rfl
@[simp] theorem modLog_hostBad (f : Logbook → Logbook) : (modLog s f).hostBad = s.hostBad := rfl
@[simp] theorem modLog_hostBars (f : Logbook → Logbook) : (modLog s f).hostBars = s.hostBars := rfl
@[simp] theorem modLog_glb (f : Logbook → Logbook) : (modLog s f).glb = s.glb := rfl
@[simp] theorem modLog_out (f : Logbook → Logbook) : (modLog s f).out = s.out := rfl

/-! ## modPwr -/

@[simp] theorem modPwr_pending (f : Power → Power) : (modPwr s f).pending = s.pending := rfl
@[simp] theorem modPwr_freeCtr (f : Power → Power) : (modPwr s f).freeCtr = s.freeCtr := rfl
@[simp] theorem modPwr_vfEnable (f : Power → Power) : (modPwr s f).vfEnable = s.vfEnable := rfl
@[simp] theorem modPwr_tb (f : Power → Power) : (modPwr s f).tb = s.tb := rfl
@[simp] theorem modPwr_sch (f : Power → Power) : (modPwr s f).sch = s.sch := rfl
@[simp] theorem modPwr_sq (f : Power → Power) : (modPwr s f).sq = s.sq := rfl
@[simp] theorem modPwr_cq (f : Power → Power) : (modPwr s f).cq = s.cq := rfl
@[simp] theorem modPwr_mbx (f : Power → Power) : (modPwr s f).mbx = s.mbx := rfl
@[simp] theorem modPwr_fw (f : Power → Power) : (modPwr s f).fw = s.fw := rfl
@[simp] theorem modPwr_part (f : Power → Power) : (modPwr s f).part = s.part := rfl
@[simp] theorem modPwr_resetDone (f : Power → Power) : (modPwr s f).resetDone = s.resetDone := rfl
@[simp] theorem modPwr_deck (f : Power → Power) : (modPwr s f).deck = s.deck := rfl
@[simp] theorem modPwr_brg (f : Power → Power) : (modPwr s f).brg = s.brg := rfl
@[simp] theorem modPwr_port (f : Power → Power) : (modPwr s f).port = s.port := rfl
@[simp] theorem modPwr_bb (f : Power → Power) : (modPwr s f).bb = s.bb := rfl
@[simp] theorem modPwr_ep (f : Power → Power) : (modPwr s f).ep = s.ep := rfl
@[simp] theorem modPwr_brt (f : Power → Power) : (modPwr s f).brt = s.brt := rfl
@[simp] theorem modPwr_icu (f : Power → Power) : (modPwr s f).icu = s.icu := rfl
@[simp] theorem modPwr_sec (f : Power → Power) : (modPwr s f).sec = s.sec := rfl
@[simp] theorem modPwr_log (f : Power → Power) : (modPwr s f).log = s.log := rfl
@[simp] theorem modPwr_bank (f : Power → Power) : (modPwr s f).bank = s.bank := rfl
@[simp] theorem modPwr_bankMem (f : Power → Power) : (modPwr s f).bankMem = s.bankMem := rfl
@[simp] theorem modPwr_hostMem (f : Power → Power) : (modPwr s f).hostMem = s.hostMem := rfl
@[simp] theorem modPwr_hostBad (f : Power → Power) : (modPwr s f).hostBad = s.hostBad := rfl
@[simp] theorem modPwr_hostBars (f : Power → Power) : (modPwr s f).hostBars = s.hostBars := rfl
@[simp] theorem modPwr_glb (f : Power → Power) : (modPwr s f).glb = s.glb := rfl
@[simp] theorem modPwr_out (f : Power → Power) : (modPwr s f).out = s.out := rfl

/-! ## setFault -/

@[simp] theorem setFault_pending (k : Nat) : (setFault s k).pending = s.pending := rfl
@[simp] theorem setFault_freeCtr (k : Nat) : (setFault s k).freeCtr = s.freeCtr := rfl
@[simp] theorem setFault_vfEnable (k : Nat) : (setFault s k).vfEnable = s.vfEnable := rfl
@[simp] theorem setFault_tb (k : Nat) : (setFault s k).tb = s.tb := rfl
@[simp] theorem setFault_sch (k : Nat) : (setFault s k).sch = s.sch := rfl
@[simp] theorem setFault_sq (k : Nat) : (setFault s k).sq = s.sq := rfl
@[simp] theorem setFault_cq (k : Nat) : (setFault s k).cq = s.cq := rfl
@[simp] theorem setFault_mbx (k : Nat) : (setFault s k).mbx = s.mbx := rfl
@[simp] theorem setFault_fw (k : Nat) : (setFault s k).fw = s.fw := rfl
@[simp] theorem setFault_part (k : Nat) : (setFault s k).part = s.part := rfl
@[simp] theorem setFault_resetDone (k : Nat) : (setFault s k).resetDone = s.resetDone := rfl
@[simp] theorem setFault_deck (k : Nat) : (setFault s k).deck = s.deck := rfl
@[simp] theorem setFault_brg (k : Nat) : (setFault s k).brg = s.brg := rfl
@[simp] theorem setFault_port (k : Nat) : (setFault s k).port = s.port := rfl
@[simp] theorem setFault_bb (k : Nat) : (setFault s k).bb = s.bb := rfl
@[simp] theorem setFault_ep (k : Nat) : (setFault s k).ep = s.ep := rfl
@[simp] theorem setFault_brt (k : Nat) : (setFault s k).brt = s.brt := rfl
@[simp] theorem setFault_icu (k : Nat) : (setFault s k).icu = s.icu := rfl
@[simp] theorem setFault_sec (k : Nat) : (setFault s k).sec = s.sec := rfl
@[simp] theorem setFault_log (k : Nat) : (setFault s k).log = s.log := rfl
@[simp] theorem setFault_bank (k : Nat) : (setFault s k).bank = s.bank := rfl
@[simp] theorem setFault_bankMem (k : Nat) : (setFault s k).bankMem = s.bankMem := rfl
@[simp] theorem setFault_hostMem (k : Nat) : (setFault s k).hostMem = s.hostMem := rfl
@[simp] theorem setFault_hostBad (k : Nat) : (setFault s k).hostBad = s.hostBad := rfl
@[simp] theorem setFault_hostBars (k : Nat) : (setFault s k).hostBars = s.hostBars := rfl
@[simp] theorem setFault_glb (k : Nat) : (setFault s k).glb = s.glb := rfl
@[simp] theorem setFault_out (k : Nat) : (setFault s k).out = s.out := rfl

/-! ## modFw -/

@[simp] theorem modFw_pending (f : Firmware → Firmware) : (modFw s f).pending = s.pending := rfl
@[simp] theorem modFw_freeCtr (f : Firmware → Firmware) : (modFw s f).freeCtr = s.freeCtr := rfl
@[simp] theorem modFw_pwr (f : Firmware → Firmware) : (modFw s f).pwr = s.pwr := rfl
@[simp] theorem modFw_vfEnable (f : Firmware → Firmware) : (modFw s f).vfEnable = s.vfEnable := rfl
@[simp] theorem modFw_tb (f : Firmware → Firmware) : (modFw s f).tb = s.tb := rfl
@[simp] theorem modFw_sch (f : Firmware → Firmware) : (modFw s f).sch = s.sch := rfl
@[simp] theorem modFw_sq (f : Firmware → Firmware) : (modFw s f).sq = s.sq := rfl
@[simp] theorem modFw_cq (f : Firmware → Firmware) : (modFw s f).cq = s.cq := rfl
@[simp] theorem modFw_mbx (f : Firmware → Firmware) : (modFw s f).mbx = s.mbx := rfl
@[simp] theorem modFw_part (f : Firmware → Firmware) : (modFw s f).part = s.part := rfl
@[simp] theorem modFw_resetDone (f : Firmware → Firmware) : (modFw s f).resetDone = s.resetDone := rfl
@[simp] theorem modFw_deck (f : Firmware → Firmware) : (modFw s f).deck = s.deck := rfl
@[simp] theorem modFw_brg (f : Firmware → Firmware) : (modFw s f).brg = s.brg := rfl
@[simp] theorem modFw_port (f : Firmware → Firmware) : (modFw s f).port = s.port := rfl
@[simp] theorem modFw_bb (f : Firmware → Firmware) : (modFw s f).bb = s.bb := rfl
@[simp] theorem modFw_ep (f : Firmware → Firmware) : (modFw s f).ep = s.ep := rfl
@[simp] theorem modFw_brt (f : Firmware → Firmware) : (modFw s f).brt = s.brt := rfl
@[simp] theorem modFw_icu (f : Firmware → Firmware) : (modFw s f).icu = s.icu := rfl
@[simp] theorem modFw_sec (f : Firmware → Firmware) : (modFw s f).sec = s.sec := rfl
@[simp] theorem modFw_log (f : Firmware → Firmware) : (modFw s f).log = s.log := rfl
@[simp] theorem modFw_bank (f : Firmware → Firmware) : (modFw s f).bank = s.bank := rfl
@[simp] theorem modFw_bankMem (f : Firmware → Firmware) : (modFw s f).bankMem = s.bankMem := rfl
@[simp] theorem modFw_hostMem (f : Firmware → Firmware) : (modFw s f).hostMem = s.hostMem := rfl
@[simp] theorem modFw_hostBad (f : Firmware → Firmware) : (modFw s f).hostBad = s.hostBad := rfl
@[simp] theorem modFw_hostBars (f : Firmware → Firmware) : (modFw s f).hostBars = s.hostBars := rfl
@[simp] theorem modFw_glb (f : Firmware → Firmware) : (modFw s f).glb = s.glb := rfl
@[simp] theorem modFw_out (f : Firmware → Firmware) : (modFw s f).out = s.out := rfl

/-! ## modGlb -/

@[simp] theorem modGlb_pending (f : GlobalRegs → GlobalRegs) : (modGlb s f).pending = s.pending := rfl
@[simp] theorem modGlb_freeCtr (f : GlobalRegs → GlobalRegs) : (modGlb s f).freeCtr = s.freeCtr := rfl
@[simp] theorem modGlb_pwr (f : GlobalRegs → GlobalRegs) : (modGlb s f).pwr = s.pwr := rfl
@[simp] theorem modGlb_vfEnable (f : GlobalRegs → GlobalRegs) : (modGlb s f).vfEnable = s.vfEnable := rfl
@[simp] theorem modGlb_tb (f : GlobalRegs → GlobalRegs) : (modGlb s f).tb = s.tb := rfl
@[simp] theorem modGlb_sch (f : GlobalRegs → GlobalRegs) : (modGlb s f).sch = s.sch := rfl
@[simp] theorem modGlb_sq (f : GlobalRegs → GlobalRegs) : (modGlb s f).sq = s.sq := rfl
@[simp] theorem modGlb_cq (f : GlobalRegs → GlobalRegs) : (modGlb s f).cq = s.cq := rfl
@[simp] theorem modGlb_mbx (f : GlobalRegs → GlobalRegs) : (modGlb s f).mbx = s.mbx := rfl
@[simp] theorem modGlb_fw (f : GlobalRegs → GlobalRegs) : (modGlb s f).fw = s.fw := rfl
@[simp] theorem modGlb_part (f : GlobalRegs → GlobalRegs) : (modGlb s f).part = s.part := rfl
@[simp] theorem modGlb_resetDone (f : GlobalRegs → GlobalRegs) : (modGlb s f).resetDone = s.resetDone := rfl
@[simp] theorem modGlb_deck (f : GlobalRegs → GlobalRegs) : (modGlb s f).deck = s.deck := rfl
@[simp] theorem modGlb_brg (f : GlobalRegs → GlobalRegs) : (modGlb s f).brg = s.brg := rfl
@[simp] theorem modGlb_port (f : GlobalRegs → GlobalRegs) : (modGlb s f).port = s.port := rfl
@[simp] theorem modGlb_bb (f : GlobalRegs → GlobalRegs) : (modGlb s f).bb = s.bb := rfl
@[simp] theorem modGlb_ep (f : GlobalRegs → GlobalRegs) : (modGlb s f).ep = s.ep := rfl
@[simp] theorem modGlb_brt (f : GlobalRegs → GlobalRegs) : (modGlb s f).brt = s.brt := rfl
@[simp] theorem modGlb_icu (f : GlobalRegs → GlobalRegs) : (modGlb s f).icu = s.icu := rfl
@[simp] theorem modGlb_sec (f : GlobalRegs → GlobalRegs) : (modGlb s f).sec = s.sec := rfl
@[simp] theorem modGlb_log (f : GlobalRegs → GlobalRegs) : (modGlb s f).log = s.log := rfl
@[simp] theorem modGlb_bank (f : GlobalRegs → GlobalRegs) : (modGlb s f).bank = s.bank := rfl
@[simp] theorem modGlb_bankMem (f : GlobalRegs → GlobalRegs) : (modGlb s f).bankMem = s.bankMem := rfl
@[simp] theorem modGlb_hostMem (f : GlobalRegs → GlobalRegs) : (modGlb s f).hostMem = s.hostMem := rfl
@[simp] theorem modGlb_hostBad (f : GlobalRegs → GlobalRegs) : (modGlb s f).hostBad = s.hostBad := rfl
@[simp] theorem modGlb_hostBars (f : GlobalRegs → GlobalRegs) : (modGlb s f).hostBars = s.hostBars := rfl
@[simp] theorem modGlb_out (f : GlobalRegs → GlobalRegs) : (modGlb s f).out = s.out := rfl

/-! ## modSec -/

@[simp] theorem modSec_pending (f : Security → Security) : (modSec s f).pending = s.pending := rfl
@[simp] theorem modSec_freeCtr (f : Security → Security) : (modSec s f).freeCtr = s.freeCtr := rfl
@[simp] theorem modSec_pwr (f : Security → Security) : (modSec s f).pwr = s.pwr := rfl
@[simp] theorem modSec_vfEnable (f : Security → Security) : (modSec s f).vfEnable = s.vfEnable := rfl
@[simp] theorem modSec_tb (f : Security → Security) : (modSec s f).tb = s.tb := rfl
@[simp] theorem modSec_sch (f : Security → Security) : (modSec s f).sch = s.sch := rfl
@[simp] theorem modSec_sq (f : Security → Security) : (modSec s f).sq = s.sq := rfl
@[simp] theorem modSec_cq (f : Security → Security) : (modSec s f).cq = s.cq := rfl
@[simp] theorem modSec_mbx (f : Security → Security) : (modSec s f).mbx = s.mbx := rfl
@[simp] theorem modSec_fw (f : Security → Security) : (modSec s f).fw = s.fw := rfl
@[simp] theorem modSec_part (f : Security → Security) : (modSec s f).part = s.part := rfl
@[simp] theorem modSec_resetDone (f : Security → Security) : (modSec s f).resetDone = s.resetDone := rfl
@[simp] theorem modSec_deck (f : Security → Security) : (modSec s f).deck = s.deck := rfl
@[simp] theorem modSec_brg (f : Security → Security) : (modSec s f).brg = s.brg := rfl
@[simp] theorem modSec_port (f : Security → Security) : (modSec s f).port = s.port := rfl
@[simp] theorem modSec_bb (f : Security → Security) : (modSec s f).bb = s.bb := rfl
@[simp] theorem modSec_ep (f : Security → Security) : (modSec s f).ep = s.ep := rfl
@[simp] theorem modSec_brt (f : Security → Security) : (modSec s f).brt = s.brt := rfl
@[simp] theorem modSec_icu (f : Security → Security) : (modSec s f).icu = s.icu := rfl
@[simp] theorem modSec_log (f : Security → Security) : (modSec s f).log = s.log := rfl
@[simp] theorem modSec_bank (f : Security → Security) : (modSec s f).bank = s.bank := rfl
@[simp] theorem modSec_bankMem (f : Security → Security) : (modSec s f).bankMem = s.bankMem := rfl
@[simp] theorem modSec_hostMem (f : Security → Security) : (modSec s f).hostMem = s.hostMem := rfl
@[simp] theorem modSec_hostBad (f : Security → Security) : (modSec s f).hostBad = s.hostBad := rfl
@[simp] theorem modSec_hostBars (f : Security → Security) : (modSec s f).hostBars = s.hostBars := rfl
@[simp] theorem modSec_glb (f : Security → Security) : (modSec s f).glb = s.glb := rfl
@[simp] theorem modSec_out (f : Security → Security) : (modSec s f).out = s.out := rfl

/-! ## drawn -/

@[simp] theorem drawn_pending : (drawn s).pending = s.pending := rfl
@[simp] theorem drawn_pwr : (drawn s).pwr = s.pwr := rfl
@[simp] theorem drawn_vfEnable : (drawn s).vfEnable = s.vfEnable := rfl
@[simp] theorem drawn_tb : (drawn s).tb = s.tb := rfl
@[simp] theorem drawn_sch : (drawn s).sch = s.sch := rfl
@[simp] theorem drawn_sq : (drawn s).sq = s.sq := rfl
@[simp] theorem drawn_cq : (drawn s).cq = s.cq := rfl
@[simp] theorem drawn_mbx : (drawn s).mbx = s.mbx := rfl
@[simp] theorem drawn_fw : (drawn s).fw = s.fw := rfl
@[simp] theorem drawn_part : (drawn s).part = s.part := rfl
@[simp] theorem drawn_resetDone : (drawn s).resetDone = s.resetDone := rfl
@[simp] theorem drawn_deck : (drawn s).deck = s.deck := rfl
@[simp] theorem drawn_brg : (drawn s).brg = s.brg := rfl
@[simp] theorem drawn_port : (drawn s).port = s.port := rfl
@[simp] theorem drawn_bb : (drawn s).bb = s.bb := rfl
@[simp] theorem drawn_ep : (drawn s).ep = s.ep := rfl
@[simp] theorem drawn_brt : (drawn s).brt = s.brt := rfl
@[simp] theorem drawn_icu : (drawn s).icu = s.icu := rfl
@[simp] theorem drawn_sec : (drawn s).sec = s.sec := rfl
@[simp] theorem drawn_log : (drawn s).log = s.log := rfl
@[simp] theorem drawn_bank : (drawn s).bank = s.bank := rfl
@[simp] theorem drawn_bankMem : (drawn s).bankMem = s.bankMem := rfl
@[simp] theorem drawn_hostMem : (drawn s).hostMem = s.hostMem := rfl
@[simp] theorem drawn_hostBad : (drawn s).hostBad = s.hostBad := rfl
@[simp] theorem drawn_hostBars : (drawn s).hostBars = s.hostBars := rfl
@[simp] theorem drawn_glb : (drawn s).glb = s.glb := rfl
@[simp] theorem drawn_out : (drawn s).out = s.out := rfl

/-! ## The part that an update changes -/

@[simp] theorem partOf_modPart_self (p : Nat) (f : Partition → Partition) : partOf (modPart s p f) p = f (partOf s p) := by
  simp [partOf, modPart]
theorem partOf_modPart_ne {p r : Nat} (f : Partition → Partition) (h : p ≠ r) : partOf (modPart s p f) r = partOf s r := by
  simp [partOf, modPart, tGet_tUpd_ne _ _ _ _ h]
@[simp] theorem portOf_modPort_self (p : Nat) (f : Port → Port) : portOf (modPort s p f) p = f (portOf s p) := by
  simp [portOf, modPort]
theorem portOf_modPort_ne {p r : Nat} (f : Port → Port) (h : p ≠ r) : portOf (modPort s p f) r = portOf s r := by
  simp [portOf, modPort, tGet_tUpd_ne _ _ _ _ h]
@[simp] theorem portOf_modEng_self (p : Nat) (f : Engine → Engine) :
    portOf (modEng s p f) p = { portOf s p with eng := f (portOf s p).eng } := by simp [modEng]
theorem portOf_modEng_ne {p r : Nat} (f : Engine → Engine) (h : p ≠ r) : portOf (modEng s p f) r = portOf s r :=
  portOf_modPort_ne s _ h
@[simp] theorem chanOf_modChan_self (n : Nat) (f : Channel → Channel) : chanOf (modChan s n f) n = f (chanOf s n) := by
  simp [chanOf, modChan]
theorem chanOf_modChan_ne {n m : Nat} (f : Channel → Channel) (h : n ≠ m) : chanOf (modChan s n f) m = chanOf s m := by
  simp [chanOf, modChan, tGet_tUpd_ne _ _ _ _ h]
@[simp] theorem bankOf_modBank_self (n : Nat) (f : Bank → Bank) : bankOf (modBank s n f) n = f (bankOf s n) := by
  simp [bankOf, modBank]
theorem bankOf_modBank_ne {n m : Nat} (f : Bank → Bank) (h : n ≠ m) : bankOf (modBank s n f) m = bankOf s m := by
  simp [bankOf, modBank, tGet_tUpd_ne _ _ _ _ h]
@[simp] theorem mbxOf_modMbx_self (d : Nat) (f : Mailbox → Mailbox) : mbxOf (modMbx s d f) d = f (mbxOf s d) := by
  simp [mbxOf, modMbx]
theorem mbxOf_modMbx_ne {d e : Nat} (f : Mailbox → Mailbox) (h : d ≠ e) : mbxOf (modMbx s d f) e = mbxOf s e := by
  simp [mbxOf, modMbx, tGet_tUpd_ne _ _ _ _ h]
@[simp] theorem epOf_modEp_self (e : Nat) (f : Endpoint → Endpoint) : epOf (modEp s e f) e = f (epOf s e) := by
  simp [epOf, modEp]
@[simp] theorem linkOf_modLink_self (n : Nat) (f : Link → Link) : linkOf (modLink s n f) n = f (linkOf s n) := by
  simp [linkOf, modLink]
@[simp] theorem bbOf_modBb_self (n : Nat) (f : Backbone → Backbone) : bbOf (modBb s n f) n = f (bbOf s n) := by
  simp [bbOf, modBb]
@[simp] theorem targetOf_modTarget_self (t : Nat) (f : Target → Target) : targetOf (modTarget s t f) t = f (targetOf s t) := by
  simp [targetOf, modTarget, modIcu]

theorem voyOf_modVoy (v w : Nat) (f : Voyage → Voyage) :
    voyOf (modVoy s v f) w = if v = w then (voyOf s v).map f else voyOf s w := by
  unfold modVoy voyOf
  split <;> rename_i h <;> grind [tFind_tPut]
theorem queueOf_modQueue (q r : Nat) (f : Queue → Queue) :
    queueOf (modQueue s q f) r = if q = r then (queueOf s q).map f else queueOf s r := by
  unfold modQueue
  split <;> rename_i h
  · grind
  · unfold queueOf at h ⊢
    grind [tFind_tPut, tGet_tPut]
theorem sqOf_modSq (p n r m : Nat) (f : SubRing → SubRing) :
    sqOf (modSq s p n f) r m = if 8 * p + n = 8 * r + m then (sqOf s p n).map f else sqOf s r m := by
  unfold modSq sqOf
  split <;> rename_i h <;> grind [tFind_tPut]
theorem cqOf_modCq (p n r m : Nat) (f : CompRing → CompRing) :
    cqOf (modCq s p n f) r m = if 8 * p + n = 8 * r + m then (cqOf s p n).map f else cqOf s r m := by
  unfold modCq cqOf
  split <;> rename_i h <;> grind [tFind_tPut]

end Sys2Proof.Machine
end

