-- ==== Sys2Proof/Laws/Frames.lean ====
section
/-!
SUPPORT. What ends most commands, once for all of them: giving out free slots and sending messages changes nothing else.
-/
namespace Sys2Proof.Machine

variable {α : Type} {s t u v : State}

/-! ## Tables in canonical form -/

theorem keys_tPut_lower {b n : Nat} {x : α} {t : Tab α} (h : ∀ k ∈ t.map Prod.fst, b < k) (hb : b < n) :
    ∀ k ∈ (tPut t n x).map Prod.fst, b < k := by
  induction t with
  | nil => simpa [tPut] using hb
  | cons c t ih => grind [tPut]

theorem keysRise_tPut {t : Tab α} (n : Nat) (x : α) (h : keysRise t) : keysRise (tPut t n x) := by
  induction t with
  | nil => simp [keysRise, tPut]
  | cons c t ih =>
    simp only [keysRise, List.map_cons, List.pairwise_cons] at h ⊢
    obtain ⟨h1, h2⟩ := h
    rw [tPut]
    split
    · rename_i hn
      simp only [List.map_cons, List.pairwise_cons]
      refine ⟨?_, h1, h2⟩
      intro k hk
      rcases List.mem_cons.mp hk with rfl | hk
      · exact hn
      · exact Nat.lt_trans hn (h1 k hk)
    · split
      · rename_i _ e
        subst e
        simpa only [List.map_cons, List.pairwise_cons] using And.intro h1 h2
      · rename_i hn hk
        simp only [List.map_cons, List.pairwise_cons]
        exact ⟨keys_tPut_lower h1 (by omega), ih h2⟩

theorem tFind_of_mem {t : Tab α} {n : Nat} {x : α} (h : keysRise t) (hx : (n, x) ∈ t) : tFind t n = some x := by
  induction t with
  | nil => cases hx
  | cons c t ih =>
    simp only [keysRise, List.map_cons, List.pairwise_cons] at h
    rcases List.mem_cons.mp hx with e | hx
    · subst e; simp [tFind]
    · have := h.1 n (List.mem_map.mpr ⟨_, hx, rfl⟩)
      rw [tFind, if_neg (by omega)]
      exact ih h.2 hx

/-! ## Changes to one voyage and to the scheduler's own records -/

/-- Two states of a voyage that differ only in what giving out slots changes. -/
def Resembles (y x : Voyage) : Prop := { y with state := x.state, slot := x.slot, since := x.since, park := x.park } = x

theorem Resembles.trans {x y z : Voyage} (h : Resembles y x) (k : Resembles z y) : Resembles z x := by
  unfold Resembles at *
  rw [← h, ← k]

/-- `t` is `s` but for voyage `v`, the slots, the counts of the scheduler and the partitions' credits. -/
def OnlyVoyage (v : Nat) (s t : State) : Prop :=
  { t with sch := s.sch, part := s.part } = s ∧
    { t.sch with voy := s.sch.voy, slots := s.sch.slots, tick := s.sch.tick, lastPart := s.sch.lastPart, fills := s.sch.fills } = s.sch ∧
    (∀ p, { partOf t p with credit := (partOf s p).credit } = partOf s p) ∧
    (keysRise s.sch.voy → keysRise t.sch.voy) ∧ (∀ w, w ≠ v → voyOf t w = voyOf s w) ∧
    (voyOf s v = none → voyOf t v = none) ∧ ∀ x, voyOf s v = some x → ∃ y, voyOf t v = some y ∧ Resembles y x

theorem OnlyVoyage.refl (v : Nat) (s : State) : OnlyVoyage v s s := ⟨rfl, rfl, fun _ => rfl, id, fun _ _ => rfl, id, fun x h => ⟨x, h, rfl⟩⟩

theorem OnlyVoyage.trans {v : Nat} (h : OnlyVoyage v s t) (k : OnlyVoyage v t u) : OnlyVoyage v s u := by
  obtain ⟨h1, h2, h3, h4, h5, h6, h7⟩ := h
  obtain ⟨k1, k2, k3, k4, k5, k6, k7⟩ := k
  refine ⟨?_, ?_, ?_, fun r => k4 (h4 r), fun w hw => (k5 w hw).trans (h5 w hw), fun h => k6 (h6 h), fun x hx => ?_⟩
  rotate_left 3
  · obtain ⟨y, hy, ry⟩ := h7 x hx
    obtain ⟨z, hz, rz⟩ := k7 y hy
    exact ⟨z, hz, ry.trans rz⟩
  · rw [State.mk.injEq] at *; simp_all
  · rw [Sched.mk.injEq] at *; simp_all
  · intro p; have a := h3 p; have b := k3 p; rw [Partition.mk.injEq] at *; simp_all

theorem onlyVoyage_modVoy (v : Nat) (f : Voyage → Voyage) (s : State) (hf : ∀ x, voyOf s v = some x → Resembles (f x) x) :
    OnlyVoyage v s (modVoy s v f) := by
  unfold modVoy
  split
  · exact .refl v s
  · rename_i x hx
    refine ⟨rfl, rfl, fun _ => rfl, fun h => keysRise_tPut _ _ h, fun w hw => ?_, fun h => ?_, fun y hy => ?_⟩
    · simp [voyOf, tFind_tPut_ne _ _ (Ne.symm hw)]
    · rw [voyOf, hx] at h; cases h
    · have := hf y hy
      rw [voyOf, hx] at hy
      cases hy
      exact ⟨f x, by simp [voyOf], this⟩

theorem onlyVoyage_modSch (v : Nat) (f : Sched → Sched) (s : State)
    (h : { f s.sch with slots := s.sch.slots, tick := s.sch.tick, lastPart := s.sch.lastPart, fills := s.sch.fills } = s.sch) :
    OnlyVoyage v s (modSch s f) := by
  have hv : (f s.sch).voy = s.sch.voy := by rw [Sched.mk.injEq] at h; simp_all
  refine ⟨rfl, ?_, fun _ => rfl, ?_, ?_, ?_, fun x hx => ⟨x, ?_, rfl⟩⟩
  · rw [Sched.mk.injEq] at h ⊢; simp_all [modSch]
  · simp [modSch, hv]
  · simp [modSch, voyOf, hv]
  · simp [modSch, voyOf, hv]
  · simpa [modSch, voyOf, hv] using hx

theorem onlyVoyage_releaseSlot (v : Nat) (s : State) : OnlyVoyage v s (releaseSlot s v) :=
  (onlyVoyage_modSch v _ s rfl).trans (onlyVoyage_modVoy v _ _ fun _ _ => rfl)

theorem onlyVoyage_parkVoy (v : Nat) (why : Park) (st : Stage) (s : State) (h : ∀ x, voyOf s v = some x → x.stage = st) :
    OnlyVoyage v s (parkVoy s v why st) :=
  (onlyVoyage_modVoy v _ s fun x hx => by rw [← h x hx]; rfl).trans (onlyVoyage_releaseSlot v _)

theorem onlyVoyage_requestFill (v p a : Nat) (o : Option Nat) (s : State) : OnlyVoyage v s (requestFill s p a o) := by
  refine onlyVoyage_modSch v _ s ?_
  dsimp only
  split <;> rfl

theorem onlyVoyage_arrive (v : Nat) (s : State) : OnlyVoyage v s (arrive s v) := by
  unfold arrive
  split
  · exact .refl v s
  · split
    · rename_i x hx hc
      refine (onlyVoyage_parkVoy v _ _ s fun y hy => ?_).trans (onlyVoyage_requestFill v _ _ _ _)
      rw [hx] at hy
      cases hy
      simp only [Bool.and_eq_true, beq_iff_eq] at hc
      exact hc.1
    · exact .refl v s

theorem onlyVoyage_takeSlot (v k : Nat) (s : State) : OnlyVoyage v s (takeSlot s v k) := by
  unfold takeSlot
  refine .trans ?_ (onlyVoyage_arrive v _)
  refine .trans ?_ (onlyVoyage_modVoy v _ _ fun _ _ => rfl)
  exact onlyVoyage_modSch v _ s rfl

/-! ## Concluding -/

theorem Concluded.refl (s : State) : Concluded s s :=
  ⟨rfl, rfl, fun _ => rfl, fun _ => rfl, fun h => ⟨h, fun _ _ h _ => h⟩, fun _ h => h, fun _ x h => ⟨x, h, rfl⟩, [], by simp⟩

theorem Concluded.trans (h : Concluded s t) (k : Concluded t u) : Concluded s u := by
  obtain ⟨h1, h2, h3, h4, h5, h6, h7, l, hl⟩ := h
  obtain ⟨k1, k2, k3, k4, k5, k6, k7, m, km⟩ := k
  refine ⟨?_, ?_, ?_, ?_, ?_, fun v h => k6 v (h6 v h), fun v x hx => ?_, l ++ m, ?_⟩
  · cases s; cases t; cases u
    simp only [State.mk.injEq] at *
    grind
  · rw [Sched.mk.injEq] at *; simp_all
  · intro p; have a := h3 p; have b := k3 p; rw [Partition.mk.injEq] at *; simp_all
  · intro p; have a := h4 p; have b := k4 p; rw [Target.mk.injEq] at *; simp_all
  · intro hr
    obtain ⟨r1, r2⟩ := h5 hr
    obtain ⟨q1, q2⟩ := k5 r1
    exact ⟨q1, fun v x a b => q2 v x (r2 v x a b) b⟩
  · obtain ⟨y, hy, ry⟩ := h7 v x hx
    obtain ⟨z, hz, rz⟩ := k7 v y hy
    exact ⟨z, hz, Resembles.trans ry rz⟩
  · simp [hl, km]

theorem OnlyVoyage.concluded {v : Nat} {x : Voyage} (h : OnlyVoyage v s t) (hv : keysRise s.sch.voy → voyOf s v = some x)
    (hx : x.state = .ready) : Concluded s t := by
  obtain ⟨h1, h2, h3, h4, h5, h6, h7⟩ := h
  have e : t.icu = s.icu ∧ t.out = s.out := ⟨(congrArg State.icu h1 :), (congrArg State.out h1 :)⟩
  refine ⟨?_, h2, h3, ?_, fun hr => ⟨h4 hr, fun w y hy hs => ?_⟩, fun w hw => ?_, fun w y hy => ?_, [], ?_⟩
  · have : { t with icu := { t.icu with target := t.icu.target }, out := { t.out with msi := t.out.msi } } = t := rfl
    rw [← e.1, ← e.2]
    exact h1
  · simp [targetOf, e.1]
  · by_cases hw : w = v
    · subst hw; rw [hv hr] at hy; cases hy; exact absurd hx hs
    · rw [h5 w hw]; exact hy
  · by_cases e : w = v
    · subst e; exact h6 hw
    · rw [h5 w e]; exact hw
  · by_cases e : w = v
    · subst e; exact h7 y hy
    · exact ⟨y, (h5 w e).trans hy, rfl⟩
  · simp [e.2]

theorem concluded_modTarget (k : Nat) (f : Target → Target) (h : ∀ x, { f x with pba := x.pba } = x) (s : State) :
    Concluded s (modTarget s k f) := by
  refine ⟨rfl, rfl, fun _ => rfl, fun j => ?_, fun hr => ⟨hr, fun _ _ h _ => h⟩, fun _ h => h, fun _ x h => ⟨x, h, rfl⟩, [], by simp [modTarget, modIcu]⟩
  by_cases hj : k = j
  · subst hj; simp [h]
  · simp [modTarget, modIcu, targetOf, tGet_tUpd_ne _ _ _ _ hj]

theorem concluded_sendVector (s : State) (k v : Nat) : Concluded s (sendVector s k v) := by
  unfold sendVector
  dsimp only
  split
  · exact .refl s
  · split
    · exact concluded_modTarget k (fun x => { x with pba := insertNat x.pba v }) (fun _ => rfl) s
    · exact ⟨rfl, rfl, fun _ => rfl, fun _ => rfl, fun hr => ⟨hr, fun _ _ h _ => h⟩, fun _ h => h, fun _ x h => ⟨x, h, rfl⟩, _, rfl⟩

theorem concluded_sendAll (l : List Nat) (s : State) :
    Concluded s (l.foldl (fun u k => sendVector u (k / 64) (k % 64)) s) := by
  induction l generalizing s with
  | nil => exact .refl s
  | cons k l ih => exact (concluded_sendVector s _ _).trans (ih _)

theorem concluded_settle (s t : State) : Concluded t (settle s t) := concluded_sendAll _ t

theorem concluded_modPart (p : Nat) (f : Partition → Partition) (h : ∀ x, { f x with credit := x.credit } = x) (s : State) :
    Concluded s (modPart s p f) := by
  refine ⟨rfl, rfl, fun j => ?_, fun _ => rfl, fun hr => ⟨hr, fun _ _ h _ => h⟩, fun _ h => h, fun _ x h => ⟨x, h, rfl⟩, [], by simp⟩
  by_cases hj : p = j
  · subst hj; simp [h]
  · simp [partOf_modPart_ne s _ hj]

theorem concluded_credits (l : List Nat) (s : State) :
    Concluded s (l.foldl (fun s p => modPart s p fun x => { x with credit := x.ferryShare }) s) := by
  induction l generalizing s with
  | nil => exact .refl s
  | cons p l ih => exact (concluded_modPart p (fun x => { x with credit := x.ferryShare }) (fun _ => rfl) s).trans (ih _)

theorem mem_of_leastBy {β : Type} {key : β → Nat} {l : List β} {a : β} (h : leastBy key l = some a) : a ∈ l := by
  induction l generalizing a with
  | nil => cases h
  | cons b l ih => grind [leastBy]

theorem firstTimed_ready {w : Nat} (h : firstTimed s = some w) :
    ∃ x : Voyage, (w, x) ∈ s.sch.voy ∧ x.state = .ready := by
  obtain ⟨y, hy, rfl⟩ := Option.map_eq_some_iff.mp h
  have := List.mem_filter.mp (mem_of_leastBy hy)
  exact ⟨y.2, this.1, by simpa using And.left (by simpa using this.2)⟩

theorem oldestUntimed_ready {p w : Nat} (h : oldestUntimed s p = some w) :
    ∃ x : Voyage, (w, x) ∈ s.sch.voy ∧ x.state = .ready := by
  obtain ⟨y, hy, rfl⟩ := Option.map_eq_some_iff.mp h
  have := List.mem_filter.mp (mem_of_leastBy hy)
  exact ⟨y.2, this.1, by have := this.2; simp at this; exact this.1.1⟩

theorem concluded_modSch (f : Sched → Sched) (s : State)
    (h : { f s.sch with slots := s.sch.slots, tick := s.sch.tick, lastPart := s.sch.lastPart, fills := s.sch.fills } = s.sch) :
    Concluded s (modSch s f) := by
  have hv : (f s.sch).voy = s.sch.voy := by rw [Sched.mk.injEq] at h; simp_all
  refine ⟨rfl, ?_, fun _ => rfl, fun _ => rfl, ?_, fun v hx => ?_, fun v x hx => ⟨x, ?_, rfl⟩, [], by simp [modSch]⟩
  · rw [Sched.mk.injEq] at h ⊢; simp_all [modSch]
  · intro hr
    exact ⟨by simpa [modSch, hv] using hr, fun v x hx _ => by simpa [modSch, voyOf, hv] using hx⟩
  · simpa [modSch, voyOf, hv] using hx
  · simpa [modSch, voyOf, hv] using hx

/-- The pick of the weighted round robin is a Ready voyage, and only credits and the place of the rotation have changed. -/
theorem wrrPick_spec {w : Nat} (h : wrrPick s = some (t, w)) :
    Concluded s t ∧ t.sch.voy = s.sch.voy ∧ ∃ x : Voyage, (w, x) ∈ s.sch.voy ∧ x.state = .ready := by
  have credits (l : List Nat) (u : State) :
      (l.foldl (fun s p => modPart s p fun x => { x with credit := x.ferryShare }) u).sch = u.sch := by
    induction l generalizing u with
    | nil => rfl
    | cons p l ih => exact ih _
  unfold wrrPick at h
  dsimp only at h
  generalize hu : (if (List.isEmpty _ || List.any _ (hasCredit s)) = true then s else newCredits s) = u at h
  have hc : Concluded s u ∧ u.sch = s.sch := by
    subst hu
    split
    · exact ⟨.refl s, rfl⟩
    · exact ⟨concluded_credits _ s, credits _ s⟩
  split at h
  · obtain ⟨y, hy, e⟩ := Option.map_eq_some_iff.mp h
    cases e
    exact ⟨hc.1.trans ((concluded_modPart _ (fun x => { x with credit := x.credit - 1 }) (fun _ => rfl) _).trans (concluded_modSch _ _ rfl)),
      by simpa [servedBy, modSch] using congrArg Sched.voy hc.2, oldestUntimed_ready hy⟩
  · obtain ⟨y, hy, e⟩ := Option.map_eq_some_iff.mp h
    cases e
    exact ⟨hc.1.trans (concluded_modSch _ _ rfl), by simpa [servedBy, modSch] using congrArg Sched.voy hc.2, oldestUntimed_ready hy⟩
  · cases h

theorem concluded_grantOne (h : grantOne s = some t) : Concluded s t := by
  unfold grantOne at h
  split at h
  · cases h
  · split at h
    · cases h
    · split at h
      · rename_i w hw
        cases h
        obtain ⟨x, hx, hr⟩ := firstTimed_ready hw
        exact (onlyVoyage_takeSlot w _ s).concluded (fun k => tFind_of_mem k hx) hr
      · obtain ⟨⟨u, w⟩, hu, e⟩ := Option.map_eq_some_iff.mp h
        cases e
        obtain ⟨c, e, x, hx, hr⟩ := wrrPick_spec hu
        exact c.trans ((onlyVoyage_takeSlot w _ u).concluded (fun k => tFind_of_mem k (by rw [e]; exact hx)) hr)

theorem concluded_schedule (s : State) : Concluded s (schedule s) := by
  unfold schedule
  generalize 64 + s.sch.voy.length = n
  induction n generalizing s with
  | zero => exact .refl s
  | succ n ih =>
    unfold grantLoop
    split
    · exact .refl s
    · exact (concluded_grantOne ‹_›).trans (ih _)

theorem concluded_conclude (s t : State) : Concluded t (conclude s t) :=
  (concluded_schedule t).trans (concluded_settle s _)

end Sys2Proof.Machine
end

