-- ==== Sys2Proof/Laws/Entries.lean ====
section
/-!
SUPPORT. How a manifest entry runs, once for all of them: from the entry at which a voyage stands to its operation, and from the operation's result to the next entry, the record and the end of the voyage.
-/
namespace Sys2Proof.Machine

variable {s t : State} {v : Nat} {x : Voyage} {w : List Word}

/-! ## Changes to one voyage and to the scheduler -/

theorem voyOf_modVoy_self (f : Voyage → Voyage) (h : voyOf s v = some x) : voyOf (modVoy s v f) v = some (f x) := by
  simp [voyOf_modVoy, h]

/-- Changing a voyage changes only the scheduler. -/
theorem modVoy_eq (s : State) (u : Nat) (f : Voyage → Voyage) : modVoy s u f = { s with sch := (modVoy s u f).sch } := by
  unfold modVoy; split <;> rfl

@[simp] theorem modVoy_pages (u : Nat) (f : Voyage → Voyage) : (modVoy s u f).sch.pages = s.sch.pages := by
  unfold modVoy; split <;> rfl

theorem keysRise_modVoy (u : Nat) (f : Voyage → Voyage) (h : keysRise s.sch.voy) : keysRise (modVoy s u f).sch.voy := by
  unfold modVoy; split
  · exact h
  · exact keysRise_tPut _ _ h

theorem find?_moved {α : Type} (p q : α → Bool) (l : List α) (h : ∀ a, p a = true → q a = true ∨ ∀ b, p b = true → q b = false) :
    (l.filter (fun a => !q a) ++ l.filter q).find? p = l.find? p := by
  by_cases hq : ∃ a, p a = true ∧ q a = true
  · obtain ⟨a, ha, hqa⟩ := hq
    have hall : ∀ b, p b = true → q b = true := by
      intro b hb
      rcases h b hb with h | h
      · exact h
      · have := h a ha; rw [hqa] at this; cases this
    rw [List.find?_append, List.find?_filter, List.find?_filter]
    have e1 : l.find? (fun a => decide ((!q a) = true ∧ p a = true)) = none := by
      rw [List.find?_eq_none]; intro b _ hb
      simp only [decide_eq_true_eq, Bool.not_eq_true'] at hb
      rw [hall b hb.2] at hb; exact absurd hb.1 (by simp)
    have e2 : (fun a => decide (q a = true ∧ p a = true)) = p := by
      funext b; cases hb : p b
      · simp
      · simp [hall b hb]
    rw [e1, e2]; rfl
  · have hall : ∀ b, p b = true → q b = false := by
      intro b hb; cases hc : q b
      · rfl
      · exact absurd ⟨b, hb, hc⟩ hq
    rw [List.find?_append, List.find?_filter, List.find?_filter]
    have e1 : l.find? (fun a => decide (q a = true ∧ p a = true)) = none := by
      rw [List.find?_eq_none]; intro b _ hb
      simp only [decide_eq_true_eq] at hb
      rw [hall b hb.2] at hb; exact absurd hb.1 (by simp)
    have e2 : (fun a => decide ((!q a) = true ∧ p a = true)) = p := by
      funext b; cases hb : p b
      · simp
      · simp [hall b hb]
    rw [e1, e2]; simp

/-- The order of use does not matter to what the cache holds. -/
@[simp] theorem cachedPage_touchPage (s : State) (p a q b : Nat) : cachedPage (touchPage s p a) q b = cachedPage s q b := by
  unfold cachedPage touchPage modSch
  refine find?_moved _ (fun x : CachePage => x.part == p && x.addr == a) _ fun x hx => ?_
  simp only [Bool.and_eq_true, beq_iff_eq] at hx
  by_cases h : q = p ∧ b = a
  · left; simp [hx, h]
  · right; intro y hy
    simp only [Bool.and_eq_true, beq_iff_eq] at hy
    rw [Bool.eq_false_iff]; intro hc
    simp only [Bool.and_eq_true, beq_iff_eq] at hc
    exact h ⟨hy.1.symm.trans hc.1, hy.2.symm.trans hc.2⟩

@[simp] theorem cachedPage_modVoy (u q b : Nat) (f : Voyage → Voyage) : cachedPage (modVoy s u f) q b = cachedPage s q b := by
  simp [cachedPage]

/-! ## From step 1 to step 6 -/

/-- The voyage with the entry reached and latched. -/
def begun (x : Voyage) (w : List Word) : Voyage :=
  { x with reached := x.reached + 1, countedTo := x.entry + 1, cur := w, first := w, burst := 0 }

theorem isCont_of_entry (h : x.entry = x.ckEntry) : isCont x = false := by simp [isCont, h]

theorem voyOf_reachEntry (h : voyOf s v = some x) (ht : x.timed = false) (he : x.entry = x.ckEntry) (hc : x.countedTo ≤ x.entry) :
    voyOf (reachEntry s v x w) v = some (begun x w) := by
  simp only [reachEntry, ht, Bool.false_and, Bool.false_eq_true, if_false]
  rw [voyOf_modVoy_self (x := x)]
  · simp only [begun, isCont_of_entry he, hc, if_true, Bool.false_eq_true, if_false, Nat.max_eq_right (Nat.le_succ_of_le hc)]
  · exact h

/-- Reaching an entry changes only the scheduler. -/
theorem reachEntry_eq (ht : x.timed = false) : reachEntry s v x w = { s with sch := (reachEntry s v x w).sch } := by
  simp only [reachEntry, ht, Bool.false_and, Bool.false_eq_true, if_false]
  rw [modVoy_eq]
  rfl

theorem voyOf_reachEntry_ne {u : Nat} (ht : x.timed = false) (hu : u ≠ v) : voyOf (reachEntry s v x w) u = voyOf s u := by
  simp only [reachEntry, ht, Bool.false_and, Bool.false_eq_true, if_false]
  rw [voyOf_modVoy]
  simp [hu.symm]
  rfl

theorem keysRise_reachEntry (ht : x.timed = false) (h : keysRise s.sch.voy) : keysRise (reachEntry s v x w).sch.voy := by
  simp only [reachEntry, ht, Bool.false_and, Bool.false_eq_true, if_false]
  exact keysRise_modVoy v _ h

theorem entryWords_reachEntry (ht : x.timed = false) (y : Voyage) (k : Nat) :
    entryWords (reachEntry s v x w) y k = entryWords s y k := by
  simp [entryWords, reachEntry, ht]

theorem entryFormat_reachEntry (ht : x.timed = false) (y : Voyage) :
    entryFormat (reachEntry s v x w) y w = entryFormat s y w := by
  simp [entryFormat, nextWords, entryWords_reachEntry ht]

theorem ownFail_reachEntry (ht : x.timed = false) : ownFail (reachEntry s v x w) (begun x w) w = ownFail s x w := by
  rw [reachEntry_eq ht]
  rfl

theorem runEntry_stands {accept : List Word → Bool} (act : State → Nat → Voyage → List Word → State × Six)
    (h : EntryStands s v x w) (ha : accept w = true) :
    runEntry accept act s v =
      match entryFormat s x w with
      | some e => finishEntry (reachEntry s v x w) v x.entry w (Result.fail 0x16 e)
      | none => third act (reachEntry s v x w) v (lookAhead s x).1 := by
  obtain ⟨h1, h2, h3, h4, h5, h6, h7, h15, h8, h9, h10, h11, h12, h13, h14⟩ := h
  unfold runEntry
  simp only [h3, h4, h1, h5, h13, ha, h14, h8, isCont_of_entry h7, entryFormat_reachEntry h6]
  cases entryFormat s x w <;> simp

/-- An entry that runs comes to its operation. -/
theorem runEntry_runs {accept : List Word → Bool} (act : State → Nat → Voyage → List Word → State × Six)
    (h : EntryRuns s v x w) (ha : accept w = true) : runEntry accept act s v = sixth act (reachEntry s v x w) v := by
  obtain ⟨hs, hf, hc, hp, -, ho⟩ := h
  rw [runEntry_stands act hs ha, hf]
  obtain ⟨h1, h2, h3, h4, h5, h6, h7, h15, h8, h9, h10, h11, h12, h13, h14⟩ := hs
  have hv := voyOf_reachEntry (w := w) h3 h6 h7 h15
  have hb : (begun x w).cond = x.cond ∧ (begun x w).cur = w ∧ (begun x w).timed = false := ⟨rfl, rfl, h6⟩
  unfold third
  simp only [hv, hb.1, hb.2.1, hc, charge, hb.2.2, hp]
  simp only [fifth, hv, hb.2.1, ownFail_reachEntry h6, ho, Bool.not_true, Bool.false_eq_true, if_false, Bool.not_false, Bool.true_or,
    if_true, Bool.false_and]

end Sys2Proof.Machine
end

