-- ==== Sys2Proof/Laws/Rorid.lean ====
section
/-!
SUPPORT. How a Rorid instruction that executes comes out, once for all of them, and the arithmetic of the register operations in the rules' own terms.
-/
namespace Sys2Proof.Machine

variable {s : State} {p : Fin 96} {g : Guard} {w : Word}

/-- An instruction that executes applies its effect to the state in which its own word is corrected, and ends as the effect asks. -/
theorem runRorid_executes (h : Executes s p g w) (c k : Nat) (f : State → State × Ctl) :
    runRorid p g w c k f s =
      endInstr (met s p) (f (met s p)).1 p (portOf s p).eng.pc.toNat c
        (fetchAt (portOf s p) ((portOf s p).eng.pc.toNat + 1)) (f (met s p)).2 := by
  obtain ⟨h1, h2, h3, h4, h5⟩ := h
  have h2 : ((portOf s p).eng.mark == .bad) = false := by simpa using h2
  simp only [runRorid, h1, h2, h3, h4, h5, met, ↓reduceIte, Bool.false_eq_true, Bool.not_true]

theorem endInstr_next (u t : State) (c : Nat) :
    endInstr u t p (portOf s p).eng.pc.toNat c (fetchAt (portOf s p) ((portOf s p).eng.pc.toNat + 1)) .next = advanced s t p c := by
  simp [endInstr, goNext, advanced, fetchAt]

theorem endInstr_jump (u t : State) (pc c a : Nat) (x : Word × FetchMark) : endInstr u t p pc c x (.jump a) = transferred t p c a := rfl

theorem endInstr_trap (u t : State) (pc c k : Nat) (x : Word × FetchMark) (v : Word) : endInstr u t p pc c x (.trap k v) = trapEntry u p k v pc := rfl

theorem endInstr_wait (u t : State) (pc c : Nat) (x : Word × FetchMark) (k : EngWait) :
    endInstr u t p pc c x (.wait k) = modEng t p fun e => { e with wait := k } := rfl

/-- The correction of the fetched word changes the mark of the fetch, and of the port else only the list of soft words of its active bank and the count. -/
theorem correctFetched_frame (q : Port) :
    { correctFetched q with eng := q.eng, bankA := q.bankA, bankB := q.bankB, bankCorrected := q.bankCorrected } = q ∧
      { (correctFetched q).eng with mark := q.eng.mark } = q.eng ∧
      (activeBank (correctFetched q)).words = (activeBank q).words ∧ (activeBank (correctFetched q)).hdr = (activeBank q).hdr := by
  unfold correctFetched
  split
  · cases q with
    | mk owner lastOwner xclass txq number eng bankA bankB bankCorrected active =>
      cases active <;> exact ⟨rfl, rfl, rfl, rfl⟩
  · exact ⟨rfl, rfl, rfl, rfl⟩

/-- The engine and the active bank of the corrected state, field by field. -/
@[simp] theorem met_fields (s : State) (p : Nat) :
    (portOf (met s p) p).eng.pc = (portOf s p).eng.pc ∧ (portOf (met s p) p).eng.regs = (portOf s p).eng.regs ∧
      (portOf (met s p) p).eng.ac0 = (portOf s p).eng.ac0 ∧ (portOf (met s p) p).eng.ac1 = (portOf s p).eng.ac1 ∧
      (portOf (met s p) p).eng.pred = (portOf s p).eng.pred ∧ (portOf (met s p) p).eng.rstack = (portOf s p).eng.rstack ∧
      (portOf (met s p) p).eng.trapped = (portOf s p).eng.trapped ∧
      (activeBank (portOf (met s p) p)).words = (activeBank (portOf s p)).words ∧
      (activeBank (portOf (met s p) p)).hdr = (activeBank (portOf s p)).hdr := by
  simp only [met, portOf_modPort_self]
  obtain ⟨-, h, k, l⟩ := correctFetched_frame (portOf s p)
  rw [← h]
  exact ⟨rfl, rfl, rfl, rfl, rfl, rfl, rfl, k, l⟩

@[simp] theorem imageHdr_met (s : State) (p k : Nat) : imageHdr (portOf (met s p) p) k = imageHdr (portOf s p) k := by
  simp [imageHdr]

@[simp] theorem bankWord_met (s : State) (p k : Nat) : bankWord (portOf (met s p) p) k = bankWord (portOf s p) k := by
  simp [bankWord]

@[simp] theorem readReg_met (s : State) (p : Nat) (c : BitVec 4) : readReg (portOf (met s p) p) c = readReg (portOf s p) c := by
  simp [readReg, imageModeC]

/-- A register operation that executes has written its result and set its flags. -/
theorem runAlu_executes (h : Executes s p g w) (c : Nat) (rd : BitVec 4) (f : Port → Word × BitVec 5) :
    runAlu p g w c rd f s = .next (regWritten s p rd (f (portOf (met s p) p)).1 (f (portOf (met s p) p)).2 c) := by
  unfold runAlu
  rw [runRorid_executes h, endInstr_next]
  rfl

/-- A change to an engine is known by what it does to that engine. -/
theorem modEng_congr {k : Nat} {f g : Engine → Engine} (h : f (portOf s k).eng = g (portOf s k).eng) : modEng s k f = modEng s k g := by
  simp only [modEng, modPort, tUpd]
  exact congrArg (fun x => { s with port := tPut s.port k x }) (congrArg (fun e => { portOf s k with eng := e }) h)

/-- A change to a port is known by what it does to that port. -/
theorem modPort_congr {k : Nat} {f g : Port → Port} (h : f (portOf s k) = g (portOf s k)) : modPort s k f = modPort s k g := by
  simp only [modPort, tUpd]
  exact congrArg (fun x => { s with port := tPut s.port k x }) h

/-- Every row of the Rorid table is an instruction under `runRorid`, with the row's word, guard and cycles when not executed. -/
theorem rorid_runs {i : Instr} {p : Fin 96} {g : Guard} {w : Word} (s : State) (h : roridWord i = some (p, g, w)) :
    ∃ c f, exec i s = .next (runRorid p g w c (skipCycles i) f s) := by
  cases i <;> simp only [roridWord, Option.some.injEq, Prod.mk.injEq, reduceCtorEq] at h <;>
    (obtain ⟨rfl, rfl, rfl⟩ := h; exact ⟨_, _, rfl⟩)

/-! ## Queue instructions -/

theorem met_port (s : State) (p : Nat) :
    (portOf (met s p) p).owner = (portOf s p).owner ∧ (portOf (met s p) p).safeDue = (portOf s p).safeDue ∧
      (portOf (met s p) p).reads = (portOf s p).reads ∧ (portOf (met s p) p).spad = (portOf s p).spad ∧
      (portOf (met s p) p).spadBad = (portOf s p).spadBad ∧ (portOf (met s p) p).evPend = (portOf s p).evPend ∧
      (portOf (met s p) p).fencedQs = (portOf s p).fencedQs ∧ (portOf (met s p) p).fencers = (portOf s p).fencers := by
  simp only [met, portOf_modPort_self]
  have h := (correctFetched_frame (portOf s p)).1
  generalize correctFetched (portOf s p) = r at h ⊢
  rw [← h]
  exact ⟨rfl, rfl, rfl, rfl, rfl, rfl, rfl, rfl⟩

@[simp] theorem fencedQs_met (s : State) (p : Nat) : (portOf (met s p) p).fencedQs = (portOf s p).fencedQs := (met_port s p).2.2.2.2.2.2.1

@[simp] theorem fencers_met (s : State) (p : Nat) : (portOf (met s p) p).fencers = (portOf s p).fencers := (met_port s p).2.2.2.2.2.2.2

@[simp] theorem queueOf_met (s : State) (p n : Nat) : queueOf (met s p) n = queueOf s n := rfl

@[simp] theorem portFenced_met (s : State) (p n : Nat) : portFenced (met s p) p n = portFenced s p n := by
  simp [portFenced]

theorem queueAt_attached {n : Nat} {q : Queue} (h : Attached s p w n q) : queueAt (met s p) p w = .attached n := by
  obtain ⟨h1, h2, h3, h4, h5⟩ := h
  have h6 : n < 8192 := h3
  simp_all [queueAt, attachedTo, portFenced]

theorem queueAt_gone (h1 : (portOf s p).fencedQs.contains w.toNat = false) (h2 : ∀ y, queueOf s w.toNat = some y → y.port ≠ some p.val) :
    queueAt (met s p) p w = .none := by
  have : attachedTo (met s p) p w = none := by
    unfold attachedTo
    rw [if_neg]
    rintro ⟨a, b⟩
    cases hq : queueOf s w.toNat with
    | none => simp [hq] at b
    | some y => exact h2 y hq (by simpa [hq] using b)
  simp_all [queueAt]

variable {rd rq : BitVec 4} {fenced : State → State × Word} {absent : Word} {f : Nat → State → State × Ctl}

/-- A queue instruction on an attached queue has its effect. -/
theorem runQueue_attached {n : Nat} {q : Queue} (h : Executes s p g w) (hq : Attached s p (readReg (portOf s p) rq) n q) :
    runQueue p g w rd rq fenced absent f s =
      endInstr (met s p) (f n (met s p)).1 p (portOf s p).eng.pc.toNat 1
        (fetchAt (portOf s p) ((portOf s p).eng.pc.toNat + 1)) (f n (met s p)).2 := by
  unfold runQueue
  rw [runRorid_executes h]
  simp only [readReg_met, queueAt_attached hq]

/-- A queue instruction whose queue is not attached answers so, and has no other effect. -/
theorem runQueue_gone (h : Executes s p g w) (h1 : (portOf s p).fencedQs.contains (readReg (portOf s p) rq).toNat = false)
    (h2 : ∀ y, queueOf s (readReg (portOf s p) rq).toNat = some y → y.port ≠ some p.val) :
    runQueue p g w rd rq fenced absent f s = advanced s (putReg (met s p) p rd absent) p 1 := by
  unfold runQueue
  rw [runRorid_executes h]
  simp only [readReg_met, queueAt_gone h1 h2, qDone, endInstr_next]

theorem endInstr_done (u t : State) (x : Word) (c : Nat) :
    endInstr u (qDone t p rd x).1 p (portOf s p).eng.pc.toNat c (fetchAt (portOf s p) ((portOf s p).eng.pc.toNat + 1))
      (qDone t p rd x).2 = advanced s (putReg t p rd x) p c := endInstr_next _ _ _

end Sys2Proof.Machine
end

