-- ==== Sys2Proof/Machine/Pins.lean ====
section
/-!
DEFINITION. The levels of the device's outputs outside the port tiles (21_pins_electrical_package.md R563).
-/
namespace Sys2Proof.Machine

/-- The outputs of R563. -/
inductive OutPad where
  | xspiClk | xspiCsN | xspiRstN | sspSdo | sspBsy | tdo | faultN | wakeN | landout | mdc | mdio
  | idbScl (n : Fin 8)
  | idbSda (n : Fin 8)
  | hattn (k : Fin 4)
deriving DecidableEq, Repr

/-- An open-drain output: low or released. -/
def openDrain (low : Bool) : Option Bool := if low then some false else none

/-- What an output drives between accesses through it (R563), none where it is high impedance; the xSPI reset lasts 20 µs of the boot, which no command parts. -/
def padLevel (s : State) (x : OutPad) : Option Bool :=
  if s.pwr.porstLow then none
  else
    match x with
    | .xspiClk => some false
    | .xspiCsN => some true
    | .xspiRstN => some (isRun s)
    | .sspSdo => none
    | .sspBsy => some s.fw.bsy
    | .tdo => none
    | .faultN => openDrain (faultLow s)
    | .wakeN => openDrain s.pwr.wakeDriven
    | .landout => some s.tb.landout.isSome
    | .mdc => some false
    | .mdio => none
    | .idbScl _ => none
    | .idbSda _ => none
    | .hattn k => openDrain (hattnLow s k.val)

end Sys2Proof.Machine
end

