-- ==== Sys2Proof/WellFormed.lean ====
section
/-!
DEFINITION. Which commands are well formed: operands that the specification's encodings and tables admit.
-/
namespace Sys2Proof

/-- No two entries of a list are equal. -/
def distinct {α : Type} [DecidableEq α] : List α → Bool
  | [] => true
  | a :: l => !l.contains a && distinct l

/-- What tells a request from the others of an arbiter's cycle: its slot, and within a port group the port. -/
def requestKey (r : BerthRequest) : Nat × Nat :=
  (r.slot.val, match r.work with | .port p => p.val | _ => 0)

/-- Operands outside a reserved code (R325, R334, R337, R341, R342, R344, R350, R351), and lists that the wire or the array can carry (R392, R419, R424, R434). A command that is not well formed cannot reach the device; the meanings answer all the same. -/
def Instr.wf : Instr → Bool
  | .rCmp _ _ _ acc cond _ _ => acc != 3 && cond < 12
  | .rCmpi _ _ _ acc cond _ _ => acc != 3 && cond < 12
  | .rLd _ _ _ _ size sx _ _ => size != 3 && (size != 2 || !sx)
  | .rSt _ _ _ _ size _ => size != 3
  | .rIn _ _ _ ra ind _ => ind || ra == 0
  | .rOut _ _ _ ra ind _ => ind || ra == 0
  | .rBr _ _ ra ind _ => ind || ra == 0
  | .rCall _ _ ra ind _ => ind || ra == 0
  | .rWaitev _ _ ra all => !all || ra == 0
  | .rExta _ _ _ _ k => k < 40
  | .rQput _ _ _ _ _ size => size != 3
  | .rQget _ _ _ _ size => size != 3
  | .busFrameReceived _ f => f.head.length == 4 && lenAllowed (fieldOf (f.head.getD 1 0) 0 3) f.data.length
  | .berthDecision _ cycle => distinct (cycle.requests.map requestKey)
  | .gIdentityScan _ mems => distinct (mems.map fun m => (m.bus, m.addr))
  | _ => true

end Sys2Proof
end

