-- ==== Sys2Proof/Tests/Slice0.lean ====
section
/-!
SUPPORT. Tests of the model by the specification's own tables and examples, and for each statement of Certificates/Slice0/Obligations.lean states and operands that meet its hypotheses.
-/
namespace Sys2Proof.Tests
set_option Elab.async false
open Sys2Proof.Machine

/-! ## Ill-formed commands are refused by the check -/

theorem test_wf_cmp_acc : (Instr.rCmp 0 ⟨0, false⟩ 1 3 0 0 0).wf = false := by decide
theorem test_wf_cmp_cond : (Instr.rCmp 0 ⟨0, false⟩ 1 0 12 0 0).wf = false := by decide
theorem test_wf_cmpi_acc : (Instr.rCmpi 0 ⟨0, false⟩ 1 3 0 0 0).wf = false := by decide
theorem test_wf_ld_size : (Instr.rLd 0 ⟨0, false⟩ 1 8 3 false 0 false).wf = false := by decide
theorem test_wf_ld_sx : (Instr.rLd 0 ⟨0, false⟩ 1 8 2 true 0 false).wf = false := by decide
theorem test_wf_st_size : (Instr.rSt 0 ⟨0, false⟩ 1 8 3 0).wf = false := by decide
theorem test_wf_in_ra : (Instr.rIn 0 ⟨0, false⟩ 1 2 false 0).wf = false := by decide
theorem test_wf_out_ra : (Instr.rOut 0 ⟨0, false⟩ 1 2 false 0).wf = false := by decide
theorem test_wf_br_ra : (Instr.rBr 0 ⟨0, false⟩ 2 false 0).wf = false := by decide
theorem test_wf_call_ra : (Instr.rCall 0 ⟨0, false⟩ 2 false 0).wf = false := by decide
theorem test_wf_waitev_all : (Instr.rWaitev 0 ⟨0, false⟩ 2 true).wf = false := by decide
theorem test_wf_exta_k : (Instr.rExta 0 ⟨0, false⟩ false 2 40).wf = false := by decide
theorem test_wf_qput_size : (Instr.rQput 0 ⟨0, false⟩ 1 2 3 3).wf = false := by decide
theorem test_wf_qget_size : (Instr.rQget 0 ⟨0, false⟩ 1 2 3).wf = false := by decide
theorem test_wf_bus_head : (Instr.busFrameReceived 0 ⟨[0], [], true, 0, 0⟩).wf = false := by decide
theorem test_wf_bus_length : (Instr.busFrameReceived 0 ⟨[0, 0, 0, 0], List.replicate 9 0, true, 0, 0⟩).wf = false := by decide
theorem test_wf_berth_slots :
    (Instr.berthDecision 0 ⟨0, [⟨1, .control, 0, 0⟩, ⟨1, .voyage 5, 0, 0⟩]⟩).wf = false := by decide
theorem test_wf_scan_twice :
    (Instr.gIdentityScan .ssp [⟨0, 1, [], true⟩, ⟨0, 1, [], false⟩]).wf = false := by decide

/-! ## Small states -/

/-- The device in RUN, everything else as after reset. -/
def running : State := { State.reset with pwr := { State.reset.pwr with phase := .run, porstLow := false } }

/-- Port 0 in RUN with an engine that stands before a word. -/
def engine (w : Word) (f : Port → Port := id) : State :=
  { running with port := [(0, f { eng := { state := .running, fetched := w } })] }

/-- The guard P0, which is true. -/
def always : Guard := ⟨0, false⟩

theorem engine_executes (w : Word) (h : (roridLegal false w && !namesP0 w) = true) : Executes (engine w) 0 always w := by
  rw [Bool.and_eq_true, Bool.not_eq_true'] at h
  have e : engineAt (engine w) 0 w = (w == w) := rfl
  have n : imageHdr (portOf (engine w) 0) 1 = 0 := rfl
  have m : imageModeC (portOf (engine w) 0) = false := by rw [imageModeC, n]; decide
  exact ⟨by simp [e], (by decide : FetchMark.clean ≠ .bad), by rw [m]; exact h.1, rfl, h.2⟩

/-! ## Port engines -/

theorem witness_RoridIntegerOperations : ∀ k : Fin 11, Executes (engine (encR always 0x01 k 1 2 3)) 0 always (encR always 0x01 k 1 2 3) :=
  fun k => engine_executes _ (by revert k; decide)
theorem witness_RoridIntegerOperations_unary : ∀ k : Fin 9, Executes (engine (encU always k 1 2)) 0 always (encU always k 1 2) :=
  fun k => engine_executes _ (by revert k; decide)
theorem witness_RoridIntegerOperations_immediate :
    ∀ k : Fin 8, Executes (engine (encI always k 1 2 (if 5 ≤ k.val then 63 else 0x400))) 0 always (encI always k 1 2 (if 5 ≤ k.val then 63 else 0x400)) :=
  fun k => engine_executes _ (by revert k; decide)
theorem witness_RoridIntegerOperations_wide : Executes (engine (encMovi always 1 0x20000)) 0 always (encMovi always 1 0x20000) ∧
    Executes (engine (encMovhi always 1 0xFFFF)) 0 always (encMovhi always 1 0xFFFF) :=
  ⟨engine_executes _ (by decide), engine_executes _ (by decide)⟩
theorem witness_RoridMultiplyDivide : ∀ k ∈ [0, 1, 2, 4, 5, 6, 7], Executes (engine (encR always 0x09 k 1 2 3)) 0 always (encR always 0x09 k 1 2 3) :=
  fun k h => engine_executes _ (by revert h; revert k; decide)
theorem witness_RoridComparesAndCarries : (∀ c : Fin 12, Executes (engine (encC always 7 2 (BitVec.ofNat 4 c) 1 2)) 0 always (encC always 7 2 (BitVec.ofNat 4 c) 1 2)) ∧
    (∀ c : Fin 12, Executes (engine (encCI always 7 2 (BitVec.ofNat 4 c) 1 0x100)) 0 always (encCI always 7 2 (BitVec.ofNat 4 c) 1 0x100)) ∧
    ∀ k : Fin 2, Executes (engine (encX always k 1 2 3 0 7)) 0 always (encX always k 1 2 3 0 7) :=
  ⟨fun c => engine_executes _ (by revert c; decide), fun c => engine_executes _ (by revert c; decide), fun k => engine_executes _ (by revert k; decide)⟩

/-- Port 0 before a word, with registers and image header words of its own. -/
def engineWith (w : Word) (regs hdr : Tab Word) (f : Port → Port := id) : State :=
  engine w fun q => f { q with eng := { q.eng with regs := regs }, bankA := { hdr := hdr, words := [] } }

/-- Whether port 0 of a state executes a word. -/
def executes (s : State) (w : Word) : Bool :=
  engineAt s 0 w && (portOf s 0).eng.mark != .bad && roridLegal (imageModeC (portOf s 0)) w &&
    guardTrue (portOf s 0).eng always && !namesP0 w

theorem executes_sound (s : State) (w : Word) (h : executes s w = true) : Executes s 0 always w := by
  simp only [executes, Bool.and_eq_true, Bool.not_eq_true', bne_iff_ne] at h
  exact ⟨h.1.1.1.1, h.1.1.1.2, h.1.1.2, h.1.2, h.2⟩

theorem all_execute (l : List State) (w : Word) (h : l.all (executes · w) = true) : ∀ s ∈ l, Executes s 0 always w :=
  fun s hs => executes_sound s w (List.all_eq_true.mp h s hs)

theorem witness_RoridAccumulators :
    (∀ k : Fin 4, Executes (engineWith (encA always 0x13 k true false 1 2 0) [] [(1, 7)]) 0 always (encA always 0x13 k true false 1 2 0)) ∧
    (∀ k : Fin 6, Executes (engineWith (encA always 0x14 k true false 0 0 0) [] [(1, 1)]) 0 always (encA always 0x14 k true false 0 0 0)) ∧
    ∀ k : Fin 3, Executes (engineWith (encA always 0x14 (6 + k.val) true false 0 0 39) [] [(1, 1)]) 0 always (encA always 0x14 (6 + k.val) true false 0 0 39) :=
  ⟨fun k => executes_sound _ _ (by revert k; decide +kernel), fun k => executes_sound _ _ (by revert k; decide +kernel),
    fun k => executes_sound _ _ (by revert k; decide +kernel)⟩
theorem witness_RoridMemoryAndStack_load : ∀ s ∈ [0x7FFC, 0x8000, 0x7FFE].map (fun a => engineWith (encL always 0x0A 1 2 2 false 0) [(2, a)] []),
    Executes s 0 always (encL always 0x0A 1 2 2 false 0) := all_execute _ _ (by decide +kernel)
theorem witness_RoridMemoryAndStack_store : Executes (engineWith (encL always 0x0B 1 2 0 false 0) [(2, 0x7FFF)] []) 0 always (encL always 0x0B 1 2 0 false 0) :=
  executes_sound _ _ (by decide +kernel)
theorem witness_RoridMemoryAndStack_bank : ∀ s ∈ [4095, 4096].map (fun a => engineWith (encW always 0x0D 1 2 0) [(2, a)] []),
    Executes s 0 always (encW always 0x0D 1 2 0) := all_execute _ _ (by decide +kernel)
theorem witness_RoridMemoryAndStack_istore : ∀ s ∈ [0, 0x10].map (fun h => engineWith (encW always 0x0E 1 2 0) [(2, 4095)] [(1, h)]),
    Executes s 0 always (encW always 0x0E 1 2 0) := all_execute _ _ (by decide +kernel)
theorem witness_RoridMemoryAndStack_stack : ∀ k : Fin 2, ∀ s ∈ [0x100, 0x104, 0x105, 0x1FC, 0x200].map (fun sp =>
    engineWith (encS always k 1) [(15, sp)] [(5, 0x01000200)]), Executes s 0 always (encS always k 1) :=
  fun k => all_execute _ _ (by revert k; decide +kernel)
theorem witness_RoridControlTransfer : ∀ k : Fin 4, Executes (engine (encK always k 0 false 0)) 0 always (encK always k 0 false 0) :=
  fun k => engine_executes _ (by revert k; decide)
theorem witness_RoridControlTransfer_branch :
    Executes (engineWith (encB always 0x10 1 true 0xFFF) [(1, 1)] []) 0 always (encB always 0x10 1 true 0xFFF) ∧
    Executes (engineWith (encB always 0x11 0 false 5) [] [] fun q => { q with eng := { q.eng with rstack := List.replicate 16 1 } }) 0 always
      (encB always 0x11 0 false 5) ∧
    Executes (engineWith (encK always 5 0 false 0xABC) [] []) 0 always (encK always 5 0 false 0xABC) :=
  ⟨executes_sound _ _ (by decide +kernel), executes_sound _ _ (by decide +kernel), executes_sound _ _ (by decide +kernel)⟩

/-- A port whose event table, at word 0x10, has an entry for event 31, which is pending. -/
def eventPort (w : Word) (f : Engine → Engine := id) : State :=
  engine w fun q => { q with evPend := 0x80000000, eng := f q.eng
                             bankA := { hdr := [(3, 0x00200000), (4, 0x10)], words := [(0x2F, 0x80000005)] } }

theorem witness_RoridWaitsAndTraps : executes (eventPort (encK always 4 0 true 0)) (encK always 4 0 true 0) = true ∧
    (portOf (eventPort 0) 0).evPend.getLsbD 31 = true ∧ (∀ j : Fin 31, (portOf (eventPort 0) 0).evPend.getLsbD j = false) ∧
    (bankWord (portOf (eventPort 0) 0) (fieldOf (imageHdr (portOf (eventPort 0) 0) 4) 0 12 + 31)).getLsbD 31 = true := by decide +kernel
theorem witness_RoridWaitsAndTraps_none : executes (engine (encK always 4 1 false 0)) (encK always 4 1 false 0) = true ∧
    (portOf (engine 0) 0).evPend = 0 := by decide +kernel
theorem witness_RoridWaitsAndTraps_taken :
    (portOf (eventPort 0 fun e => { e with wait := .event 0x80000000 }) 0).eng.wait = .event 0x80000000 := by decide +kernel
theorem witness_RoridWaitsAndTraps_illegal : engineAt (engine 0xFFFFFFFF) 0 0xFFFFFFFF = true ∧ roridLegal false 0xFFFFFFFF = false := by decide +kernel
theorem test_waitev : ((match exec (.rWaitev 0 always 0 true) (eventPort (encK always 4 0 true 0)) with
    | .next t => (portOf t 0).eng.pc == 5 && (portOf t 0).evPend == 0 && (portOf t 0).eng.cycle == 2
    | _ => false) : Bool) = true := by decide +kernel

theorem witness_RoridInputOutput : ∀ a ∈ [(0x00 : BitVec 8), 0x04, 0x18, 0x1C, 0x63, 0x68, 0x6B, 0x70, 0x7F, 0x80, 0xBF, 0xC0, 0xFF].toArray.toList,
    executes (engine (encIO always 0 1 0 false a)) (encIO always 0 1 0 false a) = true ∧
      executes (engine (encIO always 1 1 0 false a)) (encIO always 1 1 0 false a) = true := by
  intro a h
  have : [(0x00 : BitVec 8), 0x04, 0x18, 0x1C, 0x63, 0x68, 0x6B, 0x70, 0x7F, 0x80, 0xBF, 0xC0, 0xFF].all (fun a =>
    executes (engine (encIO always 0 1 0 false a)) (encIO always 0 1 0 false a) && executes (engine (encIO always 1 1 0 false a)) (encIO always 1 1 0 false a)) = true := by
    decide +kernel
  simpa using List.all_eq_true.mp this a (by simpa using h)

/-- Queue 7, attached to port 0 of partition 1, which stands before a word; register 2 holds the queue's number. -/
def queued (w : Word) (q : Queue) (f : Port → Port := id) : State :=
  { engineWith w [(2, 7)] [] (fun x => f { x with owner := some 1 }) with deck := { State.reset.deck with queues := [(7, { q with port := some 0 })] } }

/-- A packet of 65 bytes in cells 0 and 1. -/
def packet65 : Packet := ⟨[0, 1], 65⟩

theorem witness_RoridQueueConsumer : executes (queued (encQ always 3 1 2 0 0 false) { owner := 1, depth := 4, packets := [packet65] }) (encQ always 3 1 2 0 0 false) = true ∧
    visible { owner := 1, depth := 4, packets := [packet65] } = 1 ∧ packetAt { owner := 1, depth := 4, packets := [packet65] } 0 = some packet65 := by
  decide +kernel
theorem witness_RoridQueueConsumer_attached : Attached (queued 0 { owner := 1, depth := 4 }) 0 7 7 { owner := 1, depth := 4, port := some 0 } :=
  ⟨by decide +kernel, by decide, by decide, by decide +kernel, rfl⟩
theorem witness_RoridQueueConsumer_others : ∀ k : Fin 6, executes (queued (encQ always (4 + k.val) 1 2 0 0 false) { owner := 1, depth := 4 }) (encQ always (4 + k.val) 1 2 0 0 false) = true := by
  decide +kernel
theorem witness_RoridQueueConsumer_gone : portFenced (engineWith 0 [(2, 7)] []) 0 7 = false ∧ (queueOf (engineWith 0 [(2, 7)] []) 7).isNone = true := by decide +kernel
/-- An open read of the packet, with one cell arrived. -/
def read65 : OpenRead := { pkt := 0, cells := [0, 1], len := 65, pos := 60, arrived := 1 }
theorem witness_RoridQueueConsumer_get : executes (queued (encQ always 4 1 2 0 2 false) { owner := 1, depth := 4 } fun x => { x with reads := [(7, read65)] })
      (encQ always 4 1 2 0 2 false) = true ∧ read65.len ≤ 64 * read65.cells.length ∧ read65.pos + 4 < read65.len ∧ (read65.pos + 4 + 63) / 64 ≤ read65.arrived := by
  decide +kernel

theorem witness_RoridQueueProducer : ∀ k : Fin 3, executes (queued (encQ always k 1 2 0 0 false) { owner := 1, depth := 4, building := [{ agent := .port 0, pkt := ⟨[0], 5⟩ }] })
    (encQ always k 1 2 0 0 false) = true := by decide +kernel
theorem witness_RoridQueueProducer_full : (16777215 < (⟨[], 16777212⟩ : Packet).len + 4) ∧ ¬ (16777215 < (⟨[], 16777211⟩ : Packet).len + 4) := by decide

theorem witness_RoridQueueWaits : (portOf (queued 0 { owner := 1, depth := 4, packets := [packet65], waiting := [.port 0] } fun x => { x with eng := { x.eng with wait := .claim 7 1 } }) 0).eng.wait = .claim 7 1 ∧
    Agent.port 0 ∈ ({ owner := 1, depth := 4, packets := [packet65], waiting := [.port 0] } : Queue).waiting.take
      (visible { owner := 1, depth := 4, packets := [packet65], waiting := [.port 0] }) := by decide +kernel
theorem witness_RoridQueueWaits_get : read65.arrived < read65.cells.length ∧ read65.arrived < read65.pos / 64 + 2 ∧ read65.pos + 4 < read65.len := by decide
theorem witness_RoridQueueWaits_put : quotaFail { queued 0 { owner := 1, depth := 4 } with part := [(1, { cells := 1 })] } (.port 0) { owner := 1, depth := 4 } = none ∧
    (appendBytes { queued 0 { owner := 1, depth := 4 } with part := [(1, { cells := 1 })] } (.port 0) 7 [1, 2, 3, 4]).refused = none := by decide +kernel

/-! ## Manifest entries -/

/-- Word 0 of an entry: opcode, target and flags, with condition mask 15. -/
def w0 (op tgt flags : Nat) : Word := BitVec.ofNat 32 (op + flags * 256 + tgt * 65536 + 15 * 2 ^ 24)

/-- An entry with ONWARD: opcode, target, count and words 2 to 6. -/
def entryOf (op tgt count : Nat) (w2 : Word := 0) (w3 : Word := 0) (w4 : Word := 0) (w5 : Word := 0) (w6 : Word := 0) (flags : Nat := 1) : List Word :=
  [w0 op tgt flags, BitVec.ofNat 32 count, w2, w3, w4, w5, w6, 0xABCD]

/-- An untimed voyage of partition 1 in its first entry of two, its manifest at 0x10000; `VEVENT` is 700. -/
def aboard : Voyage :=
  { part := 1, header := 0x10000, ring := 0, cring := some 0, hdr := [0, 700 * 65536, 0, 0, 0, 0, 2], state := .active, slot := some 0,
    captured := [(3, 9)] }

/-- The device with voyage 5 before an entry whose page the cache holds. Partition 1 has a window on 64 KiB of host memory, its events from 600 on, port 3, queue 7, an unfinished completion ring. -/
def sailing (w : List Word) (f : Voyage → Voyage := id) : State :=
  { running with
    sch := { voy := [(5, f aboard)], slots := [(0, 5)],
             pages := [{ part := 1, addr := 0x10000, data := memPut [] 64 (w.flatMap fun x => leBytes 4 x.toNat), window := 0 }] }
    part := [(1, { wins := [(0, ⟨true, true, true, 0, 0, 0x10000, 0x10000, 0x40000⟩)], busMaster := true, evtBase := 600, evtCount := 16, cells := 100,
                   keyslots := 0x10 })]
    vfEnable := true
    cq := [(8, { size := 4, base := 0, shadow := 0, irqEn := false })]
    port := [(3, { owner := some 1, number := 9, eng := { state := .running }, bankA := { hdr := [(6, 0x01000200), (7, 0x00080008)] },
                   netl := [(0, 0x80000258)] })]
    deck := { queues := [(7, { owner := 1, depth := 4, packets := [packet65] }), (8, { owner := 1, depth := 4 })] }
    brg := [(2, { owner := some 1 })] }

theorem runs_of (s : State) (v : Nat) (x : Voyage) (w : List Word)
    (h : isRun s = true ∧ (s.sch.voy.map Prod.fst).Pairwise (· < ·) ∧ voyOf s v = some x ∧ x.state = .active ∧ x.stage = .fresh ∧ x.timed = false ∧
      x.entry = x.ckEntry ∧ x.countedTo ≤ x.entry ∧ x.answer = none ∧ x.suspending = false ∧ x.halting = false ∧ x.saw = false ∧ x.chainK = 0 ∧
      entryWords s x x.entry = some w ∧ (lookAhead s x).2 = none ∧ entryFormat s x w = none ∧ (condOf w).testBit x.cond.toNat = true ∧
      fPause w = false ∧ fSpan w = false ∧ ownFail s x w = none) : EntryRuns s v x w := by
  obtain ⟨a, b, c, d, e, f, g, z, i, j, k, l, m, n, o, p⟩ := h
  exact ⟨⟨a, b, c, d, e, f, g, z, i, j, k, l, m, n, o⟩, p⟩

/-- Whether an entry runs for voyage 5 of a state. -/
def runsIn (s : State) (w : List Word) (x : Voyage) : Bool :=
  isRun s && decide ((s.sch.voy.map Prod.fst).Pairwise (· < ·)) && (voyOf s 5 == some x) && (x.state == .active) && (x.stage == .fresh) &&
    !x.timed && (x.entry == x.ckEntry) && decide (x.countedTo ≤ x.entry) && x.answer.isNone && !x.suspending && !x.halting && !x.saw && (x.chainK == 0) &&
    (entryWords s x x.entry == some w) && (lookAhead s x).2.isNone && (entryFormat s x w).isNone && (condOf w).testBit x.cond.toNat &&
    !fPause w && !fSpan w && (ownFail s x w).isNone

theorem runsIn_sound (s : State) (w : List Word) (x : Voyage) (h : runsIn s w x = true) : EntryRuns s 5 x w := by
  simp only [runsIn, Bool.and_eq_true, beq_iff_eq, decide_eq_true_eq, Bool.not_eq_true', Option.isNone_iff_eq_none] at h
  obtain ⟨⟨⟨⟨⟨⟨⟨⟨⟨⟨⟨⟨⟨⟨⟨⟨⟨⟨⟨a, b⟩, c⟩, d⟩, e⟩, f⟩, g⟩, z⟩, i⟩, j⟩, k⟩, l⟩, m⟩, n⟩, o⟩, p⟩, q⟩, r⟩, t⟩, u⟩ := h
  exact ⟨⟨a, b, c, d, e, f, g, z, i, j, k, l, m, n, o⟩, p, q, r, t, u⟩

/-- A ring with room, whose voyage has no earlier record that waits. -/
theorem room_of (s : State) (v : Nat) (x : Voyage) (m : Nat) (c : CompRing)
    (h : x.heldRecs = [] ∧ s.sch.following = [] ∧ s.sch.notAdmitted = [] ∧ x.cring = some m ∧ cqOf s x.part m = some c ∧ c.late = [] ∧
      c.fault = false ∧ occupancy c < c.size) : RingHasRoom s v x m := by
  obtain ⟨a, b, d, e, f, g, i, j⟩ := h
  refine ⟨⟨a, by simp [b], by simp [d], fun k z hk hz r hr => ?_⟩, e, c, f, i, j⟩
  cases e.symm.trans hk
  cases f.symm.trans hz
  simp [g] at hr

/-- The entry runs for voyage 5, and asks for nothing more. -/
def quietRuns (f : List Word → State) (w : List Word) : Bool := runsIn (f w) w aboard && fOnward w && !fPost w && !fEvt w

theorem all_run (f : List Word → State) (l : List (List Word)) (h : l.all (quietRuns f) = true) :
    ∀ w ∈ l, EntryRuns (f w) 5 aboard w ∧ quiet w := by
  intro w m
  have := List.all_eq_true.mp h w m
  simp only [quietRuns, Bool.and_eq_true, Bool.not_eq_true'] at this
  exact ⟨runsIn_sound _ _ _ this.1.1.1, this.1.1.2, this.1.2, this.2⟩

theorem witness_ManifestRegisterEntries :
    ∀ w ∈ [entryOf 0x00 0xF4 0, entryOf 0x08 0xF4 0 5 0 7, entryOf 0x09 0xF4 0 0xFFFFFFFF 0 0x1F77 0 0xFFFFFFFF, entryOf 0x05 0xF4 0 0 0 1,
      entryOf 0x07 0xF4 0 5 0 7 1 0xFFFFFFFF, entryOf 0x07 0xF0 0 1 0 7 0 0xFFFFFFFF, entryOf 0x07 0xF1 0 1 0 2 0 0xFFFFFFFF],
    EntryRuns (sailing w) 5 aboard w ∧ quiet w := all_run sailing _ (by decide +kernel)
theorem witness_ManifestRegisterEntries_end : EntryRuns (sailing (entryOf 0x1F 0xF4 0 (flags := 0))) 5 aboard (entryOf 0x1F 0xF4 0 (flags := 0)) ∧
    aboard.heldRecs = [] := ⟨runsIn_sound _ _ _ (by decide +kernel), rfl⟩
theorem test_setv : ((match exec (.mSetv 5) (sailing (entryOf 0x08 0xF4 0 5 0 7)) with
    | .next t => (voyOf t 5).any fun y => y.entry == 1 && vreg y 7 == 5
    | _ => false) : Bool) = true := by decide +kernel

theorem witness_ManifestRecordsAndEvents : ∀ w ∈ [entryOf 0x0E 0xF4 0 0 0 7, entryOf 0x00 0xF4 0 (flags := 0x11), entryOf 0x06 0xF4 0 0 0 600, entryOf 0x0F 0xF4 0 0 0 600],
    EntryRuns (sailing w) 5 aboard w := by
  intro w h
  have : [entryOf 0x0E 0xF4 0 0 0 7, entryOf 0x00 0xF4 0 (flags := 0x11), entryOf 0x06 0xF4 0 0 0 600, entryOf 0x0F 0xF4 0 0 0 600].all
    (fun w => runsIn (sailing w) w aboard) = true := by decide +kernel
  exact runsIn_sound _ _ _ (List.all_eq_true.mp this w h)
theorem witness_ManifestRecordsAndEvents_room : RingHasRoom (sailing []) 5 aboard 0 :=
  room_of _ _ _ _ { size := 4, base := 0, shadow := 0, irqEn := false } (by decide +kernel)
/-- Entries that the checks reject: a reserved opcode, a NOP aimed at a port, a NOP whose index and condition stand at the end, and a SIGNAL. -/
theorem witness_ManifestRecordsAndEvents_rejected : ∀ w ∈ [entryOf 0x12 0xF4 0, entryOf 0x1E 0xF4 0, entryOf 0x00 3 0, entryOf 0x05 0xF4 0 0 0 2],
    entryWords (sailing w) aboard 0 = some w ∧ (entryFormat (sailing w) aboard w).isSome = true := by decide +kernel
theorem witness_ManifestRecordsAndEvents_unmet : let w := entryOf 0x00 0xF4 0 |>.set 0 0x0EF40100
    entryWords (sailing w) aboard 0 = some w ∧ entryFormat (sailing w) aboard w = none ∧ (condOf w).testBit 0 = false ∧ aboard.entry + 1 < entryCount aboard := by
  decide +kernel
theorem witness_ManifestRecordsAndEvents_owner : let w := entryOf 0x03 4 0
    entryWords (sailing w) aboard 0 = some w ∧ entryFormat (sailing w) aboard w = none ∧ ownFail (sailing w) aboard w = some (0x13, 0x01) := by decide +kernel
theorem witness_ManifestRecordsAndEvents_listener : (tGet (portOf (sailing []) 3).netl 0 0).getLsbD 31 = true ∧ fieldOf (tGet (portOf (sailing []) 3).netl 0 0) 0 10 = 600 ∧
    (partOf (sailing []) 1).evtBase = 600 ∧ (sailing []).port.map Prod.fst = [3] := by decide +kernel

theorem witness_ManifestPortTransfers :
    ∀ w ∈ [entryOf 0x02 3 4 7 0 0x200 1, entryOf 0x02 3 4 0 0 0x2FC 0x72, entryOf 0x02 3 0x100 0x10000 0 0x200, entryOf 0x02 0xF4 4 0x1FFFC 0 7,
      entryOf 0x01 3 0x100 0x1FF00 0 0x200, entryOf 0x01 0xF4 4 0x10000 0 7, entryOf 0x04 3 0 1 0 0x1C 7 0xFF],
    EntryRuns (sailing w) 5 aboard w ∧ quiet w := all_run sailing _ (by decide +kernel)
theorem witness_ManifestPortTransfers_place : imageFabBase (portOf (sailing []) 3) = 0x200 ∧ imageFabLen (portOf (sailing []) 3) = 0x100 ∧
    windowFail (sailing []) 1 0x1FF00 0x100 .write = none ∧ windowFail (sailing []) 1 0x10000 0x100 .read = none ∧ windowFail (sailing []) 1 0x1FF01 0x100 .write = some 3 ∧
    windowAt (sailing []) 1 0x1FF00 = some ⟨true, true, true, 0, 0, 0x10000, 0x10000, 0x40000⟩ ∧ asleepAt (sailing []) 1 0x1FF00 = none ∧
    imageInWords (portOf (sailing []) 3) = 8 ∧ (portOf (sailing []) 3).eng.state ≠ .noImage := by decide +kernel

theorem witness_ManifestRequests : ∀ w ∈ [entryOf 0x03 3 0 5 6, entryOf 0x0A 3 0 5 6 7 0x70], EntryRuns (sailing w) 5 aboard w ∧ quiet w :=
  all_run sailing _ (by decide +kernel)
theorem witness_ManifestRequests_answered : ∀ a ∈ [{ status := 0 }, { status := 0x30, ext := 7 }, { status := 0, cond := some 2, value := some 5 }],
    let s := sailing (entryOf 0x03 3 0 5 6) fun x => { x with stage := .woken, answer := some a, cur := entryOf 0x03 3 0 5 6 }
    isRun s = true ∧ voyOf s 5 = some { aboard with stage := .woken, answer := some a, cur := entryOf 0x03 3 0 5 6 } := by decide +kernel

theorem witness_ManifestQueues :
    ∀ w ∈ [entryOf 0x0D 0xF0 0 0 0 7 0x00, entryOf 0x0D 0xF0 0 0 0 7 0x01, entryOf 0x0D 0xF0 0 0 0 7 0x02, entryOf 0x0D 0xF0 0 0 0 7 0x73, entryOf 0x0D 0xF0 0 0 0 7 0x74,
      entryOf 0x01 0xF0 65 0x10000 0 7, entryOf 0x01 0xF0 65 0 0 7 0 0 5, entryOf 0x01 0xF0 65 0 0 8 0 0 5, entryOf 0x0C 0xF0 65 0 0 7 0 0 5, entryOf 0x02 0xF0 3 1 0 8 1,
      entryOf 0x0C 0xF0 65 0 0 7 8],
    EntryRuns (sailing w) 5 aboard w ∧ quiet w := all_run sailing _ (by decide +kernel)
theorem witness_ManifestQueues_queue : queueOf (sailing []) 7 = some { owner := 1, depth := 4, packets := [packet65] } ∧
    visible { owner := 1, depth := 4, packets := [packet65] } = 1 ∧ visible { owner := 1, depth := 4 } = 0 ∧ packet65.cells.length = (packet65.len + 63) / 64 ∧
    (appendBytes (reachEntry (sailing (entryOf 0x02 0xF0 3 1 0 8 1)) 5 aboard (entryOf 0x02 0xF0 3 1 0 8 1)) (.voyage 5) 8 [1, 0, 0]).refused = none := by decide +kernel
theorem witness_ManifestQueues_forward : (appendBytes (markEffect (modQueue (reachEntry (sailing (entryOf 0x0C 0xF0 65 0 0 7 8)) 5 aboard (entryOf 0x0C 0xF0 65 0 0 7 8)) 7
    fun y => claimPacket y (.voyage 5)) 5) (.voyage 5) 8 (packetBytes [] packet65)).refused = none := by decide +kernel

/-- The device before a BARGE whose descriptor at 0x10080 copies 64 bytes. -/
def bargeAt (w : List Word) (c : Channel := { owner := some 1 }) : State :=
  { sailing w with hostMem := memPut [] 0x40080 (([0, 0, 64, 0, 0x10000, 0, 0x10100, 0] : List Word).flatMap fun x => leBytes 4 x.toNat), brg := [(2, c)] }
theorem witness_ManifestBarge : ∀ c ∈ [{ owner := some 1 }, { owner := some 1, active := some { desc := ⟨0, false, false, false, 0, 0, 1, 0, 0, false⟩ } },
      { owner := some 1, active := some { desc := ⟨0, false, false, false, 0, 0, 1, 0, 0, false⟩ }, shadow := some ⟨0, false, false, false, 0, 0, 1, 0, 0, false⟩ }],
    EntryRuns (bargeAt (entryOf 0x0B 0xF1 0 0x10080 0 2) c) 5 aboard (entryOf 0x0B 0xF1 0 0x10080 0 2) := by
  intro c h
  simp only [List.mem_cons, List.not_mem_nil, or_false] at h
  obtain rfl | rfl | rfl := h <;> exact runsIn_sound _ _ _ (by decide +kernel)
theorem witness_ManifestBarge_descriptor : (parseDesc ((List.range 32).map fun i => byteAt (bargeAt []) ⟨true, true, true, 0, 0, 0x10000, 0x10000, 0x40000⟩ (0x10080 + i)) false).isSome = true ∧
    windowFail (bargeAt []) 1 0x10080 32 .read = none := by decide +kernel

/-- The device with endpoint 20, whose key is in slot 4, and voyage 5. -/
def authAt (w : List Word) (f : Voyage → Voyage := id) : State :=
  { sailing w f with ep := { dir := [(20, { state := .ready, kind := 0, owner := 1, port := 127, busAddr := 8, authEn := true, keySlot := 4, rxFresh := 5 }),
                                     (21, { state := .ready, kind := 0, owner := 1, port := 127, busAddr := 8 }),
                                     (22, { state := .ready, kind := 2, owner := 1, link := true })] }
                     sec := { State.reset.sec with keys := [(4, { kind := 1, material := List.replicate 16 0 })] } }
theorem witness_ManifestAuthentication : EntryRuns (authAt (entryOf 0x10 0xF3 0 0 0 7 20)) 5 aboard (entryOf 0x10 0xF3 0 0 0 7 20) ∧
    EntryRuns (authAt (entryOf 0x10 0xF3 0 0 0 8 20)) 5 aboard (entryOf 0x10 0xF3 0 0 0 8 20) :=
  ⟨runsIn_sound _ _ _ (by decide +kernel), runsIn_sound _ _ _ (by decide +kernel)⟩
/-- The device of `authAt` with the message `m` in queue 8. -/
def mailAt (w : List Word) (m : List Byte) : State :=
  let s := authAt w
  { s with deck := { s.deck with mem := memPut [] (64 * 3) m, queues := [(8, { owner := 1, depth := 4, packets := [⟨[3], m.length⟩] })] } }
/-- An AUTH of the message by endpoint `e`, at the entry of which the voyage stands. -/
def authRuns (e : Nat) (m : List Byte) : Bool :=
  let w := entryOf 0x10 0xF3 0 0 0 8 e
  let s := mailAt w m
  runsIn s w aboard && (queueOf s 8).any fun q => visible q == 1 && (packetAt q q.readAt).any fun k => packetBytes s.deck.mem k == m && k.cells == [3]
/-- A message with freshness `f` under the key of zeros, and one with a MAC of zeros. -/
def signedAs (f : Nat) : List Byte := leBytes 8 f ++ macOf (List.replicate 16 0) 20 (leBytes 8 f)
/-- Messages too short, with a bad MAC, with a freshness of 5 and of 6 for an endpoint at 5, and an endpoint without a key. -/
theorem witness_ManifestAuthentication_short : authRuns 20 [1, 2, 3] = true ∧ authRuns 21 [1, 2, 3] = true ∧
    authFail (mailAt [] []) 1 (epOf (mailAt [] []) 20) (epOf (mailAt [] []) 20).rxFresh = none ∧
    authFail (mailAt [] []) 1 (epOf (mailAt [] []) 21) 0 = some 1 := by decide +kernel
theorem witness_ManifestAuthentication_bad : authRuns 20 (leBytes 8 6 ++ List.replicate 8 0) = true ∧
    macOf (List.replicate 16 0) 20 (leBytes 8 6) ≠ List.replicate 8 0 := by decide +kernel
theorem witness_ManifestAuthentication_good : ∀ f ∈ [(6 : Nat), 5], authRuns 20 (signedAs f) = true ∧ (signedAs f).length = 16 ∧
    (signedAs f).drop 8 = macOf (slotOf (authAt []) 4).material 20 ((signedAs f).take 8) ∧ leNat (signedAs f |>.take 8) = f := by decide +kernel
/-- A voyage whose AUTH is under way, with either kind of finding. -/
theorem witness_ManifestAuthentication_answer : ∀ r ∈ [AuthFinding.cond 2, .fail 1],
    let w := entryOf 0x10 0xF3 0 0 0 8 20
    let x : Voyage := { aboard with state := .parked, park := .crypto, stage := .waiting, slot := none, cur := w, first := w, auth := some r }
    let s := authAt w fun _ => x
    isRun s = true ∧ voyOf s 5 = some x ∧ s.sch.inService ≠ 0 ∧ fOnward w = true ∧ fPost w = false ∧ fEvt w = false ∧ x.heldRecs = [] ∧
      ((cqOf s 1 0).any fun c => !c.fault && decide (occupancy c < c.size)) = true := by decide +kernel

theorem witness_ManifestEndpointMessages : ∀ w ∈ [entryOf 0x11 0xF2 64 0x10000 0 0x3FFF, entryOf 0x11 0xF2 64 0x10000 0 21, entryOf 0x11 0xF2 64 0x10000 0 22],
    EntryRuns (authAt w) 5 aboard w ∧ quiet w := all_run (fun w => authAt w) _ (by decide +kernel)
theorem witness_ManifestEndpointMessages_queue :
    (appendBytes (reachEntry (authAt (entryOf 0x11 0xF2 64 0x10000 0 21)) 5 aboard (entryOf 0x11 0xF2 64 0x10000 0 21)) (.voyage 5) 8 (List.replicate 64 0)).refused = none ∧
    (queueOf (authAt []) 8).any (fun q => q.building.isEmpty) = true ∧ sinkCells (authAt []) + 1 ≤ 4096 := by decide +kernel
theorem witness_ManifestEndpointMessages_path : (queueOf { authAt [] with deck := { (authAt []).deck with queues := (authAt []).deck.queues ++ [(pathNo 1, emptyPath)] } } (pathNo 1)).isSome = true := by
  decide +kernel

/-! ## Voyages and rings -/

theorem witness_SlotsAndTimeouts : ∀ t ∈ [true, false],
    let s := { sailing [] fun x => { x with slot := some 0 } with
      sch := { (sailing []).sch with voy := [(5, aboard), (9, { aboard with state := .ready, timed := t, slot := none })], inService := 0x0001
                                     slots := [(0, 5), (1, 5), (2, 5), (3, 5)].take 1 } }
    isRun s = true ∧ voyOf s 5 = some aboard ∧ voyOf s 9 = some { aboard with state := .ready, timed := t, slot := none } ∧
      (freeSlot s).isSome = true ∧ s.pwr.quiesce = false ∧ s.pwr.thermal = false := by decide +kernel
/-- Four slots in service, each held by a voyage, the fifth voyage being timed and Ready. -/
def fullEngine : State :=
  { sailing [] with sch := { State.reset.sch with
      voy := [(5, { aboard with since := 4 }), (6, { aboard with slot := some 1, since := 3 }), (7, { aboard with slot := some 2, since := 2 }),
              (8, { aboard with slot := some 3, since := 1 }), (9, { aboard with state := .ready, timed := true, slot := none })]
      inService := 0x0001, slots := [(0, 5), (1, 6), (2, 7), (3, 8)] } }
theorem witness_SlotsAndTimeouts_preempted : freeSlot fullEngine = none ∧ firstTimed fullEngine = some 9 ∧ 0 ∈ slotList fullEngine ∧
    (fullEngine.sch.voy.all fun z => !(z.2.state == .active) || z.1 == 5 || z.2.since < 4) = true := by decide +kernel
theorem witness_SlotsAndTimeouts_waits : ∀ p ∈ [Park.event 600, .landing, .request 3, .shadow 2, .queue 8, .quota 8],
    let x : Voyage := { aboard with state := .parked, stage := .waiting, slot := none, park := p, deadline := some 0, cur := entryOf 0x01 0xF0 65 0 0 8 }
    voyOf (sailing [] fun _ => x) 5 = some x ∧ (sailing []).tb.time = 0 ∧ quiet (entryOf 0x01 0xF0 65 0 0 8) ∧ RingHasRoom (sailing []) 5 aboard 0 := by
  intro p _
  exact ⟨rfl, rfl, ⟨by decide, by decide, by decide⟩, room_of _ _ _ _ { size := 4, base := 0, shadow := 0, irqEn := false } (by decide +kernel)⟩

/-- A page that partition 1 waits for, of a kind of memory. -/
def filling (f : Fill) (wake : Bool := false) : State :=
  { sailing [] fun x => { x with state := .parked, park := .miss f.addr, slot := none } with
    sch := { (sailing []).sch with voy := [(5, { aboard with state := .parked, park := .miss f.addr, slot := none })], slots := [], fills := [f] }
    part := [(1, { wins := [(0, ⟨true, true, true, 0, 0, 0x10000, 0x10000, 0x40000⟩), (1, ⟨true, true, true, 1, 2, 0x20000, 0x1000, 0⟩)], busMaster := true })]
    bank := [(2, { ret := wake })] }
theorem witness_ManifestPagesArrive : ∀ a ∈ [0x10000, 0x1F000], (filling ⟨1, a, some 5⟩).sch.fills.find? (fun f => f.part == 1) = some ⟨1, a, some 5⟩ ∧
    windowFail (filling ⟨1, a, some 5⟩) 1 a 4096 .manifest = none ∧ windowOf (filling ⟨1, a, some 5⟩) 1 a = some (0, ⟨true, true, true, 0, 0, 0x10000, 0x10000, 0x40000⟩) ∧
    asleepAt (filling ⟨1, a, some 5⟩) 1 a = none ∧ (filling ⟨1, a, some 5⟩).hostBad = [] := by decide +kernel
theorem witness_ManifestPagesArrive_asleep : windowFail (filling ⟨1, 0x20000, some 5⟩ true) 1 0x20000 4096 .manifest = none ∧
    asleepAt (filling ⟨1, 0x20000, some 5⟩ true) 1 0x20000 = some 2 := by decide +kernel
theorem witness_ManifestPagesArrive_none : windowFail (filling ⟨1, 0x21000, some 5⟩) 1 0x21000 4096 .manifest = some 1 ∧
    pageOf (entryAddr { aboard with header := 0x21000 } 0) = 0x21000 ∧ aboard.entry < entryCount aboard := by decide +kernel

/-- The words of a header: of an untimed voyage, of a timed one, with a wrong MAGIC, and with no entries. -/
def headers : List (List Word) := [[0x00024D46, 0, 0, 0, 0, 1, 2, 0], [0x00024D46, 1, 100, 0, 0, 0x00010002, 2, 0], [0x00024D47, 0, 0, 0, 0, 1, 2, 0], [0x00024D46, 0, 0, 0, 0, 1, 0, 0]]
/-- The START of voyage 5 waits for the header at 0x10FC0, the last place of its page; the cache holds it. -/
def headed (h : List Word) : State :=
  { sailing [] fun _ => { part := 1, header := 0x10FC0, ring := 0, state := .candidate } with
    sch := { (sailing []).sch with
      voy := [], starting := [(5, { part := 1, header := 0x10FC0, ring := 0, state := .candidate })], slots := []
      pages := [{ part := 1, addr := 0x10000, data := memPut [] 0xFC0 (h.flatMap fun x => leBytes 4 x.toNat), window := 0 }] } }
theorem witness_ManifestHeaders : ∀ h ∈ headers, (headed h).sch.rounds = [] ∧
    onItsWay (headed h) 5 = some { part := 1, header := 0x10FC0, ring := 0, state := .candidate } ∧ (voyOf (headed h) 5).isNone = true ∧
    (headerPage (headed h) { part := 1, header := 0x10FC0, ring := 0, state := .candidate }).map (fun g => (List.range 8).map (wordAt (memBytes g.data 0xFC0 64))) = some h ∧
    (cqOf (headed h) 1 0).any (fun c => occupancy c < c.size) = true ∧ 0x10FC0 % 4096 = 0xFC0 ∧ 0x10FC0 % 64 = 0 := by decide +kernel
theorem witness_ManifestHeaders_memory : let s := { headed [] with sch := { (headed []).sch with pages := [] } }
    (headerPage s { part := 1, header := 0x10FC0, ring := 0, state := .candidate }).isNone = true ∧ windowFail s 1 (pageOf 0x10FC0) 4096 .manifest = none ∧
    windowAt s 1 (pageOf 0x10FC0) = windowAt s 1 0x10FC0 ∧ (windowAt s 1 0x10FC0).isSome = true := by decide +kernel
theorem witness_ManifestHeaders_noRing : (cqOf { headed [] with cq := [] } 1 0).isNone = true ∧
    (sqOf { headed [] with sq := [(8, { size := 4, base := 0, shadow := 0 })] } 1 0).isSome = true := by decide +kernel

/-- A START whose context another voyage has taken by the time of its header is refused (R115). -/
theorem test_header_occupied : (match exec (.manifestHeaderArrival 5 false)
      { headed [0x00024D46, 0, 0, 0, 0, 1, 2, 0] with
        sq := [(8, { size := 4, base := 0, shadow := 0 })], sch := { (headed [0x00024D46, 0, 0, 0, 0, 1, 2, 0]).sch with voy := [(5, aboard)] } } with
    | .next t => (sqOf t 1 0).map (fun r => (r.refused, r.reason.toNat)) == some (true, 5) && t.sch.starting.isEmpty && voyOf t 5 == some aboard
    | _ => false) = true := by decide +kernel

theorem witness_EngineRetirements : ∀ e : Fin 16, (sailing []).sch.inService.getLsbD e = true ∧ (sailing []).sch.voy.all (fun x => !x.2.timed) = true ∧
    (e ≠ 0 → (List.range 4).all (fun j => (tFind (sailing []).sch.slots (4 * e.val + j)).isNone) = true) := by decide +kernel
theorem witness_EngineRetirements_aboard : tFind (sailing []).sch.slots (4 * 0 + 0) = some 5 ∧ (tFind (sailing []).sch.slots 1).isNone = true ∧
    (∀ r ∈ [entryOf 0x02 3 4 (flags := 0x21), entryOf 0x02 3 4], (wd r 0).getLsbD 13 = decide (r = entryOf 0x02 3 4 (flags := 0x21))) := by decide +kernel

/-- Partition 1's submission ring 0, whose producer index is `p` and consumer index `c`. -/
def ringAt (p c : BitVec 16) : State := { running with part := [(1, {})], sq := [(8, { size := 4, base := 0x10000, shadow := 0x1FFF8, p := p, c := c })] }
/-- With C = 0xFFFE and P = 0xFFFF: doorbells that repeat the index, advance it, fill the ring, pass it, and go back. -/
theorem witness_SubmissionDoorbells : isRun (ringAt 0xFFFF 0xFFFE) = true ∧ (sqOf (ringAt 0xFFFF 0xFFFE) 1 0).isSome = true ∧
    ((0xFFFF : BitVec 16) - 0xFFFE).toNat = 1 ∧ ((0 : BitVec 16) - 0xFFFE).toNat = 2 ∧ ((2 : BitVec 16) - 0xFFFE).toNat = 4 ∧
    4 < ((3 : BitVec 16) - 0xFFFE).toNat ∧ ((0xFFFE : BitVec 16) - 0xFFFE).toNat < 1 := by decide +kernel
theorem test_doorbell_wraps : ((match exec (.sqDoorbell 1 0 0xABCD0002) (ringAt 0xFFFF 0xFFFE) with
    | .next t => (sqOf t 1 0).any fun r => r.p == 2 && !r.overrun && !r.regress
    | _ => false) : Bool) = true := by decide +kernel

/-- Ring 0 of partition 1 has one entry to fetch. -/
def submitted (w : List Word) (f : State → State := id) : State :=
  f { sailing [] with sch := State.reset.sch, sq := [(8, { size := 4, base := 0x10000, shadow := 0x1FFF8, p := 1 })]
                      hostMem := memPut [] 0x40000 (w.flatMap fun x => leBytes 4 x.toNat)
                      part := [(1, { (partOf (sailing []) 1) with vidBase := 4, vidCount := 4 })] }
/-- NOP, START with four registers, RESUME, HALT and DATA, each FIRST and LAST, and one of a reserved type. -/
theorem witness_SubmissionEntries :
    ∀ w ∈ [[0x300, 0, 0, 0, 0, 0, 0, 0], [0x00050301, 0xF, 0x10000, 0, 1, 2, 3, 4], [0x00050303, 0, 0, 0, 0, 0, 0, 0], [0x00050304, 0, 0, 0, 0, 0, 0, 0],
      [0x305, 0x00180008, 1, 2, 3, 4, 5, 6], [0x306, 0, 0, 0, 0, 0, 0, 0], [0x100, 0, 0, 0, 0, 0, 0, 0]],
    ((List.range 8).map fun k => BitVec.ofNat 32 (leNat ((List.range 4).map fun i => byteAt (submitted w) ⟨true, true, true, 0, 0, 0x10000, 0x10000, 0x40000⟩ (0x10000 + 4 * k + i)))) = w ∧
    windowFail (submitted w) 1 0x10000 32 .read = none ∧ windowAt (submitted w) 1 0x10000 = some ⟨true, true, true, 0, 0, 0x10000, 0x10000, 0x40000⟩ ∧
    (takenWords (submitted w) [] w).2 = w ∧ (fieldOf (wd w 0) 0 8 < 6 → seReserved w 4 = false) := by decide +kernel
theorem witness_SubmissionEntries_data : let s := submitted [0x305, 0x00180008, 1, 2, 3, 4, 5, 6]
    (queueOf s 8).any (fun q => q.owner == 1 && q.port.isNone) = true ∧ s.deck.stalls = [] ∧
    quotaFail s (.ring 1 0) { owner := 1, depth := 4 } = none ∧ nextCell s (.ring 1 0) = some 0 ∧ s.memWf = true := by decide +kernel
theorem witness_SubmissionEntries_halt : let x := { aboard with state := .parked, park := .event 600, slot := none }
    voyOf (submitted [] fun s => { s with sch := { s.sch with voy := [(5, x)] } }) 5 = some x ∧ RingHasRoom (submitted []) 5 x 0 :=
  ⟨rfl, room_of _ _ _ _ { size := 4, base := 0, shadow := 0, irqEn := false } (by decide +kernel)⟩
theorem witness_SubmissionEntries_window : windowFail (submitted [] fun s => { s with sq := [(8, { size := 4, base := 0x1FFF0, shadow := 0, p := 1 })] }) 1 0x1FFF0 32 .read = some 3 ∧
    asleepAt (submitted []) 1 0x1FFF0 = none := by decide +kernel

/-- A full completion ring of partition 1, with a late record or a parked voyage. -/
def fullRing (late : List (BitVec 128)) (parked : List Nat) : State :=
  { sailing [] fun x => { x with state := .parked, park := .room 0, stage := .posting, slot := none, posting := some 7 } with
    cq := [(8, { size := 4, base := 0x10000, shadow := 0x1FFF8, irqEn := true, p := 2, c := 0xFFFE, late := late, parked := parked })] }
theorem witness_ConsumerIndexWrites : ∀ s ∈ [fullRing [7] [], fullRing [] [5], fullRing [] []],
    isRun s = true ∧ (cqOf s 1 0).any (fun c => occupancy c == c.size && occupancy { c with c := 0xFFFF } < c.size && occupancy { c with c := c.p } == 0) = true := by
  decide +kernel
theorem witness_ConsumerIndexWrites_bounds : ((2 : BitVec 16) - 0xFFFE).toNat = 4 ∧ ((3 : BitVec 16) - 0xFFFE).toNat = 5 ∧ (voyOf (fullRing [] [5]) 5).any (fun x => x.posting == some 7) = true := by
  decide +kernel

/-- A completion ring of partition 1 with one record to write, and its submission ring, with their shadows. -/
def recorded (shadow base : Nat) : State :=
  { sailing [] with cq := [(8, { size := 4, base := base, shadow := shadow, irqEn := true, p := 5, unwritten := [(4, 0xABC)], shadowDue := true })]
                    sq := [(8, { size := 4, base := 0x10000, shadow := shadow, c := 7, shadowDue := true })] }
theorem witness_RecordsAndShadows : windowFail (recorded 0x1FFF8 0x10000) 1 0x1FFF8 8 .write = none ∧ windowFail (recorded 0x1FFF8 0x10000) 1 0x10000 16 .write = none ∧
    asleepAt (recorded 0x1FFF8 0x10000) 1 0x1FFF8 = none ∧ (windowAt (recorded 0x1FFF8 0x10000) 1 0x1FFF8) = windowAt (recorded 0x1FFF8 0x10000) 1 0x10000 ∧
    (cqOf (recorded 0x1FFF8 0x10000) 1 0).any (fun c => !c.fault && !c.unwritten.isEmpty) = true := by decide +kernel
theorem witness_RecordsAndShadows_outside : windowFail (recorded 0x20000 0x20000) 1 0x20000 16 .write = some 1 ∧ windowFail (recorded 0x20000 0x20000) 1 0x20000 8 .write = some 1 ∧
    asleepAt (recorded 0x20000 0x20000) 1 0x20000 = none := by decide +kernel

/-! ## The control interface -/

/-- The device of `sailing`, whose firmware has taken up a command of partition `p`'s mailbox in a session of version 3.2; port 7 belongs to nobody. -/
def asked (p : Nat) (op : Nat) (l : List Word) (f : State → State := id) : State :=
  let words := [BitVec.ofNat 32 op, BitVec.ofNat 32 (0x0302 + l.length * 65536)] ++ l
  f { sailing [] with mbx := [(p, { state := .busy, version := some 0x0302, locked := words, taken := some (words, some 0x0302) })]
                      fw := { State.reset.fw with running := true, ready := true, current := some p }
                      sec := { State.reset.sec with keys := [(4, { kind := 7, material := [] }), (5, { kind := 3, material := List.replicate 32 0 })] } }

/-- Whether firmware holds a command of a door, in the door's session, with a clean header. -/
def held (s : State) (p op : Nat) : Bool :=
  serves s p op && (mbxOf s p).state == .busy && (mbxOf s p).taken.any (fun x => x.2 == (mbxOf s p).version) && requestClean s p

theorem serves_sound (s : State) (p : Fin 32) (op : Nat) (h : held s p.val op = true) : Serves s (.page p) op p.val := by
  simp only [held, serves, requestClean, headerClean, Bool.and_eq_true, Bool.or_eq_true, beq_iff_eq, List.contains_iff_mem, Option.any_eq_true,
    Option.isNone_iff_eq_none] at h
  obtain ⟨⟨⟨⟨⟨⟨a, b⟩, c⟩, -⟩, d⟩, e⟩, ⟨x, y, z⟩⟩ := h.1
  have n : p.val ≠ 32 := by omega
  have m : doorNo (.page p) = p.val := rfl
  exact ⟨⟨a, b, c, e, ⟨x.1, by rw [m, y, ← z]⟩, d, by simp [doorPart, doorNo, n]⟩, h.2⟩

theorem all_served (p : Fin 32) (l : List (Nat × List Word)) (f : State → State) (h : l.all (fun x => held (asked p x.1 x.2 f) p.val x.1) = true) :
    ∀ x ∈ l, Serves (asked p x.1 x.2 f) (.page p) x.1 p.val :=
  fun x m => serves_sound _ _ _ (List.all_eq_true.mp h x m)

theorem witness_MailboxDoorbellsAndResponses : ∀ b ∈ ([.idle, .pending, .busy, .done] : List MbxState),
    let s : State := { running with mbx := [(1, { state := b })] }
    isRun s = true ∧ (mbxOf s 1).state = b ∧ s.pwr.hold = false ∧ s.pwr.mooring = none ∧ (partOf s 1).reset = none := by decide +kernel
/-- HELLO, a command of no session, one of another version, one that does not exist, PORT_COMMISSION, and IDENTITY_SCAN, pending at the mailbox of partition 31. -/
theorem witness_MailboxDoorbellsAndResponses_takeUp :
    ∀ x ∈ [((1 : Nat), (0 : Nat), 2, (none : Option (BitVec 16))), (0x10, 0x0200, 2, none), (0x10, 0x0200, 2, some 0x0302), (0x0F, 0x0302, 2, some 0x0302),
      (0x10, 0x0302, 2, some 0x0302), (0x80, 0x0302, 4, some 0x0302), (0x10, 0x0302, 0, some 0x0302)],
    let s : State := { running with
      mbx := [(31, { state := .pending, version := x.2.2.2, locked := [BitVec.ofNat 32 x.1, BitVec.ofNat 32 (x.2.1 + x.2.2.1 * 65536), 1, 2, 3, 4] })]
      fw := { State.reset.fw with running := true, ready := true } }
    (([0, 32] ++ (List.range 31).map fun i => 1 + (s.fw.lastPart + i) % 31).find? fun d =>
        (mbxOf s d).state == MbxState.pending && decide (1000000 ≤ tokensOf s d)) = some 31 ∧ reqOp s 31 = x.1 ∧ fieldOf (reqWord s 31 1) 0 16 = x.2.1 ∧
      (decide (62 < reqLen s 31) || decide (reqLen s 31 < wordsNeeded s 31)) = decide (x.2.2.1 = 0) := by decide +kernel
theorem witness_MailboxDoorbellsAndResponses_token : tokensOf { running with mbx := [(1, { tokens := 999999, since := 0 })] } 1 = 999999 ∧
    tokensOf { running with mbx := [(1, { tokens := 7999999 })], tb := { State.reset.tb with time := 1 } } 1 = 8000000 := by decide +kernel
theorem witness_MailboxDoorbellsAndResponses_finish : (mbxOf (asked 0 1 []) 0).state = .busy ∧ doorFenced (asked 0 1 []) 0 = false ∧
    doorFenced { asked 1 1 [] with part := [(1, { reset := some { trigger := 1, part := 0, door := 2 } })] } 1 = true := by decide +kernel

theorem witness_CommissionCommands : ∀ x ∈ [(1, [2, 0x03020200]), (1, [1, 0x0199]), (1, [0]), (1, [9]), (0x10, [0x1FFF0107, 0]), (0x10, [0x00080103, 0x00010009]), (0x11, [3, 0x00010009]), (0x11, [7])],
    Serves (asked 0 x.1 x.2) (.page 0) x.1 0 := all_served 0 _ id (by decide +kernel)
theorem witness_CommissionCommands_ports : (portOf (asked 0 1 []) 7).owner = none ∧ (portOf (asked 0 1 []) 3).owner = some 1 ∧ (portOf (asked 0 1 []) 3).number = 9 ∧
    domainOn (asked 0 1 []) 0 = true ∧ logFull (asked 0 1 []) = false ∧ ownerFenced (asked 0 1 []) 7 = false ∧ named (asked 0 1 []) 1 = false ∧
    fieldOf (pay (asked 0 0x10 [0x1FFF0107, 0]) 0 0) 8 5 = 1 := by decide +kernel
theorem test_commission : ((match exec (.gPortCommission (.page 0)) (asked 0 0x10 [0x00082107, 0]) with
    | .next t => (portOf t 7).owner == some 1 && (portOf t 7).xclass == 1 && (portOf t 7).txq == 8 && (portOf t 7).number == 1 && (mbxOf t 0).state == .done
    | _ => false) : Bool) = true := by decide +kernel

theorem witness_RoleImageCommands : ∀ x ∈ [(0x12, [3, 0x10000, 0, 204]), (0x12, [7, 0x10000, 0, 204]), (0x13, [0xFF03, 0]), (0x13, [3, 0x0001000A])],
    Serves (asked 1 x.1 x.2) (.page 1) x.1 1 := all_served 1 _ id (by decide +kernel)
/-- 204 bytes of zeros are no image; the first word they fail at is that of the header. -/
theorem witness_RoleImageCommands_image : imageFail (List.replicate 204 0) = some 3 ∧ imageFail (List.replicate 63 0) = some 5 ∧
    windowFail (asked 1 0x12 []) 1 0x10000 204 .read = none ∧ windowFail (asked 1 0x12 []) 1 0x1FF80 204 .read = some 3 ∧ stagingBank (asked 1 0x12 []) 3 = none ∧
    (portOf (asked 1 0x12 []) 3).owner = some 1 ∧ (inactiveBank (portOf (asked 1 0x12 []) 3)).st ≠ .verified := by decide +kernel
theorem witness_RoleImageCommands_verified : let s := asked 1 0x13 [3, 0] fun s => modPort s 3 fun q => { q with bankB := { st := .verified } }
    (inactiveBank (portOf s 3)).st = .verified ∧ (portOf s 3).swap = none := by decide +kernel

/-- A start at 2 ms with multiples at their bounds; a cut-off alone; and both ends of SYNC_CONFIG's ranges. -/
theorem witness_CrossingCommands :
    ∀ x ∈ [(0x20, [100, 0x04000001, 0x00050001, 2000000, 0, 0, 0]), (0x20, [0x000586A0, 0x00010400, 0x03E80400, 2000000, 0, 7, 0]), (0x20, [0x20000, 0, 0x01F40000, 0, 0, 0, 0]),
      (0x21, [0x04000001, 1, 200000]), (0x21, [0, 0, 0xFFFCF2C0]), (0x21, [2, 0, 5])],
    Serves (asked 0 x.1 x.2) (.page 0) x.1 0 := all_served 0 _ id (by decide +kernel)
theorem witness_CrossingCommands_fields : (asked 0 0x20 []).tb.time + 2000000 ≤ pay64 (asked 0 0x20 [100, 0x04000001, 0x00050001, 2000000, 0, 0, 0]) 0 3 ∧
    ¬ (asked 0 0x20 []).tb.time + 2000000 ≤ pay64 (asked 0 0x20 [100, 0x04000001, 0x00050001, 1999999, 0, 0, 0]) 0 3 ∧
    fieldOf (pay (asked 0 0x20 [0x000586A0, 0x00010400, 0x03E80400, 2000000, 0, 7, 0]) 0 0) 0 17 = 100000 ∧
    (pay (asked 0 0x21 [0, 0, 0xFFFCF2C0]) 0 2).toInt = -200000 ∧ (asked 0 0x20 []).tb.t0 = 1000 ∧ (asked 0 0x20 []).tb.start = none := by decide +kernel

theorem witness_ResourceCommands :
    ∀ x ∈ [(0x30, [0x600, 0x10000, 0, 0x1FFF8, 0]), (0x30, [0xF19, 0x10000, 0, 0x1FFF8, 0]), (0x32, [0x1FFF, 1, 0]), (0x32, [5, 0x40000, 0x83]), (0x33, [0x00FF0720]), (0x33, [2])],
    Serves (asked 1 x.1 x.2) (.page 1) x.1 1 := all_served 1 _ id (by decide +kernel)
theorem witness_ResourceCommands_windows :
    ∀ x ∈ [(0x31, [0x00070101, 0x20000, 0, 0x1000, 0, 0, 0]), (0x31, [0x02170201, 0x30000, 0, 0x40000, 0, 0, 0]), (0x31, [0x00070101, 0x1F000, 0, 0x2000, 0, 0, 0]), (0x31, [0x00000001, 0, 0, 0, 0, 0, 0])],
    Serves (asked 0 x.1 x.2) (.page 0) x.1 0 := all_served 0 _ id (by decide +kernel)
theorem witness_ResourceCommands_room : windowFail (asked 1 0 []) 1 0x10000 2048 .read = none ∧ windowFail (asked 1 0 []) 1 0x1FFF8 8 .write = none ∧
    windowFail (asked 1 0 []) 1 0x1FFFC 8 .write = some 3 ∧ (partOf (asked 1 0 []) 1).queues ≤ (queuesOf (asked 1 0 []) 1).length ∧
    (queuesOf (asked 1 0 [] fun s => modPart s 1 fun x => { x with queues := 3 }) 1).length < 3 ∧ (chanOf (asked 1 0 []) 2).owner = some 1 ∧
    (chanOf (asked 1 0 []) 0).owner = none ∧ (tFind (partOf (asked 1 0 []) 1).wins 0).isSome = true ∧ (tFind (partOf (asked 1 0 []) 1).wins 1).isNone = true := by decide +kernel
theorem test_queue_create : ((match exec (.gQueueCreate (.page 1)) (asked 1 0x32 [0x1FFF, 5, 0x83] fun s => modPart s 1 fun x => { x with queues := 3 }) with
    | .next t => queueOf t 0 == some { owner := 1, port := some 3, depth := 5 } && tFind (mbxOf t 1).rsp 2 == some 0
    | _ => false) : Bool) = true := by decide +kernel

theorem witness_PartitionCommands :
    ∀ x ∈ [(0x40, [0x00000701, 0x10000FFF, 0x00010258, 0x20000020, 0x10, 0]), (0x40, [0x00010002, 0, 0, 0, 0, 0]), (0x41, [1]), (0x41, [0]), (0x42, [0x00400101, 0x40000, 0]), (0x42, [0x00010002, 0, 0x0100]),
      (0xB0, [0x01000000]), (0xB0, [0x00010000]), (0xB0, [0x00170105])],
    Serves (asked 0 x.1 x.2) (.page 0) x.1 0 := all_served 0 _ id (by decide +kernel)
theorem witness_PartitionCommands_bank : (bankOf (asked 0 0 []) 0).handover = none ∧ (bankOf (asked 0 0 []) 0).kind = 0 ∧
    (bankOf { asked 0 0 [] with bank := [(5, { handover := some ⟨1, 23, false, some 0⟩ })] } 5).handover = some ⟨1, 23, false, some 0⟩ ∧
    (partOf (asked 0 0 []) 1).reset = none ∧ named (asked 0 0 []) 1 = false := by decide +kernel
/-- Bank 5 belongs to group 0, and port 3's image is being staged in it. -/
theorem witness_PartitionCommands_staging : let s : State := { asked 0 0xB0 [0x00000005] with bank := [(5, { kind := 1 })], port := [(3, { owner := some 1, loading := some 1 })] }
    stagingBank s 3 = some 5 ∧ (portOf s 3).loading ≠ none ∧ (bankOf s 5).kind = 1 ∧ (bankOf s 5).handover = none := by decide +kernel

/-- A key record in clear, of kind 3 for slot 1; and the slots of the device. -/
theorem witness_KeyCommands : ∀ x ∈ [(0x50, [0x00010504, 0x10000, 0, 64]), (0x50, [0x00020506, 0x10000, 0, 80]), (0x50, [0x00030501, 0x10000, 0, 80])],
    Serves (asked 1 x.1 x.2 fun s => modPart s 1 fun x => { x with keyslots := 0x70 }) (.page 1) x.1 1 :=
  all_served 1 _ (fun s => modPart s 1 fun x => { x with keyslots := 0x70 }) (by decide +kernel)
theorem witness_KeyCommands_bootstrap : ∀ x ∈ [(0x50, [0x00030101, 0x10000, 0, 80]), (0x50, [0x00020101, 0x10000, 0, 80]), (0x51, [0x08020504, 1, 2, 0, 0, 0, 0, 0, 0])],
    Serves (asked 0 x.1 x.2) (.page 0) x.1 0 := all_served 0 _ id (by decide +kernel)
theorem witness_KeyCommands_slots : (slotOf (asked 0 0 []) 4).kind = 7 ∧ (slotOf (asked 0 0 []) 5).kind = 3 ∧ (slotOf (asked 0 0 []) 6).kind = 0 ∧ (slotOf (asked 0 0 []) 1).kind = 0 ∧
    (asked 0 0 []).sec.kekSet = false ∧ unwrapClear (List.replicate 80 0) = none ∧ unwrap (List.replicate 32 0) (List.replicate 80 0) 2 6 = none := by decide +kernel

/-- A log with six records, the last four of them a group that waits for its signature. -/
def logging (f : Logbook → Logbook) : State := { asked 0 0x61 [] with log := f { ring := [1, 2, 3, 4, 0, 0], next := 6, h := 9 } }
theorem witness_LogbookCommands : ∀ x ∈ [(0x60, [0, 0, 1, 0x10000, 0, 32]), (0x60, [0, 0, 0x1000, 0, 0, 0]), (0x61, [])], Serves (asked 0 x.1 x.2) (.page 0) x.1 0 :=
  all_served 0 _ id (by decide +kernel)
theorem witness_LogbookCommands_due : ∀ f ∈ [fun b : Logbook => { b with due := [{ kind := 6 }] }, fun b => { b with due := [{ kind := 6 }], next := 4096 },
      fun b => { b with sinceSeal := 254 }, fun b => { b with seals := [⟨2, [0]⟩] }, fun b => b],
    let s := logging f
    isRun s = true ∧ s.fw.running = true ∧ s.log.lost = 0 ∧ s.log.due.all (fun k => k.details == 0) = true := by
  intro f h
  simp only [List.mem_cons, List.not_mem_nil, or_false] at h
  obtain rfl | rfl | rfl | rfl | rfl := h <;> decide +kernel
theorem witness_LogbookCommands_group : let s := logging fun b => { b with seals := [⟨2, [0]⟩] }
    s.log.seals = [⟨2, [0]⟩] ∧ s.log.next - s.log.ring.length ≤ 2 := by decide +kernel

theorem witness_SnapshotAndDebugCommands : ∀ x ∈ [(0x70, [1, 0x10000, 0, 64]), (0x70, [0x00020000, 0x10000, 0, 64]), (0x70, [0, 0, 0, 0])], Serves (asked 1 x.1 x.2) (.page 1) x.1 1 :=
  all_served 1 _ id (by decide +kernel)
theorem witness_SnapshotAndDebugCommands_debug : let s : State := { running with sec := { State.reset.sec with dbgReq := 1, dbgFails := 7, nonce := some (5, 0) } }
    isRun s = true ∧ s.sec.trngFail = false ∧ s.sec.dbgFails.toNat < 8 ∧ s.sec.nonce = some (5, 0) ∧ logRoom s ≥ 1 ∧ s.log.lost = 0 ∧
    ¬ ({ s with tb := { s.tb with time := 10000000001 } } : State).tb.time ≤ 0 + 10000000000 := by decide +kernel

theorem witness_EndpointCommands :
    ∀ x ∈ [(0x81, [0x00120016, 0x3FFE3F01, 0]), (0x81, [0x00110017, 3, 0x104]), (0x81, [0x00110018, 0x0000077F, 0]), (0x81, [0x14, 0, 0]), (0x80, [0xFF, 0x10000, 0, 0]), (0x80, [1, 0, 0, 0])],
    Serves (asked 0 x.1 x.2) (.page 0) x.1 0 := all_served 0 _ id (by decide +kernel)
theorem witness_EndpointCommands_place : let s := asked 0 0 [] fun s => { s with ep := { s.ep with ident := [(3, ⟨0, 1, 2, 3, 4, 0, 5⟩)] } }
    tFind s.ep.ident (16 * (3 / 12) + 3 % 12) = some ⟨0, 1, 2, 3, 4, 0, 5⟩ ∧ (portOf s 3).owner = some 1 ∧ (queueOf s 7).any (fun q => q.owner == 1) = true ∧ domainOn s 61 = true ∧
    (partOf s 1).keyslots.getLsbD 4 = true ∧ (epOf s 0x16).state = .free ∧ s.ep.selfId ≠ 63 := by decide +kernel

theorem witness_PowerCommands : ∀ x ∈ [(0x90, [1]), (0x90, [2]), (0x90, [0x00170002]), (0x90, [0x00180002]), (0x90, [0x002F0002]), (0x90, [0x00330002]), (0x90, [0x003F0003]), (0x90, [0x00340002]), (0x90, [4])],
    Serves (asked 0 x.1 x.2) (.page 0) x.1 0 := all_served 0 _ id (by decide +kernel)
/-- Port group 23, bank 0, port 95's engine quad 3 and the snapshot RAM may be switched off; port group 0, with a commissioned port, may not. -/
theorem witness_PowerCommands_conditions : noTimed (asked 0 0 []) = true ∧ (asked 0 0 []).pwr.switching = none ∧ offAllowed (asked 0 0 []) 23 = true ∧ offAllowed (asked 0 0 []) 0 = false ∧
    domainOn (asked 0 0 []) 23 = true ∧ domainOn { asked 0 0 [] with pwr := { (asked 0 0 []).pwr with domains := 0 } } 23 = false ∧
    ({ asked 0 0 [] with pwr := { (asked 0 0 []).pwr with switching := some ⟨23, true, 0⟩ } } : State).pwr.switching = some ⟨23, true, 0⟩ := by decide +kernel

/-- The device before an update command with an update of 8 KiB open, or none. -/
def updating (op : Nat) (l : List Word) (u : Option FwUpdate) : State :=
  asked 0 op l fun s => { s with fw := { s.fw with update := u }, part := [(0, { wins := [(0, ⟨true, true, true, 0, 0, 0x10000, 0x10000, 0x40000⟩)], busMaster := true })] }
theorem witness_FirmwareUpdateCommands : ∀ x ∈ [(0xA0, [0x1000, 0]), (0xA0, [0x100000, 0x7F]), (0xA0, [0xFFF, 0]), (0xA1, [0, 0x10000, 0, 0x1000]), (0xA2, [0]), (0xA2, [1]), (0xA2, [2]), (0xA2, [3])],
    Serves (asked 0 x.1 x.2) (.page 0) x.1 0 := all_served 0 _ id (by decide +kernel)
theorem witness_FirmwareUpdateCommands_chunk : let s := updating 0xA1 [0, 0x10000, 0, 0x1000] (some { length := 0x2000, svn := 3, erasing := false })
    serves s 0 0xA1 = true ∧ windowFail s 0 0x10000 0x1000 .read = none ∧ (windowAt s 0 0x10000).any (fun w => w.space == 0) = true ∧ s.fw.running = true := by decide +kernel

/-! ## Resets, power and start-up -/

/-- A reset whose root PLL has not locked, with the rails' and the slots' state given. -/
def locking (f : State → State := id) : State := f { State.reset with pwr := { State.reset.pwr with phase := .locking, porstLow := false } }
theorem witness_ResetsAndBoot : State.reset.pwr.porstLow = true ∧ (locking).pwr.phase = .locking ∧ (locking).pwr.phase ≠ .run ∧ isRun running = true ∧ running.pwr.hold = false ∧
    Rail.core ≠ .sds ∧ Rail.aon ∈ (locking fun s => { s with pwr := { s.pwr with railsLow := [.core, .aon] } }).pwr.railsLow := by decide +kernel
/-- Erased flash, and flash whose header stands in one slot only, pass no test of a slot. -/
theorem witness_ResetsAndBoot_slots : fwPasses (locking) false = false ∧ fwPasses (locking) true = false ∧
    ({ running with fw := { running.fw with watchdog := true, tried := 2 } } : State).fw.tried = 2 := by decide +kernel

/-- Partition 5 under a reset that its function-level reset began, all VFs being enabled. -/
def resetting : State := { sailing [] with part := [(1, (partOf (sailing []) 1)), (5, { reset := some { trigger := 0, part := 5, door := 2 }, busMaster := true })] }
theorem witness_FunctionAndPartitionResets : isRun resetting = true ∧ resetting.vfEnable = true ∧ (partOf resetting 1).reset = none ∧
    (partOf resetting 5).reset = some { trigger := 0, part := 5, door := 2 } ∧ (targetOf resetting 1).pba = [] ∧ (chanOf resetting 2).owner = some 1 ∧
    running.vfEnable = false := by decide +kernel

theorem witness_Supervision : isRun (sailing []) = true ∧ (sailing []).pwr.thermal = false ∧ (sailing []).pwr.thermAct = true ∧ (sailing []).pwr.quiesce = false ∧
    (sailing []).sch.voy.map Prod.fst = [5] ∧ (sailing []).mbx = [] := by decide +kernel
/-- The limits as written, in quarter degrees: 155 °C is critical, 154.75 °C is not; below the warning limit by 10 °C is cool. -/
theorem witness_Supervision_limits : (620 : BitVec 16).toInt = 4 * 155 ∧ (619 : BitVec 16).toInt < 4 * ((max 100 (min 165 State.reset.pwr.tcrit.toNat) : Nat) : Int) ∧
    ¬ (620 : BitVec 16).toInt < 4 * ((max 100 (min 165 State.reset.pwr.tcrit.toNat) : Nat) : Int) ∧
    (520 : BitVec 16).toInt ≤ 4 * ((max 85 (min 150 State.reset.pwr.twarn.toNat) : Nat) : Int) - 40 ∧
    ¬ (521 : BitVec 16).toInt ≤ 4 * ((max 85 (min 150 State.reset.pwr.twarn.toNat) : Nat) : Int) - 40 := by decide +kernel
theorem witness_Supervision_mismatch : (asked 0 1 []).fw.watchdog = false ∧ (asked 0 1 []).fw.running = true ∧ (mbxOf (asked 0 1 []) 0).state = .busy := by decide +kernel

/-- The device moored, with the filters of ports 0 to 3. -/
def moored : State :=
  { sailing [] with pwr := { running.pwr with phase := .moored }
                    port := [(0, { wake := [(0, 0x00080001)] }), (1, { wake := [(0, 0x1202), (1, 0x123), (2, 0x7FF)] }), (3, { owner := some 1, number := 0xFFFF })] }
theorem witness_MooredAndWake : let s := { sailing [] with pwr := { running.pwr with mooring := some ⟨4, true⟩ } }
    isRun s = true ∧ s.pwr.mooring = some ⟨4, true⟩ ∧ (∀ p : Fin 32, (partOf s p).reset = none) ∧ s.pwr.wakeDue = none ∧ running.pwr.mooring = none := by decide +kernel
/-- A frame at the safety port during the entry brings the cast-off after it. -/
theorem test_MooredAndWake_due : let s := { sailing [] with pwr := { running.pwr with mooring := some ⟨4, true⟩, wakeDue := some (9, 7, ⟨true, 0, true, true, none⟩) } }
    ((match execMooredEntry s with | .next t => some t.pwr.wakeSrc | _ => none) == some 9) = true := by decide +kernel
theorem witness_MooredAndWake_filters : moored.pwr.phase = .moored ∧ fieldOf (tGet (portOf moored 0).wake 0 0) 0 2 = 1 ∧ fieldOf (tGet (portOf moored 0).wake 0 0) 16 8 = 8 ∧
    fieldOf (tGet (portOf moored 1).wake 0 0) 0 2 = 2 ∧ (tGet (portOf moored 1).wake 0 0).getLsbD 4 = false ∧ fieldOf (tGet (portOf moored 1).wake 0 0) 8 4 = 2 ∧
    ((0x123 : BitVec 29) &&& 0x7FF) = (0x123 &&& 0x7FF) ∧ ((0x124 : BitVec 29) &&& 0x7FF) ≠ (0x123 &&& 0x7FF) ∧ fieldOf (tGet (portOf moored 2).wake 0 0) 0 2 = 0 := by decide +kernel

/-- A frame of the safety port with its CRC. -/
def frame (type : Byte) (w : List Word) : List Byte :=
  let b := [type, BitVec.ofNat 8 w.length] ++ w.flatMap fun x => leBytes 4 x.toNat
  b ++ leBytes 2 (crc16 b).toNat
theorem witness_SafetyPortFrames : ∀ l ∈ [frame 0x51 [1, 0x00010302], frame 0x52 [], frame 0x53 [], frame 0x5E [0xA5C30001], frame 0x5E [0xA5C30002], frame 0x51 (List.replicate 64 7)],
    leNat ((l.drop (2 + 4 * (l.getD 1 0).toNat)).take 2) = (crc16 (l.take (2 + 4 * (l.getD 1 0).toNat))).toNat ∧ l.length = 4 + 4 * (l.getD 1 0).toNat ∧
    (l.getD 0 0).toNat ∈ [0x51, 0x52, 0x53, 0x5E] := by decide +kernel
theorem witness_SafetyPortFrames_states : let s : State := { sailing [] with fw := { State.reset.fw with ready := true, bsy := false, bound := some 1 } }
    isRun s = true ∧ s.fw.bsy = false ∧ (mbxOf s 32).state = .idle ∧ doorFenced s 32 = false ∧ s.fw.bound = some 1 ∧ (partOf s 1).reset = none ∧
    fieldOf (wordAt ((frame 0x5E [0xA5C30001]).drop 2) 0) 16 16 = 0xA5C3 ∧ State.reset.fw.bsy = true := by decide +kernel

/-! ## Time and landings -/

/-- The clock runs at LSN 7, whose nominal time is 5 ms, LANDSYNC being the source with a window of 100 ns and a divider of 7. -/
def sailingAt (time : Nat) (f : Timebase → Timebase := id) : State :=
  { sailing [] with tb := f { State.reset.tb with time := time, running := true, lsn := 7, nominal := 5000000, landed := true, source := 1, div := 7, w := 10, m1 := 2 } }
/-- Edges at both ends of the window of LSN 7, just outside it, before LSN 14, and a window that has closed. -/
theorem witness_TimeAndSynchronisation : ∀ x ∈ [((5000125 : Nat), true), (5000126, false), (4999925, true), (4999924, false)],
    let s := sailingAt x.1
    isRun s = true ∧ s.tb.lsn + 1 < 2 ^ 64 ∧ s.tb.running = true ∧ s.tb.source = 1 ∧ s.tb.div ∣ s.tb.lsn ∧
      decide (-(100 : Int) ≤ ((s.tb.time : Int) - 25) - s.tb.nominal ∧ ((s.tb.time : Int) - 25) - s.tb.nominal ≤ 100) = x.2 := by decide +kernel
theorem witness_TimeAndSynchronisation_next : let s := sailingAt 6000000 fun t => { t with div := 8, p := 0 }
    nextLsn s = 8 ∧ s.tb.div ∣ nextLsn s ∧ ¬ s.tb.div ∣ s.tb.lsn ∧ nextNominal s = 6000000 := by decide +kernel
theorem witness_TimeAndSynchronisation_rate : let s := sailingAt 0 fun t => { t with rate := 200000, rateAcc := 999800000 }
    1000000000 ≤ s.tb.rateAcc + s.tb.rate.toInt ∧ (sailingAt 0 fun t => { t with rate := 0xFFFCF2C0, rateAcc := -999800000 }).tb.rate.toInt = -200000 := by decide +kernel

theorem witness_GangwayCutoffs : let s := sailingAt 5980000 fun t => { t with source := 0 }
    s.tb.landed = true ∧ s.tb.closed = none ∧ nextCutTime s = 5980000 ∧ nextLsn s = 8 ∧ nextLsn s < 2 ^ 64 ∧ s.tb.start = none ∧ nextCutTime s ≤ s.tb.time := by decide +kernel
theorem witness_GangwayCutoffs_start : let y : Start := ⟨6000000, none, false, 1000, 1, 1, 1, 30, false⟩
    let s := sailingAt 5970000 fun t => { t with source := 0, start := some y }
    s.tb.start = some y ∧ y.s - 1000 * y.c ≤ s.tb.time ∧ y.s - 1000 * y.c < nextCutTime s := by decide +kernel
/-- A candidate of class 1 whose crossing begins at LSN 8, within every cap, and one that asks for too many cycles. -/
theorem witness_GangwayCutoffs_candidate : ∀ b ∈ [(100, none), (0xFFFFFF, some 1)],
    let x : Voyage := { part := 1, header := 0x10000, ring := 0, cring := some 0, hdr := [0, 3, BitVec.ofNat 32 b.1, 0, 0, 0x00010001, 2], state := .candidate, timed := true, xclass := 1, startLsn := 8 }
    let s : State := { sailingAt 5980000 fun t => { t with source := 0 } with sch := { State.reset.sch with voy := [(5, x)] } }
    voyOf s 5 = some x ∧ dueOf s x ≤ nextLsn s ∧ s.sch.notAdmitted = [] ∧ s.sch.starting = [] ∧
      admitFail (capsOf s.tb.t0 (cutFor s 8) (slotList s).length (min 262144 s.sch.admCells.toNat) (min 12800 s.sch.admBrate.toNat)) (admittedSums s) x = b.2 := by decide +kernel

theorem witness_Landings : let s := sailingAt 6000000 fun t => { t with source := 0, closed := some 8, step := some 0 }
    isRun s = true ∧ s.tb.running = true ∧ nextNominal s = 6000000 ∧ nextNominal s ≤ s.tb.time ∧ s.tb.closed = some (nextLsn s) ∧ s.tb.step = some 0 ∧ s.tb.start = none ∧
    ¬ (s.pwr.hold = true ∧ s.pwr.holdCtr = 0) ∧ (portOf s 3).owner = some 1 ∧ (portOf s 3).eng.state = .running ∧ (portOf s 3).swap = none ∧ (portOf s 3).safeDue = [] := by decide +kernel
theorem witness_Landings_first : let s := sailingAt 5000000 fun t => { t with landed := false, lsn := 0 }
    nextLsn s = 0 ∧ nextNominal s ≤ s.tb.time ∧ s.tb.landed = false := by decide +kernel
theorem witness_Landings_voyages : let x : Voyage := { aboard with state := .admitted, timed := true, xclass := 1, slot := none, heldRecs := [] }
    let s : State := { sailingAt 6000000 fun t => { t with source := 0, closed := some 8, step := some 0 } with sch := { State.reset.sch with voy := [(5, x), (6, { x with heldRecs := [3] })] } }
    voyOf s 5 = some x ∧ pagesIn s { x with hdr := [] } = true ∧ s.sch.refitDue = false ∧ cutFor s 8 ≤ s.tb.c ∧ (2 : Nat) ∣ 8 ∧ s.sch.notAdmitted = [] ∧
      (cqOf s 1 0).any (fun c => !c.fault) = true := by decide +kernel
theorem witness_Landings_start : let y : Start := ⟨6000000, some 0, false, 1000, 1, 1, 1, 30, true⟩
    let s := sailingAt 6000000 fun t => { t with start := some y }
    s.tb.start = some y ∧ y.cut = true ∧ y.s ≤ s.tb.time := by decide +kernel

/-! ## Deck memory, barge, berths, interrupts and registers -/

/-- The scrubber stands at cell 0, which queue 7's packet holds, or at cell 100, or at the last cell. -/
def scrubbing (at_ : Nat) (bad soft : List Nat) : State := { sailing [] with deck := { (sailing []).deck with scrubAt := at_, bad := bad, soft := soft } }
theorem witness_DeckEventsAndSnapshots : ∀ s ∈ [scrubbing 262143 [] [2097144, 2097151], scrubbing 100 [100] [], scrubbing 0 [0] [], scrubbing 100 [] []],
    isRun s = true ∧ bankOn s (s.deck.scrubAt % 32) = true ∧ s.deck.quar = [] ∧ (s.deck.scrubAt + 1) % 262144 ≤ 262143 := by decide +kernel
/-- A producer, voyage 5, stalled for a cell of queue 8. -/
def stalled : State :=
  { sailing [] fun x => { x with state := .parked, park := .quota 8, stage := .waiting, slot := none } with
    deck := { (sailing []).deck with stalls := [⟨.voyage 5, 8, 2, false⟩], queues := [(8, { owner := 1, depth := 4, building := [{ agent := .voyage 5 }], waiting := [] })] } }
theorem witness_DeckEventsAndSnapshots_stall : quotaFail stalled (.voyage 5) { owner := 1, depth := 4, building := [{ agent := .voyage 5 }] } = none ∧
    (voyOf stalled 5).isSome = true ∧ nextCell stalled (.voyage 5) = some 0 ∧ (portOf stalled 3).eng.scrub = false ∧
    (portOf (modPort stalled 3 fun q => { q with eng := { q.eng with scrub := true } }) 3).eng.scrub = true := by decide +kernel
/-- An export of partition 1 to a buffer whose length has room for one record of its two. -/
def exporting (buffer : Nat) : State :=
  { sailing [] with tb := { State.reset.tb with snapRam := some (3, 30000, [(1, 0xA), (2, 0xB), (33, 0xC)]) }
                    part := [(1, { (partOf (sailing []) 1) with snap := { buffer := buffer, length := 72, exporting := some (3, 30000) } })] }
theorem witness_DeckEventsAndSnapshots_export : (exporting 0x10000).pwr.quiesce = false ∧ (partOf (exporting 0x10000) 1).snap.exporting = some (3, 30000) ∧
    (exporting 0x10000).tb.snapRam.map (·.2.2) = some [(1, 0xA), (2, 0xB), (33, 0xC)] ∧ 64 ≤ (partOf (exporting 0x10000) 1).snap.length ∧
    ((List.range 72).all fun i => (windowFail (exporting 0x10000) 1 (0x10000 + i) 1 .write).isNone) = true ∧ windowFail (exporting 0x20000) 1 0x20000 1 .write = some 1 := by decide +kernel

/-- A descriptor from 0x10000 to 0x18000, or from the list at 0x10400 or to it. -/
def descOf (mode : BitVec 2) (slist dlist : Bool := false) (length : Nat := 1000) : Descriptor :=
  ⟨mode, slist, dlist, false, if slist then 2 else 0, if dlist then 2 else 0, length, if slist then 0x10400 else 0x10000, if dlist then 0x10400 else 0x18000, false⟩
/-- Channel 2 of partition 1 at byte 512 of a transfer; host memory holds the source, and at 0x10400 a list of a good entry and one of length 0. -/
def transferring (d : Descriptor) (f : Channel → Channel := id) (g : Transfer → Transfer := id) : State :=
  { sailing [] with
    brg := [(2, f { owner := some 1, active := some (g { desc := d, src := { pos := 512, used := if d.slist then [⟨0, 0x10000, 512⟩] else [⟨0, d.src, d.length⟩] }
                                                         dst := { pos := 512, used := if d.dlist then [⟨0, 0x18000, 512⟩] else [⟨0, d.dst, d.length⟩] } }) })]
    hostMem := memPut [⟨0x40200, 7⟩] 0x40400 (([0x18200, 0, 488, 0, 0x18200, 0, 0, 0] : List Word).flatMap fun x => leBytes 4 x.toNat) }
/-- What a transfer's burst meets: its piece, the place in it, and whether the checks let it go, or with which error they stop it. -/
def meetsAt (s : State) (x : Found) (perm : Perm) : Option (Piece × Nat × Option (BitVec 4)) :=
  match x with
  | .stop _ _ => none
  | .piece _ c y =>
    match checkBurst s 1 y c.pos perm with
    | .ok _ => some (y, c.pos, none)
    | .stop _ (.error e) => some (y, c.pos, some e)
    | .stop _ _ => none
theorem witness_BargeTransfers : ∀ m ∈ [(0 : BitVec 2), 1, 2],
    let s := transferring (descOf m)
    (isRun s && (chanOf s 2).ended.isNone && decide ((chanOf s 2).count < 256 * 64) &&
      (chanOf s 2).active.any (fun t => meetsAt s (destAt s 1 t.desc t.dst) (if m = 2 then .read else .write) == some (⟨0, 0x18000, 1000⟩, 512, none)) &&
      (chanOf s 2).active.any (fun t => meetsAt s (sourceAt s 1 t.desc t.src) .read == some (⟨0, 0x10000, 1000⟩, 512, none))) = true := by decide +kernel
/-- A transfer's first burst, and one whose operand leaves its window. -/
theorem witness_BargeTransfers_first : destAt (transferring (descOf 0)) 1 (descOf 0) {} = .piece (transferring (descOf 0)) { used := [⟨0, 0x18000, 1000⟩] } ⟨0, 0x18000, 1000⟩ := rfl
theorem witness_BargeTransfers_outside : let d := descOf 0 (length := 0x10000)
    let s := transferring d
    ((chanOf s 2).active.map fun t => meetsAt s (destAt s 1 t.desc t.dst) .write) = some (some (⟨0, 0x18000, 0x10000⟩, 512, some 3)) := by decide +kernel
/-- List entries: a good one, one of length 0, one past the length, and none left; and the list of a list out of line. -/
theorem witness_BargeTransfers_list : ([((0 : Nat), 1000), (1, 1000), (0, 999), (2, 1000)].map fun x =>
    let s := transferring (descOf 0 false true x.2)
    match destAt s 1 (descOf 0 false true x.2) { pos := 512, entry := x.1, used := [⟨0, 0x18000, 512⟩] } with
    | .piece _ c y => (c.entry, y.start, y.addr, y.len, 0)
    | .stop _ (.error e) => (0, 0, 0, 0, e.toNat)
    | .stop _ _ => (0, 0, 0, 0, 99)) = [(1, 512, 0x18200, 488, 0), (0, 0, 0, 0, 4), (0, 0, 0, 0, 5), (0, 0, 0, 0, 5)] ∧
    windowFail (transferring (descOf 0 false true)) 1 0x10400 16 .read = none ∧ ({ descOf 0 false true with dst := 0x10404 } : Descriptor).dst % 16 ≠ 0 := by decide +kernel
/-- Source bytes read ahead: as many as the burst needs, fewer with a failure, and different from the second operand. -/
theorem witness_BargeTransfers_ahead : let s := transferring (descOf 2) id fun t => { t with ahead := [1, 2, 3], failed := some 7 }
    (chanOf s 2).active.any (fun t => t.ahead == [1, 2, 3] && t.failed == some 7 && t.kept.isEmpty) = true ∧
    byteAt s ⟨true, true, true, 0, 0, 0x10000, 0x10000, 0x40000⟩ 0x18200 = 0 ∧ blockOf ⟨true, true, true, 0, 0, 0x10000, 0x10000, 0x40000⟩ = 512 ∧
    clashes [⟨0, 0x10000, 1000⟩] [⟨0, 0x18000, 1000⟩] = false ∧ inPieces [⟨0, 0x10000, 1000⟩] 0x18200 = false := by decide +kernel
/-- The ends of a transfer, a spent allowance, and the steward's load. -/
theorem witness_BargeTransfers_ends : ∀ e ∈ ([.clean, .mismatch 5, .error 3] : List BargeEnd),
    let s := transferring (descOf 0) fun c => { c with ended := some e }
    (tFind s.brg 2).any (fun c => c.ended == some e && c.waiting.isEmpty && c.shadow.isNone) = true ∧
      (256 * 64 ≤ (chanOf (transferring (descOf 0) fun c => { c with count := 16384 }) 2).count) := by decide +kernel
theorem witness_BargeTransfers_load : let s : State := { sailing [] with
      brg := [(2, { owner := some 0, addrLo := 0x10080 })], hostMem := memPut [] 0x40080 (([0, 0, 64, 0, 0x10000, 0, 0x10100, 0] : List Word).flatMap fun x => leBytes 4 x.toNat)
      part := [(0, partOf (sailing []) 1)] }
    windowFail s 0 0x10080 32 .read = none ∧ (windowAt s 0 0x10080).any (fun w => (parseDesc ((List.range 32).map fun i => byteAt s w (0x10080 + i)) false).isSome) = true := by decide +kernel

/-- Requests at arbiter 0: those of a voyage in slot 1, of the ring unit in slot 17, of a port engine in slot 24; slot 17 has the most losses. -/
def berths (x : Arbiter := {}) : State := { sailing [] with brt := [(0, { x with slots := [(17, { base := 8, losses := 100 }), (21, { cutoff := true })] })] }
def asks : List BerthRequest := [⟨1, .voyage 5, 64, 0⟩, ⟨17, .ringOther 1 0, 64, 0⟩, ⟨24, .port 3, 64, 0⟩, ⟨21, .frame 0, 64, 0⟩, ⟨2, .voyage 5, 64, 0⟩]
theorem witness_Berths : isRun (berths) = true ∧ (presentRequests (berths) 0 asks).map (·.slot) = [1, 17, 24, 21] ∧ (requesterOf (berths) 0 21).cutoff = true ∧
    (asks.take 4).map (fun r => classFor (berths) r.work) = [.bulk, .timed, .timed, .bulk] ∧ (asks.take 3).map (fun r => withheld (berths) 0 asks r) = [false, false, false] ∧
    [min 15 (baseOf (berths) 0 17 + 100), baseOf (berths) 0 24, baseOf (berths) 0 1] = [15, 10, 6] ∧ (arbOf (berths) 0).busy = false := by decide +kernel
theorem test_berth_timed : ((match exec (.berthDecision 0 ⟨0, asks⟩) (berths) with
    | .next t => (arbOf t 0).owner == 17 && (requesterOf t 0 24).losses == 1 && (requesterOf t 0 1).losses == 1 && (requesterOf t 0 21).losses == 0 && (arbOf t 0).left == 4
    | _ => false) : Bool) = true := by decide +kernel
/-- The owner of slot 1 whose burst ends below its limit and who has another one; whose burst ends at its limit; whose burst goes on. -/
theorem witness_Berths_goesOn : ([(2, 1, 2), (2, 2, 2), (3, 0, 2)].map fun x =>
    let y := arbOf (berths { busy := true, owner := 1, left := x.1, beats := x.2.1 }) 0
    (y.busy, decide (y.left ≤ x.2.2), decide (max (requesterOf (berths) 0 1).limit.toNat 4 ≤ y.beats + y.left), y.next)) =
      [(true, true, false, none), (true, true, true, none), (true, false, false, none)] ∧ (presentRequests (berths) 0 (asks.take 1)).map (·.slot.val) = [1] := by decide +kernel
/-- A burst from barge target port 36 that waits at arbiter 33, where it has slot 18. -/
theorem witness_Berths_waits : let s : State := { berths with brt := [(33, { carried := [(18, { request := ⟨18, .channel 2, 64, 33⟩, cls := .bulk })] }), (36, { busy := true, owner := 3, left := 4, next := some 33 })] }
    (arbOf s 36).next = some 33 ∧ (tFind (arbOf s 33).carried 18).map (·.cls) = some .bulk ∧ (presentRequests s 33 []).map (·.slot) = [18] := by decide +kernel
/-- Bursts that run past the limit: of an engine's slot, of a port group's, of a channel's, of a voyage's record, of others. -/
theorem witness_Berths_cutoff : ∀ x ∈ ([(0, 1, 20, .voyage 5), (0, 16, 20, .voyage 5), (0, 24, 20, .port 3), (36, 3, 48, .channel 2), (0, 20, 20, .voyage 5), (0, 21, 20, .frame 0), (0, 48, 20, .scrub), (38, 33, 20, .view 1)] :
      List (Nat × Nat × Nat × Served)),
    let s : State := { transferring (descOf 0) with brt := [(x.1, { owner := BitVec.ofNat 6 x.2.1, busy := true, work := x.2.2.2, left := 1, beats := x.2.2.1 })] }
    let burst := if x.1 = 32 ∨ x.1 = 33 ∨ x.1 = 36 then 32 else 4
    let lim := if 36 ≤ x.1 then burst else max (requesterOf s x.1 x.2.1).limit.toNat burst
    (arbOf s x.1).busy = true ∧ 0 < (arbOf s x.1).left ∧ lim + 16 ≤ (arbOf s x.1).beats ∧ (arbOf s x.1).owner.toNat = x.2.1 ∧ (arbOf s x.1).work = x.2.2.2 ∧
      s.sch.inService.getLsbD (x.2.1 - 1) = decide (x.2.1 ≤ 16) ∧ (chanOf s 2).active.isSome = true ∧ (chanOf s 2).ended.isNone = true := by decide +kernel
theorem witness_Berths_cutoff_voyage : RingHasRoom (berths) 5 aboard 0 ∧ voyOf (berths) 5 = some aboard :=
  ⟨room_of _ _ _ _ { size := 4, base := 0, shadow := 0, irqEn := false } (by decide +kernel), rfl⟩

/-- Sources 600 and 602 pend at T1; with priorities 8 and 9 the claim takes 602, in fallback mode 600. -/
def interrupting (priority : Bool) (serv : List Nat := []) : State :=
  { running with icu := { State.reset.icu with attr := [(600, { prio := 8, tgt := 1, group := 3 }), (602, { prio := 9, tgt := 1 })], pend := [600, 602], serv := serv
                                               target := [(0, { priority := priority, pba := [0], msix := [(0, {})] })]
                                               group := [(3, { holdoff := 5 }), (4, { running := true })] } }
theorem witness_Interrupts : (pendCandidates (interrupting true)).filter (eligible (interrupting true) · 0) = [600, 602] ∧
    (interrupting true).icu.group.length = 2 ∧ ownTarget (interrupting true [605]) 605 = some 0 ∧ 605 ∈ (interrupting true [605]).icu.serv ∧ (targetOf (interrupting true) 0).functionMask = false ∧
    0 ∈ (targetOf (interrupting true) 0).pba := by decide +kernel
theorem test_claim : ([true, false].map fun b => match exec (.icuClaim 0) (interrupting b) with
    | .next t => t.out.readData
    | _ => []) = [[0x8009025A], [0x80080258]] := by decide +kernel
theorem witness_Interrupts_expiry : (tGet (interrupting true).icu.group 4 {}).running = true ∧ (tGet (interrupting true).icu.group 4 {}).left = 0 ∧
    (tGet (interrupting true).icu.group 3 {}).running = false := by decide +kernel

/-- The lock open, a log with room, bank 3 an operand bank in state 1. -/
theorem witness_Registers : ∀ w ∈ [(0x00000001 : Word), 0x00010000, 0x00010101, 0x00000302].toArray.toList,
    let s : State := { sailing [] with bank := [(3, { kind := 1, leaving := w.getLsbD 0 })] }
    isRun s = true ∧ s.glb.lock = false ∧ s.pwr.hold = false ∧ s.log.next < s.log.mark + 3840 ∧ (bankOf s 3).handover = none ∧ s.pwr.domains.getLsbD 27 = true := by
  intro w h
  have : [(0x00000001 : Word), 0x00010000, 0x00010101, 0x00000302].all (fun w =>
    let s : State := { sailing [] with bank := [(3, { kind := 1, leaving := w.getLsbD 0 })] }
    isRun s && !s.glb.lock && !s.pwr.hold && decide (s.log.next < s.log.mark + 3840) && (bankOf s 3).handover.isNone && s.pwr.domains.getLsbD 27) = true := by decide +kernel
  simpa [and_assoc] using List.all_eq_true.mp this w (by simpa using h)
theorem witness_Registers_flat : min 4096 (fieldOf (0x1FFF : Word) 0 13) = 4096 ∧ min 4096 (fieldOf (0 : Word) 0 13) = 0 ∧ (sailing []).deck.flatPages = 0 ∧
    ((sailing []).part.all fun x => x.2.wins.all fun y => y.2.space != 2) = true ∧ gregAt 0x10 = none ∧
    ({ sailing [] with deck := { (sailing []).deck with queues := [] } } : State).deck.queues = [] := by decide +kernel

/-! ## Backbone, crossing protocol and port hardware -/

/-- Backbone port 1 up, the gPTP slave; a peer of version 2.0 and a silent one. -/
def backbone (f : State → State := id) : State :=
  f { authAt [] with bb := [(1, { en := true, link := true })], fw := { State.reset.fw with running := true }
                     tb := { State.reset.tb with source := 2, gptpPort := true, time := 400000010 }
                     ep := { (authAt []).ep with links := [(1, { peers := [(7, ⟨0x0200, 400000000⟩), (9, ⟨0, 50000010⟩)] })], announce := true, selfId := 4 } }
theorem witness_BackbonePorts : isRun (backbone) = true ∧ domainOn (backbone) 58 = true ∧ (bbOf (backbone) 1).en = true ∧ (bbOf (backbone) 1).link = true ∧ (bbOf (backbone) 1).macsec = false ∧
    ((backbone).tb.gptpPort = ((1 : Nat) == 1)) ∧ tFind (linkOf (backbone) 1).peers 9 = some ⟨0, 50000010⟩ ∧ 50000010 + 350000000 ≤ (backbone).tb.time ∧
    ¬ 400000000 + 350000000 ≤ (backbone).tb.time ∧ (backbone).tb.time % 100000000 < 20 ∧ (linkOf (backbone) 1).announced = none := by decide +kernel
/-- Protected frames: one whose association has a key, and one whose channel is not known. -/
theorem witness_BackbonePorts_macsec : let s := backbone fun s => { s with
      part := [(0, { keyslots := 0x10 })], bb := [(1, { en := true, link := true, macsec := true })]
      sec := { s.sec with keys := [(4, { kind := 4, material := List.replicate 16 0 })], mac := [(1, { rxSciLo := [(0, 5)], rxSciHi := [(0, 0)], rx := [(0, { slot := 4, en := true, pn := 3 })] })] } }
    (bbOf s 1).macsec = true ∧ (macOfPort s 1).rx.length = 1 ∧ (saKey s { slot := 4, en := true, pn := 3 }).isSome = true := by decide +kernel

/-- A fragment of a message of two bytes from part 7 to endpoint 23, at the agreed version, for part 4. -/
def fragment : CrossingHeader :=
  { version := 0x0200, first := true, last := true, reserved := false, srcPart := 7, dstPart := 4, seq := 0, dstEid := 23, msgLen := 2, fragOff := 0, ident := 5 }
def receiving (f : State → State := id) : State :=
  f (backbone fun s => { s with ep := { s.ep with dir := [(22, { state := .ready, kind := 2, owner := 1, link := true, part := 7, remote := 40 }),
                                                          (23, { state := .ready, kind := 1, owner := 1, port := 127, busAddr := 8 })] }
                                deck := { queues := [(8, { owner := 1, depth := 4 })] } })
theorem witness_CrossingMessages : (tFind (linkOf (receiving) 1).peers fragment.srcPart).any (fun x => x.version == fragment.version) = true ∧ fragment.dstPart.val = (receiving).ep.selfId.toNat ∧
    (epOf (receiving) 23).state = .ready ∧ (epOf (receiving) 23).kind = 1 ∧ fieldOf ((epOf (receiving) 23).busAddr.setWidth 32) 0 13 = 8 ∧ tFind (linkOf (receiving) 1).rx 7 = none ∧
    quotaFail (receiving) (.rx 1 7) { owner := 1, depth := 4 } = none ∧ Machine.memWf (receiving).deck.mem = true ∧ (receiving).deck.stalls = [] := by decide +kernel
theorem witness_CrossingMessages_bounds : quotaFail (receiving) (.rx 1 7) { owner := 1, depth := 0 } = some 1 ∧ (10000000 : Nat) + 10000000 < 20000001 := by decide +kernel
/-- A message of 1,477 bytes in the transmit path: two fragments, the second of one byte. -/
theorem witness_CrossingMessages_path : let m : Message := { eid := 22, stamp := 0, sender := 1, bytes := List.replicate 1477 0 }
    let s := receiving fun s => { s with
      ep := { s.ep with links := [(1, { peers := [(7, ⟨0x0200, 400000000⟩)], path := [m] })] }, deck := { s.deck with queues := [(8193, { emptyPath with packets := [⟨List.range 24, 1477⟩] })] } }
    (linkOf s 1).path = [m] ∧ (queueOf s 8193).isSome = true ∧ (epOf s 22).number = m.stamp ∧ ((m.bytes.drop 0).take 1476).length < m.bytes.length ∧ (epOf s 22).part = 7 := by decide +kernel
theorem witness_CrossingMessages_sink : let m : Message := { eid := 0x3FFF, stamp := 0, sender := 1, bytes := List.replicate 64 0 }
    let s := receiving fun s => { s with ep := { s.ep with sink := [m, { m with eid := 22, stamp := 1 }] } }
    s.ep.sink.head?.any (fun m => m.eid == 0x3FFF) = true ∧ (epOf s 22).number ≠ 1 ∧ s.log.next < s.log.mark + 3840 := by decide +kernel

/-- Port 3 with a timer that has matched and wrapped, a shift unit under way and a bus controller that sends. -/
def working : State :=
  { sailing [] with port := [(3, { timers := [(0, { ctl := 0x61, hits := 1, wraps := 1 }), (1, { ctl := 0x00000904, aux := 5 })]
                                   edgeCfg := 0x00000101, edges := [(0, { full := true })]
                                   shifts := [(0, { cfg := 0x000000E1, sr := some (5, true) }), (1, { cfg := 0x000010E2, rx := List.replicate 7 0 })]
                                   bc := { cfg := 0x09, errState := 0, tx := [{ bytes := [1, 2, 3, 4], onWire := true }] } })] }
theorem witness_PortHardware : isRun working = true ∧ domainOn working 0 = true ∧ 0 < (timerOf (portOf working 3) 0).hits ∧ 0 < (timerOf (portOf working 3) 0).wraps ∧
    (edgeOf (portOf working 3) 0).full = true ∧ (edgeOf (portOf working 3) 1).full = false ∧ (portOf working 3).edgeCfg.getLsbD 0 = true ∧ (portOf working 3).edgeCfg.getLsbD 8 = true ∧
    (portOf working 3).bc.errState.toNat < 2 ∧ rxBytes (portOf working 3).bc + 4096 ≤ 4096 ∧ ¬ rxBytes (portOf working 3).bc + 4097 ≤ 4096 := by decide +kernel
theorem witness_PortHardware_units : (shiftOf (portOf working 3) 0).sr = some (5, true) ∧ (shiftOf (portOf working 3) 1).rx.length < 8 ∧ [shiftDir (shiftOf (portOf working 3) 0), shiftDir (shiftOf (portOf working 3) 1)] = [1, 2] ∧
    busOn (portOf working 3) = true ∧ ((portOf working 3).bc.tx.any (·.onWire)) = true := by decide +kernel

/-! ## Further clauses of the statements -/

/-- Compares and carries that name P0, before an engine whose guard is true, and under one that is false. -/
theorem witness_RoridComparesAndCarries_p0 :
    [(always, encC always 0 0 1 2 3), (always, encCI always 0 0 1 2 0), (always, encX always 0 1 2 3 0 0), (always, encX always 1 1 2 3 0 0), (⟨1, false⟩, encC ⟨1, false⟩ 0 0 1 2 3)].map (fun x =>
      let q := portOf (engine x.2) 0
      (engineAt (engine x.2) 0 x.2, roridLegal (imageModeC q) x.2, namesP0 x.2, guardTrue q.eng x.1)) =
    [(true, true, true, true), (true, true, true, true), (true, true, true, true), (true, true, true, true), (true, true, true, false)] := by decide +kernel
/-- A word fetched with a correctable error, and one with an uncorrectable one. -/
theorem witness_RoridMarks : [FetchMark.soft, .bad].map (fun m => (portOf (engine 0 fun q => { q with eng := { q.eng with mark := m } }) 0).eng.mark) = [.soft, .bad] := by decide +kernel
/-- A QPUT that has its cell, one that has not, and one whose packet was rewound. -/
theorem witness_RoridQueueWaits_stalled : [(1, false), (0, false), (1, true)].map (fun x =>
      let s : State := { queued 0 { owner := 1, depth := 4, building := [{ agent := .port 0, rewound := x.2 }] } (fun y => { y with eng := { y.eng with wait := .put 7 1 [1, 2] } }) with
        part := [(1, { cells := x.1 })] }
      let s : State := { s with deck := { s.deck with stalls := [⟨.port 0, 7, 2, false⟩] } }
      (((serveStalls s).deck.stalls.any fun y => y.agent == .port 0 && y.granted), (queueOf s 7).any fun q => q.building.any (·.rewound))) =
    [(true, false), (false, false), (true, true)] := by decide +kernel
/-- A record behind one that is held for a landing. -/
theorem witness_ManifestRecordsAndEvents_held : let x : Voyage := { aboard with heldRecs := [7] }
    runsIn (sailing (entryOf 0x00 0xF4 0 (flags := 0x11)) fun _ => x) (entryOf 0x00 0xF4 0 (flags := 0x11)) x = true ∧ x.heldRecs ≠ [] ∧ x.cring = some 0 ∧
    (cqOf (sailing []) 1 0).any (fun c => !c.fault && decide (occupancy c < c.size)) = true := by decide +kernel
/-- Bursts of a transfer of 256 bytes to and from a port, and of 100 bytes of a queue's packet: the first, and the one at a break point. -/
theorem witness_MovesFrom : ∀ w ∈ [entryOf 0x02 3 0x100 0x10000 0 0x200, entryOf 0x01 3 0x100 0x1FF00 0 0x200, entryOf 0x02 0xF0 100 0x10000 0 8, entryOf 0x01 0xF0 65 0x10000 0 7],
    let x : Voyage := { aboard with stage := .woken, cur := w, first := w, burst := 64 }
    (quietRuns sailing w && (isRun (sailing w fun _ => x) && voyOf (sailing w fun _ => x) 5 == some x && decide (x.burst < countOf w) &&
      decide (burstLen (sailing w) aboard w (countOf w) 0 = 64) && !fSpan w && x.answer.isNone && x.chainK == 0)) = true := by decide +kernel
theorem witness_MovesFrom_break : let w := entryOf 0x02 3 0x100 0x10000 0 0x200
    let x : Voyage := { aboard with stage := .woken, cur := w, first := w, burst := 64 }
    MovesFrom (sailing w fun _ => x) 5 x w 64 ∧ MemoryReads (sailing w fun _ => x) x 0x10040 1 64 ⟨true, true, true, 0, 0, 0x10000, 0x10000, 0x40000⟩ ∧
    MemoryWrites (sailing w fun _ => x) x 0x10040 1 ⟨true, true, true, 0, 0, 0x10000, 0x10000, 0x40000⟩ :=
  ⟨⟨⟨by decide +kernel, by decide +kernel, by decide +kernel⟩, .inr ⟨⟨by decide +kernel, by unfold keysRise; decide +kernel, by decide +kernel, rfl, rfl, rfl, rfl, rfl, rfl, rfl, rfl, rfl, by decide +kernel⟩, rfl, by decide⟩⟩,
    ⟨by decide +kernel, by decide +kernel, by decide +kernel, by decide +kernel⟩, ⟨by decide +kernel, by decide +kernel, by decide +kernel⟩⟩
/-- START with four registers of its own, and one whose PARAM is still to come. -/
theorem witness_SubmissionEntries_param : wantsParam [0x00050101, 0x1F, 0x10000, 0, 1, 2, 3, 4] = true ∧ wantsParam [0x00050301, 0xF, 0x10000, 0, 1, 2, 3, 4] = false := by decide +kernel
/-- An entry changed between doorbell and fetch: each word is the old or the new one. -/
theorem witness_SubmissionEntries_old : (takenWords State.reset [1, 2] [1, 2]).2 = [1, 2] := by decide +kernel
/-- The clock a tick before a second of device time, gPTP being the source, and just past a landing. -/
theorem witness_TimeAndSynchronisation_second : let s := sailingAt 999999990 fun t => { t with source := 2, atLanding := true }
    s.tb.time / 1000000000 ≠ (s.tb.time + 10) / 1000000000 ∧ s.tb.source = 2 ∧ domainOn s 57 = true ∧ s.tb.atLanding = true ∧ s.tb.rateAcc + s.tb.rate.toInt < 1000000000 ∧
    (2 ^ 64 - 10 + 20) % 2 ^ 64 = 10 := by decide +kernel
/-- Ports due their safe state at the next landing of class 3, and at the next landing of all; a voyage due a RESUME. -/
theorem witness_Landings_due : ∀ d ∈ [SafeDue.classLanding 1, .baseLanding],
    let s := modPort (sailingAt 6000000 fun t => { t with source := 0, closed := some 8, step := some 0 }) 3 fun q => { q with safeDue := [d] }
    isRun s = true ∧ (portOf s 3).safeDue = [d] ∧ (portOf s 3).swap.isNone = true ∧ nextLsn s = 8 ∧ s.tb.m1 ∣ 8 := by decide +kernel
/-- A frame at the safety port that began while SSP_BSY was high. -/
theorem witness_SafetyPortFrames_early : let s : State := { sailing [] with fw := { State.reset.fw with ready := true, bsy := false, bsySince := some 0 } }
    s.fw.bsySince = some 0 ∧ s.tb.time < 0 + 2000 ∧ ¬ ({ s with tb := { s.tb with time := 2000 } } : State).tb.time < 0 + 2000 := by decide +kernel

/-- Frames at a backbone port: of gPTP, of the crossing protocol, tagged with a VLAN, at the length limit and past it. -/
def wireFrame (etype : BitVec 16) (n : Nat) (vlan : Option (BitVec 16) := none) : EthFrame :=
  { dst := BitVec.allOnes 48, src := 1, vlan := vlan, tag := none, etype := etype, payload := List.replicate n 0, icv := [], good := true }
theorem witness_BackbonePorts_frames : ((wireFrame 0x88F7 44).payload.length + 18 ≤ 1522 ∧ 18 + 1504 ≤ 1522 ∧ 1522 < 18 + 4 + 1501) ∧
    (crossingOf (List.replicate 20 0)).isNone = true ∧ (wireFrame 0x88B5 60 (some 5)).vlan.isSome = true := by decide +kernel
/-- The frames that wait for the gPTP function, in the slave's role and outside it. -/
theorem witness_BackbonePorts_gptp : ∀ k ∈ [GptpKind.sync true 125000000, .sync false 125000000, .followUp, .pdelayReq, .pdelayResp, .other],
    let g : GptpFrame := { domain := 0, kind := k, seq := 7, sender := 5, stamp := 400000000 }
    let s := backbone fun s => { s with bb := [(1, { en := true, link := true, gptp := [g] })], tb := { s.tb with gptpSync := true, syncIv := 125000000 } }
    (bbOf s 1).gptp = [g] ∧ s.tb.source = 2 ∧ s.tb.gptpPort = true ∧ s.fw.running = true ∧ s.tb.gptpSync = true ∧ s.tb.holdover = false ∧ s.tb.syncAt + 3 * s.tb.syncIv ≤ s.tb.time := by decide +kernel
theorem witness_BackbonePorts_announce : let s := backbone fun s => modLink s 1 fun l => { l with inbox := [.announce 9 [0x0100, 0x0200]] }
    (linkOf s 1).inbox = [.announce 9 [0x0100, 0x0200]] ∧ (9 : Nat) ≠ s.ep.selfId.toNat ∧ s.ep.selfId = 4 := by decide +kernel
/-- The receive buffer holds the fragment of `fragment`, and MACsec has no packet number left. -/
theorem witness_CrossingMessages_inbox : let s := receiving fun s => modLink s 1 fun l => { l with inbox := [.data fragment [1, 2]] }
    (linkOf s 1).inbox = [.data fragment [1, 2]] ∧ (linkOf s 1).frames = [] ∧ domainOn s 58 = true ∧ fragment.reserved = false := by decide +kernel
theorem witness_CrossingMessages_spent : let s := receiving fun s => { s with
      part := [(0, { keyslots := 0x10 })], bb := [(1, { en := true, link := true, macsec := true })]
      sec := { s.sec with keys := [(4, { kind := 4, material := List.replicate 16 0 })], mac := [(1, { tx := [(0, { slot := 4, en := true, pn := 0xFFFFFFFF })] })] } }
    (bbOf s 1).macsec = true ∧ (saKey s (txSa (macOfPort s 1))).isSome = true ∧ (txSa (macOfPort s 1)).pn = BitVec.allOnes 32 := by decide +kernel

/-- Port 3 with a channel in CAPTURE on pin 0 and one that has caught; pin 0 captures rising edges; pin 1 in the safe hold, pin 2 an output. -/
def capturing (f : Port → Port := id) : State :=
  { sailing [] with pwr := { running.pwr with vddio := [(0, .v33)] }
                    port := [(3, f { timers := [(0, { ctl := 0x00000808, cnt := 77 }), (1, { ctl := 0x00001008, caught := some 9 })], edgeCfg := 0x00010001
                                     pins := [(1, { hold := some 2 }), (2, { cfg := 0x10 }), (3, { cfg := 0x29 })], pinOut := 4 })] }
theorem witness_PortHardware_pins : pinDrive (capturing) 3 1 = [some true] ∧ pinDrive (capturing) 3 2 = [some true] ∧ pinDrive (capturing) 3 3 = [none] ∧
    pinDrive (capturing fun q => { q with eng := { q.eng with state := .failed } }) 3 2 = [none] ∧
    pinDrive { capturing with pwr := { (capturing).pwr with domains := 0 } } 3 2 = [none] ∧ domainOn { capturing with pwr := { (capturing).pwr with domains := 0 } } 0 = false := by decide +kernel
theorem test_edge_capture : ((match exec (.edgeCapture 3 0 true) (capturing) with
    | .next t => (timerOf (portOf t 3) 0).caught == some 77 && (timerOf (portOf t 3) 1).caught == some 9 && (edgeOf (portOf t 3) 0).full && (portOf t 3).evPend == 0x10
    | _ => false) : Bool) = true := by decide +kernel
/-- Shift units: DIR 3 on the unit's own clock with room, without room, and stalled; DIR 3 with an external clock; DIR 1 idle. -/
theorem witness_PortHardware_shift : ([{ cfg := 0x000000E3, sr := some (5, false), tx := [(6, true)] }, { cfg := 0x000000E3, sr := some (5, true), rx := List.replicate 8 0 },
      { cfg := 0x000000E3, done := some 1, stall := true }, { cfg := 0x000010E3, sr := some (5, true) }, { cfg := 0x000000E1 }] : List Shift).map
        (fun z => (shiftDir z, shiftCoupled z, z.sr.isSome, z.done.isSome, decide (z.rx.length < 8), decide (shiftBits z 5 = [true, false, true, false, false, false, false, false]))) =
    [(3, true, true, false, true, true), (3, true, true, false, false, true), (3, true, false, true, true, true), (3, false, true, false, true, true), (1, true, false, false, true, true)] ∧
    receivedBits { cfg := 0x000000E3 } [[true], [], [false, true, true]] = [some true, none, some false, none, none, none, none, none] ∧
    receivedBits { cfg := 0x000004E3 } [[true], [], [false, true, true]] = [none, none, some true, none, none, none, none, none] ∧
    inputSamples { pins := [(0, { cfg := 0x1000 })] } { cfg := 0x000000E3 } [true, false] = [false, true] := by decide +kernel
/-- A classical frame of eight bytes, received by a controller in mode 1: good, bad, of another format, and ignored. -/
def busPort (cfg : Word) (f : BusCtl → BusCtl := id) : State := { sailing [] with port := [(3, { number := 9, bc := f { cfg := cfg, errState := 0 } })] }
theorem witness_PortHardware_frames : ([⟨[5, 0, 0, 0], [1, 2, 3, 4, 5, 6, 7, 8], true, 0, 0⟩, ⟨[5, 0, 0, 0], [], false, 0, 2⟩, ⟨[5, 1, 0, 0], [], true, 0, 0⟩] : List BusFrame).map
      (fun f => (modeCarries (busMode (portOf (busPort 0x09) 3).bc) (fieldOf (f.head.getD 1 0) 0 3), f.good, (busRecord (busPort 0x09) 3 f).length)) =
    [(true, true, 72), (true, false, 64), (false, true, 64)] ∧ busOn (portOf (busPort 0x89) 3) = true ∧ (portOf (busPort 0x89) 3).bc.cfg.getLsbD 7 = true := by decide +kernel
/-- Frames that wait to be sent: the first in order, the first in priority; a bus that is busy; a PLCA node whose turn it is and whose turn it is not; bus-off. -/
theorem witness_PortHardware_sends : let l : List TxFrame := [{ bytes := [9, 0, 0, 0, 0, 0, 0, 0] }, { bytes := [5, 0, 0, 0, 0, 0, 0, 0] }]
    ([0x01, 0x11, 0x01].map fun c => nextFrame { cfg := c, errState := 0, tx := l }) = [some 0, some 1, some 0] ∧ nextFrame { cfg := 0x01, errState := 0 } = none ∧
    ([{ cfg := 0x01, errState := 0 }, { cfg := 0x01, errState := 0, busy := true }, { cfg := 0x04, errState := 0, plca := 0x00080201, plcaActive := true, turn := 2 },
      { cfg := 0x04, errState := 0, plca := 0x00080201, plcaActive := true, turn := 1 }] : List BusCtl).map maySend = [true, false, true, false] ∧
    (busOn (portOf (busPort 0x21 fun b => { b with errState := 2 }) 3) = true ∧ (0x21 : Word).getLsbD 5 = true) := by decide +kernel

/-- Whether a command's next state satisfies a test. -/
def leads (i : Instr) (s : State) (f : State → Bool) : Bool :=
  match exec i s with
  | .next t => f t
  | _ => false

/-- Every control transfer and an ALU word under a guard that is false, whole and with an uncorrectable error. -/
theorem witness_RoridWaitsAndTraps_skipped : [encB ⟨1, false⟩ 0x10 1 true 5, encB ⟨1, false⟩ 0x11 1 true 5, encK ⟨1, false⟩ 0 0 false 0, encK ⟨1, false⟩ 1 0 false 0,
      encR ⟨1, false⟩ 0x01 0 1 2 3].all (fun w => [FetchMark.clean, .bad].all fun m =>
    let q := portOf (engine w fun q => { q with eng := { q.eng with mark := m } }) 0
    engineAt (engine w) 0 w && roridLegal (imageModeC q) w && !guardTrue q.eng ⟨1, false⟩ && q.eng.mark == m) = true := by decide +kernel
/-- The other registers of a port: pins, timers, edges, shift units, the bus controller, EV_PULSE and ANS. -/
theorem witness_RoridInputOutput_units : [(0x10 : BitVec 8), 0x15, 0x17, 0x19, 0x20, 0x21, 0x22, 0x2F, 0x30, 0x32, 0x3D, 0x42, 0x43, 0x44, 0x4A, 0x4C, 0x50, 0x56, 0x57, 0x59, 0x64].all (fun a =>
    executes (engine (encIO always 0 1 0 false a)) (encIO always 0 1 0 false a) && executes (engine (encIO always 1 1 0 false a)) (encIO always 1 1 0 false a)) = true := by
  decide +kernel
/-- A request that port 0 has been given, under its own number and an older one, for a command and an INVOKE. -/
theorem test_answer : ([(4, false, 0x12), (3, true, 0), (3, false, 0x10)].map fun x =>
    let w := encIO always 1 1 0 false 0x64
    let s := engineWith w [(1, 7)] [] fun q => { q with owner := some 1, number := 3, delivered := some (⟨x.2.1, some 5, 0, 0, false, none⟩, BitVec.ofNat 16 x.1) }
    let s : State := { s with sch := { s.sch with voy := [(5, { aboard with state := .parked, park := .request 0, stage := .waiting, slot := none })] } }
    match exec (.rOut 0 always 1 0 false 0x64) s with
    | .next t => (voyOf t 5).any fun y => y.answer.any fun a => a.status.toNat == x.2.2
    | _ => false) = [true, true, true] := by decide +kernel

/-- WAIT for transfer 2's completion, event 386, which the voyage's watch has seen; and a WAIT that a pulse has woken. -/
theorem test_wait_watched : leads (.mWait 5) (sailing (entryOf 0x06 0xF4 0 0 0 386) fun x => { x with watch := some { channel := 2, completion := true } })
    (fun t => (voyOf t 5).any fun x => x.entry == 1 && x.state == .active) = true := by decide +kernel
theorem test_wait_woken : let w := entryOf 0x06 0xF4 0 0 0 600
    leads (.mWait 5) (sailing w fun x => { x with stage := .woken, saw := true, cur := w, first := w })
    (fun t => (voyOf t 5).any fun x => x.entry == 1 && x.state == .active) = true := by decide +kernel

/-- FORWARD to the transmit queue of port 3 and to endpoint 21, whose packet fits and whose packet is longer than COUNT. -/
theorem test_forward_paths : ([(0x0C, 3, 64, 0), (0x0C, 0xF2, 64, 21), (0x0C, 0xF0, 64, 8)].map fun x =>
    let w := entryOf x.1 x.2.1 x.2.2.1 0 0 7 x.2.2.2 0xFFFFFFFF
    let s := authAt w
    let s := modPort { s with deck := { s.deck with queues := [(7, { owner := 1, depth := 4, packets := [⟨[0], 40⟩] }), (8, { owner := 1, depth := 4 })] } } 3 fun q => { q with txq := 8 }
    leads (.mForward 5) s fun t => (queueOf t 8).any (fun q => q.packets.map (·.len) == [40]) && (voyOf t 5).any (·.entry == 1)) = [true, true, true] := by decide +kernel
theorem test_forward_long : leads (.mForward 5) (sailing (entryOf 0x0C 0xF0 64 0 0 7 0 0 5)) (fun t => (queueOf t 7).any (fun q => q.readAt == 1) &&
    (voyOf t 5).isNone) = true := by decide +kernel

/-- NOP with PAUSE, which awaits event 600: the latch is clear, the completion ring is full, and the latch is set. -/
theorem witness_SuspensionChainsAndTimedEntries_pause : let w := entryOf 0x00 0xF4 0 0 0 (0x200000 + 600 * 0x400000) (flags := 9)
    (runsIn (sailing w) w aboard = false ∧ entryFormat (sailing w) aboard w = none ∧ fPause w = true ∧ (wd w 4).getLsbD 21 = true ∧ fieldOf (wd w 4) 22 10 = 600 ∧
      ownsEvent (sailing w) 1 600 = true ∧ ownsEvent (sailing w) 1 616 = false) ∧
    [(false, (0 : BitVec 16)), (false, 4), (true, 0)].map (fun x => leads (.mNop 5) { sailing w fun y => { y with resumeLatch := x.1 } with
          cq := [(8, { size := 4, base := 0, shadow := 0, irqEn := false, p := x.2 })] } fun t =>
        (voyOf t 5).any fun y => y.state == (if x.1 then .active else if x.2 = 4 then .parked else .suspended) && (y.entry == if x.1 then 1 else 0)) =
      [true, true, true] := by decide +kernel
/-- A voyage that is suspended and awaits event 600, untimed and timed, when voyage 5 signals it. -/
theorem test_suspension_signal : [false, true].map (fun b => leads (.mSignal 5) { sailing (entryOf 0x0F 0xF4 0 0 0 600) with
      sch := { (sailing (entryOf 0x0F 0xF4 0 0 0 600)).sch with voy := [(5, aboard), (9, { aboard with
        state := .suspended, stage := .resumed, slot := none, timed := b, cur := entryOf 0x00 0xF4 0 0 0 (0x200000 + 600 * 0x400000) (flags := 9) })] } } fun t =>
      (voyOf t 9).any fun y => if b then y.state == .suspended && y.resumeAt.isSome else y.state != .suspended && y.resumeAt.isNone) = [true, true] := by decide +kernel
/-- The entry goes on at step 5 after its suspension. -/
theorem test_suspension_resumed : let w := entryOf 0x08 0xF4 0 7 0 2 (flags := 9)
    leads (.mSetv 5) (sailing w fun y => { y with stage := .resumed, cur := w, first := w }) (fun t => (voyOf t 5).any fun y => y.entry == 1 && tGet y.regs 2 0 == 7) = true := by
  decide +kernel

/-- Two entries of a chain that reads 4 bytes of port 3 at 0x200 and the next 8, and a NOP after them. -/
def chained (w w' : List Word) (f : Voyage → Voyage := id) : State :=
  sailing (w ++ w') fun x => f { x with hdr := [0, 700 * 65536, 0, 0, 0, 0, 3] }
theorem test_chain_read : let w := entryOf 0x01 3 4 0x10000 0 0x200 (flags := 2)
    let w' := entryOf 0x01 3 8 0x10100
    (leads (.mRead 5) (chained w w') fun t => (voyOf t 5).any fun y => y.entry == 1 && y.ckEntry == 0 && y.chainK == 4 && y.first == w) = true ∧
    (leads (.mRead 5) (chained w w' fun x => { x with entry := 1, chainK := 4, moved := 4, first := w, ckEntry := 0, reached := 1 }) fun t =>
      (voyOf t 5).any fun y => y.entry == 2 && y.ckEntry == 2 && y.chainK == 0) = true := by decide +kernel
/-- A chained READ of a packet of 40 bytes into 64 and 64: the packet ends in the first entry, and the record gives what is left of both. -/
theorem test_chain_short : let w := entryOf 0x01 0xF0 64 0 0 7 (flags := 6)
    let w' := entryOf 0x01 0xF0 64 (flags := 0x15)
    let s := chained w w'
    (leads (.mRead 5) { s with deck := { s.deck with queues := [(7, { owner := 1, depth := 4, packets := [⟨[0], 40⟩] })] } } fun t =>
      (voyOf t 5).any (fun y => y.entry == 2 && y.cond == 1) && (cqOf t 1 0).any fun c => c.unwritten.length == 1) = true := by
  decide +kernel
/-- A chain whose condition fails is passed whole; an entry with SPAN before one of another operation is rejected. -/
theorem test_chain_skipped : let w := (entryOf 0x01 3 4 0x10000 0 0x200 (flags := 2)).set 0 0x0E030201
    (leads (.mRead 5) (chained w (entryOf 0x01 3 8 0x10100)) fun t => (voyOf t 5).any fun y => y.entry == 2 && y.ckEntry == 2) = true ∧
    (entryFormat (chained (entryOf 0x01 3 4 0x10000 0 0x200 (flags := 2)) (entryOf 0x02 3 4 0x10000 0 0x200))
      { aboard with hdr := [0, 700 * 65536, 0, 0, 0, 0, 3] } (entryOf 0x01 3 4 0x10000 0 0x200 (flags := 2))).isSome = true := by decide +kernel

/-- A timed voyage of class 1 at an entry of its pinned page. -/
def timedAt (w : List Word) (cycles : Nat) (pins : List Nat := [5]) (f : Voyage → Voyage := id) : State :=
  let s := sailing w fun x => f { x with timed := true, xclass := 1, cycles := cycles, hdr := [0, 1, 0, 0, 0, 0x00020000, 3] }
  { s with sch := { s.sch with pages := s.sch.pages.map fun g => { g with pins := pins } } }
/-- NOP costs 8 cycles: with 8 it goes on, with 7 the voyage ends, at MAX_ENTRIES it parks, and on a page that is not pinned it is no longer timed. -/
theorem test_timed_entries : let w := entryOf 0x00 0xF4 0
    [(8, [5], 0), (7, [5], 0), (100, [5], 1), (3, [], 0)].map (fun x => leads (.mNop 5) (timedAt w x.1 x.2.1 fun y => { y with reached := x.2.2 }) fun t =>
      (voyOf t 5).any fun y => if x.1 = 8 then y.entry == 1 && y.cycles == 0 && y.timed else if x.1 = 7 then y.state == .ending && y.heldRecs.length == 1
        else if x.1 = 100 then y.park == .maxEntries && y.cycles == 92 else y.demoted && !y.timed && y.entry == 1 && y.cycles == 3) = [true, true, true, true] := by decide +kernel
/-- A timed SENSE reads what the last landing of class 1 left for it, and POST holds its record. -/
theorem test_timed_sense : let w := entryOf 0x04 3 0 1 0 0 7 0xFF (flags := 0x11)
    let s := timedAt w 100
    let s := modPort s 3 fun q => { q with byClass := [(1, ([(0, 0x101)], false))], bankA := { q.bankA with hdr := (5, 8) :: q.bankA.hdr } }
    (leads (.mSense 5) s fun t => (voyOf t 5).any fun y => tGet y.regs 7 0 == 0x101 && y.cond == 0 && y.heldRecs.length == 1 && y.cycles == 76) = true := by decide +kernel

/-- A function-level reset before READY and after it; the end of partition 5's reset, when its doors are free. -/
theorem test_function_reset : ([false, true].map fun b => leads (.vfFlr 1) { resetting with fw := { resetting.fw with ready := b } } fun t => (partOf t 1).reset.isSome) = [false, true] := by
  decide +kernel
theorem test_reset_drained : leads (.partitionResetDrained 5) { resetting with
      part := [(5, { reset := some { trigger := 0, part := 5, door := 2, doors := [] }, busMaster := true })]
      icu := { resetting.icu with attr := [(296, { prio := 2 }), (517, { prio := 8, vec := 3 })], pend := [296, 517], serv := [517] }
      port := [(9, { owner := some 5, number := 4, txq := 8, swap := some { due := 9, limit := 1 } })] } (fun t =>
    (partOf t 5).reset.isNone && t.icu.pend == [544, 549] && t.icu.serv == [] && (srcOf t 517).prio == 0 && (srcOf t 517).vec == 0 && (portOf t 9).number == 5 &&
      (portOf t 9).swap.isNone && (portOf t 9).safeDue == [.baseLanding]) = true := by decide +kernel
/-- A VDDIO group that was lost while the device was moored comes back. -/
theorem test_vddio_returns : leads (.vddioSupplyChange 0 .v33) { State.reset with pwr := { State.reset.pwr with porstLow := false, phase := .off, vddioLow := [0], vddio := [(0, .out)] } }
    (fun t => t.pwr.vddioLow == [] && tGet t.pwr.vddio 0 .out == .v33) = true := by decide +kernel
/-- Cast-off numbers every port that has an owner, the early table being empty. -/
theorem test_cast_off_numbers : leads (.wakePinAsserted 7 ⟨true, 0, true, true, none⟩) moored (fun t => (portOf t 3).number == 0 && t.pwr.wakeSrc == 8 && t.pwr.phase == .run) = true := by
  decide +kernel

/-- Port 3 with a swap due at LSN 8: taken with a verified image, held back by a stalled shift unit, and its units aborted past the limit. -/
def swapping (f : Port → Port) : State :=
  modPort (sailingAt 6000000 fun t => { t with source := 0, closed := some 8, step := some 0 }) 3 fun q => f { q with
    swap := some { due := 8, limit := 1 }, bankB := { st := .verified, hdr := [(3, 0x20)] }, eng := { q.eng with wait := .event 1 } }
theorem test_swap_lands : leads .landing (swapping id) (fun t => (portOf t 3).swap.isNone && (portOf t 3).active && (portOf t 3).number == 10 && (portOf t 3).eng.pc == 0x20) = true := by
  decide +kernel
theorem test_swap_held : ([0, 1].map fun h => leads .landing (swapping fun q => { q with shifts := [(1, { cfg := 0x000000E3, stall := true })], swap := some { due := 8, limit := 1, held := h } }) fun t =>
    (portOf t 3).swap == some { due := 8, limit := 1, held := 1 } && (portOf t 3).holds == 1 && (shiftOf (portOf t 3) 1).stall && (portOf t 3).flags == 0) = [true, false] := by decide +kernel
/-- A snapshot due at every eighth landing; a bus frame held for this landing; a suspended voyage that this landing resumes. -/
theorem test_landing_snapshot : leads .landing (let s := sailingAt 6000000 fun t => { t with source := 0, closed := some 8, step := some 0 }
    { s with part := [(1, { (partOf s 1) with snap := { repeatN := 8, buffer := 0x10000, length := 64 } })] })
    (fun t => (partOf t 1).snap.exporting == some (8, 6000000) && t.tb.snapRam.isSome) = true := by decide +kernel
theorem test_landing_frame : leads .landing (modPort (sailingAt 6000000 fun t => { t with source := 0, closed := some 8, step := some 0 }) 3 fun q => { q with
      bc := { q.bc with cfg := 0x21, tx := [{ bytes := [1], held := some 8 }, { bytes := [2], held := some 9 }] } })
    (fun t => (portOf t 3).bc.tx.map (·.held) == [none, some 9]) = true := by decide +kernel
theorem test_landing_resumes : leads .landing (let s := sailingAt 6000000 fun t => { t with source := 0, closed := some 8, step := some 0 }
    { s with sch := { s.sch with voy := [(5, { aboard with state := .suspended, stage := .resumed, timed := true, xclass := 1, slot := none, resumes := [(8, 1), (10, 1)], hdr := [0, 3, 70, 5, 6, 0, 2] })] } })
    (fun t => (voyOf t 5).any fun x => x.state == .active && x.resumes == [(10, 1)] && x.timed) = true := by decide +kernel

/-- A barge with a watch armed, whose transfer's completion and mismatch pulses reach it; voyages parked on events 386 and 418. -/
theorem test_barge_pulses : ([(BargeEnd.clean, 386), (.mismatch 5, 418), (.clean, 418)].map fun x =>
    let s := transferring (descOf 0) fun c => { c with ended := some x.1 }
    let s := { s with sch := { s.sch with voy := [(5, { aboard with state := .parked, stage := .waiting, park := .event x.2, slot := none })] } }
    leads (.bargeTransferEnd 2) s fun t => (voyOf t 5).any fun y => y.saw) = [true, true, false] := by decide +kernel
/-- The ring unit's work is cut off with entries to fetch, and without. -/
theorem test_ring_cutoff : ([(1 : BitVec 16), 0].map fun p => leads (.berthCutoff 0 (.ringOther 1 0)) { sailing [] with
      sq := [(8, { size := 4, base := 0x10000, shadow := 0, p := p })]
      brt := [(0, { owner := 17, busy := true, work := .ringOther 1 0, left := 1, beats := 20 })] } fun t => (sqOf t 1 0).any (·.fault)) = [true, false] := by decide +kernel
/-- A burst that has come on in slot 18 keeps the class that it won with. -/
theorem test_berth_carried : leads (.berthDecision 33 ⟨0, []⟩) { berths with brt := [(33, { carried := [(18, { request := ⟨18, .channel 2, 64, 33⟩, cls := .control })] })] }
    (fun t => (arbOf t 33).owner == 18 && (arbOf t 33).busy && (arbOf t 33).carried == []) = true := by decide +kernel
/-- Sources of one group: while its hold-off runs, neither is eligible. -/
theorem test_holdoff : leads (.icuClaim 0) { interrupting true with icu := { (interrupting true).icu with group := [(3, { holdoff := 5 }), (0, { running := true, left := 3 })] } }
    (fun t => t.out.readData == [0x80080258] && (tGet t.icu.group 3 {}).running) = true := by decide +kernel

/-- A message of two fragments: the first opens the packet; the last, in time, ends it; late, the packet is gone. -/
def firstOf : CrossingHeader := { fragment with last := false, msgLen := 66 }
def opened : Option State :=
  match exec (.crossingFragmentReceived 1 firstOf (List.replicate 64 3)) (receiving fun s => modLink s 1 fun l => { l with inbox := [.data firstOf (List.replicate 64 3)] }) with
  | .next t => some t
  | _ => none
theorem test_crossing_fragments : opened.any (fun t => (tFind (linkOf t 1).rx 7).any fun a => a.queue == 8 && a.seq == 0) = true ∧
    ([0, 10000001].map fun d =>
      let h := { fragment with first := false, msgLen := 66, fragOff := 64 }
      opened.any fun t =>
        let t := modLink { t with tb := { t.tb with time := t.tb.time + d } } 1 fun l => { l with inbox := [.data h [1, 2]] }
        leads (.crossingFragmentReceived 1 h [1, 2]) t fun u => (queueOf u 8).any fun q => q.building == [] && q.packets.map (·.len) == (if d = 0 then [66] else [])) = [true, true] := by
  decide +kernel

/-! ## The block as a whole -/

theorem witness_StepKeepsMemories : (submitted [1, 2, 3]).memWf = true ∧ State.reset.memWf = true := by decide +kernel
theorem witness_StepKeepsTables : fullEngine.inOrder ∧ State.reset.inOrder := by unfold State.inOrder keysRise; decide +kernel
theorem witness_StepRunsTheFrontCommand_rest : ((match step { running with pending := [.icuClaim 0, .landing] } with
    | .next t => t.pending == [.landing]
    | _ => false) : Bool) = true := by decide +kernel

end Sys2Proof.Tests
end

section
/-!
SUPPORT. The doorbell of a submission ring (05_rings.md R155, R157): what the ring does with the new index, case by case, and which doorbells come that far.
-/
namespace Sys2Proof.Machine

variable {s : State} {p n : Nat} {r : SubRing} {d : BitVec 16}

/-! ## What an existing ring does with a new producer index -/

/-- Changing an existing ring puts the changed ring in its place. -/
theorem modSq_of_sqOf (f : SubRing → SubRing) (h : sqOf s p n = some r) :
    modSq s p n f = { s with sq := tPut s.sq (8 * p + n) (f r) } := by
  unfold sqOf at h
  simp [modSq, h]

/-- Beyond the ring. -/
theorem ringBell_overrun (hr : sqOf s p n = some r) (h : r.size < (d - r.c).toNat) :
    ringBell s p n r d =
      partEvent { s with sq := tPut s.sq (8 * p + n) { r with overrun := true, cnt := bump r.cnt 2 } } p 0 := by
  simp only [ringBell, sqEvent, modSq_of_sqOf _ hr, if_pos h]

/-- Behind the accepted index. -/
theorem ringBell_regress (hr : sqOf s p n = some r) (h : (d - r.c).toNat ≤ r.size)
    (hlt : (d - r.c).toNat < (r.p - r.c).toNat) :
    ringBell s p n r d =
      partEvent { s with sq := tPut s.sq (8 * p + n) { r with regress := true, cnt := bump r.cnt 2 } } p 0 := by
  simp only [ringBell, sqEvent, modSq_of_sqOf _ hr, if_neg (Nat.not_lt.mpr h), if_pos hlt]

/-- At the accepted index. -/
theorem ringBell_repeated (hd : d = r.p) (h : (d - r.c).toNat ≤ r.size) : ringBell s p n r d = s := by
  subst hd
  simp only [ringBell, if_neg (Nat.not_lt.mpr h), Nat.lt_irrefl, if_true, if_false]

/-- Forward within the ring: the doorbell covers the entries as they stand now (R155). -/
theorem ringBell_forward (hr : sqOf s p n = some r) (hd : d ≠ r.p) (hle : (r.p - r.c).toNat ≤ (d - r.c).toNat)
    (h : (d - r.c).toNat ≤ r.size) :
    ringBell s p n r d =
      { s with sq := tPut s.sq (8 * p + n) { r with p := d, cover := r.cover ++ [(d, openAny s)],
                                                    old := r.old ++ coveredNow s p r d } } := by
  simp only [ringBell, modSq_of_sqOf _ hr, if_neg (Nat.not_lt.mpr h), if_neg (Nat.not_lt.mpr hle), if_neg hd]

/-! ## Which doorbells come to a ring -/

section Outcome

variable {p : Fin 32} {n : Fin 8} {w : BitVec 32}

/-- The row of the doorbell in the instruction table. -/
theorem exec_sqDoorbell : exec (.sqDoorbell p n w) s = execSqDoorbell p n w s := rfl

/-- Behind the fence of a partition reset (R232). -/
theorem exec_sqDoorbell_fenced (h : (partOf s p).reset ≠ none) : exec (.sqDoorbell p n w) s = .next s := by
  have hs : (partOf s p).reset.isSome = true := Option.isSome_iff_ne_none.mpr h
  simp [exec_sqDoorbell, execSqDoorbell, hs]

/-- To a ring that does not exist (R237). -/
theorem exec_sqDoorbell_absent (hrun : isRun s = true) (h : (partOf s p).reset = none) (hr : sqOf s p n = none) :
    exec (.sqDoorbell p n w) s = .next (bumpPart s p 1) := by
  simp [exec_sqDoorbell, execSqDoorbell, hrun, h, hr]

/-- During entry to moored (R511). -/
theorem exec_sqDoorbell_mooring (hrun : isRun s = true) (h : (partOf s p).reset = none) (hr : sqOf s p n = some r)
    (hm : s.pwr.mooring ≠ none) :
    exec (.sqDoorbell p n w) s = .next { s with sq := tPut s.sq (8 * p.val + n.val) { r with cnt := bump r.cnt 2 } } := by
  have hs : s.pwr.mooring.isSome = true := Option.isSome_iff_ne_none.mpr hm
  simp [exec_sqDoorbell, execSqDoorbell, hrun, h, hr, hs, modSq_of_sqOf _ hr]

/-- Every other doorbell takes effect at its ring, and the sources that it makes eligible send their messages. -/
theorem exec_sqDoorbell_taken (hrun : isRun s = true) (h : (partOf s p).reset = none) (hr : sqOf s p n = some r)
    (hm : s.pwr.mooring = none) :
    exec (.sqDoorbell p n w) s = .next (settle s (ringBell s p n r (w.setWidth 16))) := by
  simp [exec_sqDoorbell, execSqDoorbell, hrun, h, hr, hm]

end Outcome

/-- Settles O29: a doorbell that is fenced, that names no ring or that comes during entry to moored ends before the ring; of the others, each case of the distance from the consumer index has its own effect on the ring. -/
theorem submissionDoorbells : Obligations.SubmissionDoorbells := by
  unfold Obligations.SubmissionDoorbells
  intro s p n w r hrun d put bells
  refine ⟨fun h => ⟨_, exec_sqDoorbell_fenced h, .refl _⟩, fun h hr => ⟨_, exec_sqDoorbell_absent hrun h hr, .refl _⟩,
    fun h hr hm => ⟨_, exec_sqDoorbell_mooring hrun h hr hm, .refl _⟩, fun h hr hm => ?_⟩
  have taken {u : State} (hu : ringBell s p n r d = u) : bells u :=
    ⟨_, exec_sqDoorbell_taken hrun h hr hm, hu ▸ concluded_settle s _⟩
  exact ⟨fun hover => taken (ringBell_overrun hr hover), fun hle hlt => taken (ringBell_regress hr hle hlt),
    fun hd hle => taken (ringBell_repeated hd hle), fun hd hfwd hle => taken (ringBell_forward hr hd hfwd hle)⟩

end Sys2Proof.Machine
end

section
/-!
SUPPORT. The results and flags of Rorid arithmetic in the terms of the rules (11_rorid_instructions.md R326 to R333): sums and differences, shifts, leading zeros, widenings, products and quotients. Every operation that writes one register then follows from the value of its effect.
-/
namespace Sys2Proof.Machine

variable {s : State} {p : Fin 96} {g : Guard} {w : Word} (a b : Word)

/-! ## Flags (R327) -/

theorem flagIf_or_flagIf (c v : Bool) : flagIf c flagC ||| flagIf v flagV = flagsOf c v false := by
  simp [flagsOf, flagIf]

theorem flagIf_flagV (v : Bool) : flagIf v flagV = flagsOf false v false := by
  simp [flagsOf, flagIf]

theorem outside32_eq (x : Int) : outside32 x = decide (x < -2 ^ 31 ∨ 2 ^ 31 - 1 < x) := by
  rw [outside32, Bool.decide_or]
  exact congrArg _ (decide_eq_decide.mpr (by omega))

/-! ## Sums and differences (R326, R327, R330) -/

theorem addFlags_zero :
    addFlags a b 0 = (BitVec.ofNat 32 (a.toNat + b.toNat),
      flagsOf (2 ^ 32 ≤ a.toNat + b.toNat) (a.toInt + b.toInt < -2 ^ 31 ∨ 2 ^ 31 - 1 < a.toInt + b.toInt) false,
      decide (2 ^ 32 ≤ a.toNat + b.toNat)) := by
  simp only [addFlags, flagIf_or_flagIf, outside32_eq, Nat.add_zero, Int.natCast_zero, Int.add_zero]

theorem subFlags_zero :
    subFlags a b 0 = (a - b,
      flagsOf (a.toNat < b.toNat) (a.toInt - b.toInt < -2 ^ 31 ∨ 2 ^ 31 - 1 < a.toInt - b.toInt) false,
      decide (a.toNat < b.toNat)) := by
  simp only [subFlags, flagIf_or_flagIf, outside32_eq, Nat.add_zero, Int.natCast_zero, Int.sub_zero, BitVec.sub_zero]

theorem ofInt_toInt_add : BitVec.ofInt 32 (a.toInt + b.toInt) = BitVec.ofNat 32 (a.toNat + b.toNat) := by
  rw [BitVec.ofInt_add, BitVec.ofNat_add]
  simp only [BitVec.ofInt_toInt, BitVec.ofNat_toNat, BitVec.setWidth_eq]

theorem ofInt_sub (x y : Int) : BitVec.ofInt 32 (x - y) = BitVec.ofInt 32 x - BitVec.ofInt 32 y := by
  rw [Int.sub_eq_add_neg, BitVec.ofInt_add, BitVec.ofInt_neg, BitVec.sub_eq_add_neg]

theorem ofInt_toInt_sub : BitVec.ofInt 32 (a.toInt - b.toInt) = a - b := by
  simp only [ofInt_sub, BitVec.ofInt_toInt]

theorem ofInt_toNat_sub : BitVec.ofInt 32 (a.toNat - b.toNat) = a - b := by
  simp only [ofInt_sub, BitVec.ofInt_natCast, BitVec.ofNat_toNat, BitVec.setWidth_eq]

/-- ADDI is the sum with the immediate read as a signed integer. -/
theorem addFlags_signExtend (imm : BitVec 11) :
    addFlags a (imm.signExtend 32) 0 = (BitVec.ofInt 32 (a.toInt + imm.toInt),
      flagsOf (2 ^ 32 ≤ a.toNat + (BitVec.ofInt 32 imm.toInt).toNat)
        (a.toInt + imm.toInt < -2 ^ 31 ∨ 2 ^ 31 - 1 < a.toInt + imm.toInt) false,
      decide (2 ^ 32 ≤ a.toNat + (BitVec.ofInt 32 imm.toInt).toNat)) := by
  have hx : (imm.signExtend 32).toInt = imm.toInt := BitVec.toInt_signExtend_of_le (by decide)
  rw [addFlags_zero, ← ofInt_toInt_add, hx]
  rfl

/-- SUBI is the difference with the immediate read as a signed integer. -/
theorem subFlags_signExtend (imm : BitVec 11) :
    subFlags a (imm.signExtend 32) 0 = (BitVec.ofInt 32 (a.toInt - imm.toInt),
      flagsOf (a.toNat < (BitVec.ofInt 32 imm.toInt).toNat)
        (a.toInt - imm.toInt < -2 ^ 31 ∨ 2 ^ 31 - 1 < a.toInt - imm.toInt) false,
      decide (a.toNat < (BitVec.ofInt 32 imm.toInt).toNat)) := by
  have hx : (imm.signExtend 32).toInt = imm.toInt := BitVec.toInt_signExtend_of_le (by decide)
  rw [subFlags_zero, ← ofInt_toInt_sub, hx]
  rfl

/-! ## Shifts (R328) -/

theorem fieldOf_low_six : fieldOf b 0 6 = b.toNat % 64 := by
  simp [fieldOf]

theorem shlBy_eq (n : Nat) : shlBy a n = if n < 32 then BitVec.ofNat 32 (a.toNat * 2 ^ n) else 0 := by
  split
  case isTrue => exact congrArg (BitVec.ofNat 32) (Nat.shiftLeft_eq a.toNat n)
  case isFalse h => exact BitVec.shiftLeft_eq_zero (Nat.le_of_not_lt h)

theorem shrBy_eq (n : Nat) : shrBy a n = if n < 32 then BitVec.ofNat 32 (a.toNat / 2 ^ n) else 0 := by
  split
  case isTrue =>
    have hlt : a.toNat / 2 ^ n < 2 ^ 32 := Nat.lt_of_le_of_lt (Nat.div_le_self ..) a.isLt
    apply BitVec.eq_of_toNat_eq
    rw [shrBy, BitVec.toNat_ushiftRight, Nat.shiftRight_eq_div_pow, BitVec.toNat_ofNat, Nat.mod_eq_of_lt hlt]
  case isFalse h => exact BitVec.ushiftRight_eq_zero (Nat.le_of_not_lt h)

/-- From a count of 32 on, every bit is a copy of the sign. -/
theorem sshiftRight_of_width_le {n : Nat} (h : 32 ≤ n) : a.sshiftRight n = if a.getLsbD 31 then 0xFFFFFFFF else 0 := by
  rw [show a.getLsbD 31 = a.msb from (BitVec.msb_eq_getLsbD_last a).symm]
  split
  case isTrue hs => rw [BitVec.sshiftRight_eq_of_msb_true hs, BitVec.ushiftRight_eq_zero h]; rfl
  case isFalse hs => rw [BitVec.sshiftRight_eq_of_msb_false (Bool.eq_false_iff.mpr hs), BitVec.ushiftRight_eq_zero h]; rfl

theorem sarBy_eq (n : Nat) :
    sarBy a n = if n < 32 then BitVec.ofInt 32 (a.toInt / 2 ^ n) else if a.getLsbD 31 then 0xFFFFFFFF else 0 := by
  split
  case isTrue =>
    rw [sarBy, BitVec.sshiftRight_eq, Int.shiftRight_eq_div_pow]
    norm_cast
  case isFalse h => exact sshiftRight_of_width_le a (Nat.le_of_not_lt h)

/-! ## Unary operations and wide constants (R329, R331) -/

/-- Of the bits below `m`, the leading `clzFrom a m` are 0, and the next one, where there is one, is 1. -/
theorem clzFrom_spec : ∀ m, clzFrom a m ≤ m ∧ (∀ j, m - clzFrom a m ≤ j → j < m → a.getLsbD j = false) ∧
    (clzFrom a m < m → a.getLsbD (m - 1 - clzFrom a m) = true)
  | 0 => by simp [clzFrom]
  | m + 1 => by
    obtain ⟨hle, hzero, hone⟩ := clzFrom_spec m
    by_cases hm : a.getLsbD m = true
    · have hk : clzFrom a (m + 1) = 0 := by simp [clzFrom, hm]
      refine ⟨by omega, fun j _ _ => by omega, fun _ => ?_⟩
      rwa [hk]
    · have hk : clzFrom a (m + 1) = 1 + clzFrom a m := by simp [clzFrom, hm]
      refine ⟨by omega, fun j hj hlt => ?_, fun hlt => ?_⟩
      · obtain rfl | hjm := Nat.eq_or_lt_of_le (Nat.le_of_lt_succ hlt)
        · exact Bool.eq_false_iff.mpr hm
        · exact hzero j (by omega) hjm
      · rw [show m + 1 - 1 - clzFrom a (m + 1) = m - 1 - clzFrom a m by omega]
        exact hone (by omega)

/-- CLZ counts the zero bits above the highest bit that is 1. -/
theorem clz_spec : ∃ k, k ≤ 32 ∧ (∀ j, 32 - k ≤ j → a.getLsbD j = false) ∧ (k < 32 → a.getLsbD (31 - k) = true) ∧
    clz a = BitVec.ofNat 32 k := by
  obtain ⟨hle, hzero, hone⟩ := clzFrom_spec a 32
  refine ⟨clzFrom a 32, hle, fun j hj => ?_, hone, rfl⟩
  by_cases hlt : j < 32
  · exact hzero j hj hlt
  · exact BitVec.getLsbD_of_ge a j (Nat.le_of_not_lt hlt)

theorem negFlags_eq : negFlags a = (0 - a, flagsOf false (a = 0x80000000) false) := by
  rw [negFlags, flagIf_flagV]
  rfl

theorem absFlags_eq : absFlags a = (if 0 ≤ a.toInt then a else 0 - a, flagsOf false (a = 0x80000000) false) := by
  rw [absFlags, flagIf_flagV]
  rfl

theorem setWidth_byte : a.setWidth 8 = a.extractLsb 7 0 := BitVec.setWidth_eq_extractLsb' (by decide)

theorem setWidth_half : a.setWidth 16 = a.extractLsb 15 0 := BitVec.setWidth_eq_extractLsb' (by decide)

theorem append_low_half (imm : BitVec 16) :
    imm ++ a.setWidth 16 = BitVec.ofNat 32 (imm.toNat * 2 ^ 16 + a.toNat % 2 ^ 16) := by
  have hlow : a.toNat % 2 ^ 16 < 2 ^ 16 := Nat.mod_lt _ (by decide)
  apply BitVec.eq_of_toNat_eq
  rw [BitVec.toNat_append, BitVec.toNat_setWidth, ← Nat.shiftLeft_add_eq_or_of_lt hlow, Nat.shiftLeft_eq, BitVec.toNat_ofNat]
  omega

/-! ## Products and quotients (R332, R333) -/

theorem mulFlags_eq :
    mulFlags a b = (BitVec.ofNat 32 (a.toNat * b.toNat),
      flagsOf false (a.toInt * b.toInt < -2 ^ 31 ∨ 2 ^ 31 - 1 < a.toInt * b.toInt) false) := by
  simp only [mulFlags, flagIf_flagV, outside32_eq, BitVec.ofNat_mul, BitVec.ofNat_toNat, BitVec.setWidth_eq]

theorem highWord_natCast (n : Nat) : highWord n = BitVec.ofNat 32 (n / 2 ^ 32) := by
  rw [highWord, ← BitVec.ofInt_natCast]
  norm_cast

theorem divOverflow_eq : divOverflow a b = decide (a = 0x80000000 ∧ b = 0xFFFFFFFF) := by
  rw [Bool.decide_and]
  rfl

/-- The three outcomes of a signed division: a zero divisor sets DZ, the one overflow sets V, and the others set neither. -/
theorem signedDivision_eq (z o x : Word) :
    (if b = 0 then (z, flagDZ) else if divOverflow a b then (o, flagV) else (x, 0)) =
      (if b = 0 then z else if a = 0x80000000 ∧ b = 0xFFFFFFFF then o else x,
        flagsOf false (a = 0x80000000 ∧ b = 0xFFFFFFFF) (b = 0)) := by
  rw [divOverflow_eq]
  by_cases hb : b = 0
  · have hv : ¬ (a = 0x80000000 ∧ b = 0xFFFFFFFF) := fun h => absurd (hb.symm.trans h.2) (by decide)
    rw [decide_eq_false hv, if_pos hb, if_pos hb, decide_eq_true hb]
    rfl
  · by_cases hv : a = 0x80000000 ∧ b = 0xFFFFFFFF
    · rw [decide_eq_true hv, if_neg hb, if_neg hb, if_pos rfl, if_pos hv, decide_eq_false hb]
      rfl
    · rw [decide_eq_false hv, if_neg hb, if_neg hb, if_neg Bool.false_ne_true, if_neg hv, decide_eq_false hb]
      rfl

/-- The two outcomes of an unsigned division. -/
theorem unsignedDivision_eq (z x : Word) :
    (if b = 0 then (z, flagDZ) else (x, 0)) = (if b = 0 then z else x, flagsOf false false (b = 0)) := by
  by_cases hb : b = 0
  · rw [if_pos hb, if_pos hb, decide_eq_true hb]
    rfl
  · rw [if_neg hb, if_neg hb, decide_eq_false hb]
    rfl

theorem divFlags_eq :
    divFlags a b =
      (if b = 0 then (if 0 ≤ a.toInt then 0x7FFFFFFF else 0x80000000)
        else if a = 0x80000000 ∧ b = 0xFFFFFFFF then 0x80000000 else BitVec.ofInt 32 (a.toInt.tdiv b.toInt),
      flagsOf false (a = 0x80000000 ∧ b = 0xFFFFFFFF) (b = 0)) :=
  signedDivision_eq a b _ _ _

/-- REM is what the quotient, rounded toward zero, leaves of the dividend. -/
theorem remFlags_eq :
    remFlags a b =
      (if b = 0 then a else if a = 0x80000000 ∧ b = 0xFFFFFFFF then 0
        else BitVec.ofInt 32 (a.toInt - a.toInt.tdiv b.toInt * b.toInt),
      flagsOf false (a = 0x80000000 ∧ b = 0xFFFFFFFF) (b = 0)) := by
  rw [Int.mul_comm, ← Int.tmod_def]
  exact signedDivision_eq a b _ _ _

theorem divuFlags_eq :
    divuFlags a b = (if b = 0 then 0xFFFFFFFF else BitVec.ofNat 32 (a.toNat / b.toNat), flagsOf false false (b = 0)) :=
  unsignedDivision_eq b _ _

theorem remuFlags_eq :
    remuFlags a b = (if b = 0 then a else BitVec.ofNat 32 (a.toNat % b.toNat), flagsOf false false (b = 0)) :=
  unsignedDivision_eq b _ _

/-! ## The instructions -/

/-- An operation whose effect on the corrected port is known writes that word and sets those flags. -/
theorem runAlu_writes (h : Executes s p g w) {c : Nat} {rd : BitVec 4} {f : Port → Word × BitVec 5} {x : Word} {y : BitVec 5}
    (hf : f (portOf (met s p) p) = (x, y)) : runAlu p g w c rd f s = .next (regWritten s p rd x y c) := by
  rw [runAlu_executes h, hf]

/-- Settles O1: the value lemma of each operation, applied to the operands of the instruction. -/
theorem roridIntegerOperations : Obligations.RoridIntegerOperations := by
  unfold Obligations.RoridIntegerOperations
  refine ⟨fun s p g rd ra rb => ?registers, fun s p g rd ra => ?unary, fun s p g rd ra imm n m18 m16 => ?constants⟩
  case registers =>
    intro a b n does
    exact ⟨fun h => show execRAdd .. = _ from runAlu_writes h (by simp only [readReg_met, addFlags_zero, a, b]),
      fun h => show execRSub .. = _ from runAlu_writes h (by simp only [readReg_met, subFlags_zero, ofInt_toNat_sub, a, b]),
      fun h => show execRAnd .. = _ from runAlu_writes h (by simp only [readReg_met, a, b]),
      fun h => show execROr .. = _ from runAlu_writes h (by simp only [readReg_met, a, b]),
      fun h => show execRXor .. = _ from runAlu_writes h (by simp only [readReg_met, a, b]),
      fun h => show execRAndn .. = _ from runAlu_writes h (by simp only [readReg_met, a, b]),
      fun h => show execRShl .. = _ from runAlu_writes h (by simp only [readReg_met, fieldOf_low_six, shlBy_eq, a, b, n]),
      fun h => show execRShr .. = _ from runAlu_writes h (by simp only [readReg_met, fieldOf_low_six, shrBy_eq, a, b, n]),
      fun h => show execRSar .. = _ from runAlu_writes h (by simp only [readReg_met, fieldOf_low_six, sarBy_eq, a, b, n]),
      fun h => show execRRol .. = _ from runAlu_writes h (by simp only [readReg_met, fieldOf_low_six, a, b, n]),
      fun h => show execRRor .. = _ from runAlu_writes h (by simp only [readReg_met, fieldOf_low_six, a, b, n])⟩
  case unary =>
    intro a does
    refine ⟨fun h => show execRMov .. = _ from runAlu_writes h (by simp only [readReg_met, a]),
      fun h => show execRNeg .. = _ from runAlu_writes h (by simp only [readReg_met, negFlags_eq, a]),
      fun h => show execRNot .. = _ from runAlu_writes h (by simp only [readReg_met, a]),
      fun h => show execRAbs .. = _ from runAlu_writes h (by simp only [readReg_met, absFlags_eq, a]),
      fun h => show execRSxb .. = _ from runAlu_writes h (by simp only [readReg_met, setWidth_byte, a]),
      fun h => show execRSxh .. = _ from runAlu_writes h (by simp only [readReg_met, setWidth_half, a]),
      fun h => show execRZxb .. = _ from runAlu_writes h (by simp only [readReg_met, setWidth_byte, a]),
      fun h => show execRZxh .. = _ from runAlu_writes h (by simp only [readReg_met, setWidth_half, a]),
      fun h => ?_⟩
    obtain ⟨k, hle, hzero, hone, hk⟩ := clz_spec a
    exact ⟨k, hle, hzero, hone, show execRClz .. = _ from runAlu_writes h (by simp only [readReg_met, hk, a])⟩
  case constants =>
    intro a old x u k does
    exact ⟨fun h => show execRAddi .. = _ from runAlu_writes h (by simp only [readReg_met, addFlags_signExtend, a, x]),
      fun h => show execRSubi .. = _ from runAlu_writes h (by simp only [readReg_met, subFlags_signExtend, a, x]),
      fun h => show execRAndi .. = _ from runAlu_writes h (by simp only [readReg_met, BitVec.ofNat_toNat, a, u]),
      fun h => show execROri .. = _ from runAlu_writes h (by simp only [readReg_met, BitVec.ofNat_toNat, a, u]),
      fun h => show execRXori .. = _ from runAlu_writes h (by simp only [readReg_met, BitVec.ofNat_toNat, a, u]),
      fun h => show execRShli .. = _ from runAlu_writes h (by simp only [readReg_met, shlBy_eq, a, k]),
      fun h => show execRShri .. = _ from runAlu_writes h (by simp only [readReg_met, shrBy_eq, a, k]),
      fun h => show execRSari .. = _ from runAlu_writes h (by simp only [readReg_met, sarBy_eq, a, k]),
      fun h => show execRMovi .. = _ from runAlu_writes h rfl,
      fun h => show execRMovhi .. = _ from runAlu_writes h (by simp only [readReg_met, append_low_half, old])⟩

/-- Settles O2: the outcome of each operation, a zero divisor and the overflow included, is that of its model function; no division ends otherwise than by going on. -/
theorem roridMultiplyDivide : Obligations.RoridMultiplyDivide := by
  unfold Obligations.RoridMultiplyDivide
  intro s p g rd ra rb a b does
  exact ⟨fun h => show execRMul .. = _ from runAlu_writes h (by simp only [readReg_met, mulFlags_eq, a, b]),
    fun h => show execRMulhs .. = _ from runAlu_writes h (by simp only [readReg_met, highWord, a, b]),
    fun h => show execRMulhu .. = _ from runAlu_writes h (by simp only [readReg_met, highWord_natCast, a, b]),
    fun h => show execRDiv .. = _ from runAlu_writes h (by simp only [readReg_met, divFlags_eq, a, b]),
    fun h => show execRDivu .. = _ from runAlu_writes h (by simp only [readReg_met, divuFlags_eq, a, b]),
    fun h => show execRRem .. = _ from runAlu_writes h (by simp only [readReg_met, remFlags_eq, a, b]),
    fun h => show execRRemu .. = _ from runAlu_writes h (by simp only [readReg_met, remuFlags_eq, a, b])⟩

end Sys2Proof.Machine
end
